-- ==== Sys2Proof/Word.lean ====
section
/-! DEFINITION. The word types of the part and the plain list helpers every file uses: bit fields of a
natural number, lists read with a default and updated in place, and the sixteen lanes of a token. -/

namespace Sys2Proof

/-- A 32-bit lane. -/
abbrev W := BitVec 32
abbrev Byte := BitVec 8
abbrev W16 := BitVec 16
abbrev W64 := BitVec 64

/-- Bits `[lo + n - 1 : lo]` of a natural number. -/
def fld (w lo n : Nat) : Nat := w / 2 ^ lo % 2 ^ n

/-- Bit `k` of a natural number. -/
def bitN (w k : Nat) : Bool := w / 2 ^ k % 2 == 1

/-- Entry `i` of a list, or the default. -/
def nth {α : Type} (d : α) : List α → Nat → α
  | [], _ => d
  | x :: _, 0 => x
  | _ :: xs, i + 1 => nth d xs i

/-- The list with entry `i` changed by `f`; a place past the end changes nothing. -/
def upd {α : Type} (f : α → α) : List α → Nat → List α
  | [], _ => []
  | x :: xs, 0 => f x :: xs
  | x :: xs, i + 1 => x :: upd f xs i

/-- The list without entry `i`. -/
def dropAt {α : Type} : List α → Nat → List α
  | [], _ => []
  | _ :: xs, 0 => xs
  | x :: xs, i + 1 => x :: dropAt xs i

/-- The first index whose entry satisfies `p`. -/
def findIdx {α : Type} (p : α → Bool) : List α → Option Nat
  | [] => none
  | x :: xs => if p x then some 0 else (findIdx p xs).map (· + 1)

/-- A list of pairs read as a finite map. -/
def lookupN {α : Type} (k : Nat) : List (Nat × α) → Option α
  | [] => none
  | (k', v) :: r => if k = k' then some v else lookupN k r

/-- A finite map with one key set. -/
def insertN {α : Type} (k : Nat) (v : α) : List (Nat × α) → List (Nat × α)
  | [] => [(k, v)]
  | (k', v') :: r => if k = k' then (k, v) :: r else (k', v') :: insertN k v r

/-- The sixteen 32-bit lanes of a token or v-register (R29, R60), lane 0 first. -/
abbrev Lanes := List W

namespace Lanes

/-- Lane `k`. -/
def get (l : Lanes) (k : Nat) : W := nth 0 l k

/-- The token whose lane `k` is `f k`. -/
def ofFn (f : Nat → W) : Lanes :=
  [f 0, f 1, f 2, f 3, f 4, f 5, f 6, f 7, f 8, f 9, f 10, f 11, f 12, f 13, f 14, f 15]

/-- The same value in every lane. -/
def rep (x : W) : Lanes := ofFn fun _ => x

/-- Zero in every lane. -/
def zero : Lanes := rep 0

/-- A token whose first lanes are given and whose other lanes are zero. -/
def ofList (l : List W) : Lanes := ofFn fun k => nth 0 l k

end Lanes

/-- The lane numbers, in ascending order. -/
def laneNums : List Nat := [0, 1, 2, 3, 4, 5, 6, 7, 8, 9, 10, 11, 12, 13, 14, 15]

/-- Sixteen predicate or mask bits from a function of the lane. -/
def bits16 (f : Nat → Bool) : W16 :=
  BitVec.ofNat 16 (laneNums.foldl (fun acc k => acc + if f k then 2 ^ k else 0) 0)

/-- Bit `k` of a bit vector, with a natural index. -/
def tb {n : Nat} (x : BitVec n) (k : Nat) : Bool := x.getLsbD k

/-- The little-endian bytes of a natural number (R23). -/
def leBytes : Nat → Nat → List Byte
  | 0, _ => []
  | n + 1, v => BitVec.ofNat 8 v :: leBytes n (v / 256)

/-- The natural number of little-endian bytes (R23). -/
def ofLe : List Byte → Nat
  | [] => 0
  | b :: bs => b.toNat + 256 * ofLe bs

/-- The 64 bytes of sixteen lanes in address order (R61). -/
def laneBytes (l : Lanes) : List Byte := laneNums.flatMap fun k => leBytes 4 (l.get k).toNat

/-- Sixteen lanes from 64 bytes. -/
def lanesOfBytes (bs : List Byte) : Lanes := Lanes.ofFn fun k => BitVec.ofNat 32 (ofLe ((bs.drop (4 * k)).take 4))

/-- Two lanes, low word first, as one number (R273). -/
def lane64 (l : Lanes) (k : Nat) : Nat := (l.get k).toNat + 2 ^ 32 * (l.get (k + 1)).toNat

/-- The low and the high word of a 64-bit number. -/
def lo32 (n : Nat) : W := BitVec.ofNat 32 n
def hi32 (n : Nat) : W := BitVec.ofNat 32 (n / 2 ^ 32)

/-- A signed reading of the low `n` bits of a natural number. -/
def sextN (n w : Nat) : Int := if w % 2 ^ n < 2 ^ (n - 1) then (w % 2 ^ n : Int) else (w % 2 ^ n : Int) - 2 ^ n

/-- An integer modulo `2^n`, as a natural number. -/
def modN (n : Nat) (i : Int) : Nat := (i % 2 ^ n).toNat

/-- A count that stops at its bound. -/
def satAdd (bound a b : Nat) : Nat := min bound (a + b)

/-- Ceiling of a quotient. -/
def ceilDiv (a b : Nat) : Nat := (a + b - 1) / b

end Sys2Proof
end

