-- ==== Sys2Proof/Config.lean ====
section
/-! DEFINITION. What the part fixes and the spec does not state: the free values. Each is a constant with
no body, so nothing can evaluate it; a model that uses one is true for every value of it. -/

namespace Sys2Proof.Config

/-- A 64-bit value that the spec leaves open, numbered by the state's counter (log 12). -/
opaque freeWord : Nat → BitVec 64

/-- A byte string that the spec leaves open (an SPDM body, the body of a dump section whose layout R455
does not give), numbered by the state's counter (log 12, log 22). -/
opaque freeBytes : Nat → List (BitVec 8)

/-- A byte of a stretch of memory whose content the spec leaves open (a saved context, R330; a spilled state record, R85), numbered
by the state's counter and its place in the stretch (log 31). -/
opaque freeByte : Nat → Nat → BitVec 8

end Sys2Proof.Config
end

