-- ==== Sys2Proof/Syntax.lean ====
section
/-! DEFINITION. The steps of the part as syntax: one constructor of `Instr` for every row of
spec/opcode_table.json. The first 155 are element rule words (02 R24 to R40), the next thirteen the skerry
custom instructions (R53), the seventeen dock words follow (R51), and the rest are the events, steps of the
machine that have no encoding of their own. Which unit a step concerns (isle, ring, stripe, element, slot,
queue, hart, message, ...) stands in the state (State.cur); an event's operands are only what comes with it. -/

namespace Sys2Proof

/-- Destination and one source, nothing else (R37, R38). -/
structure FmtDA where
  d : BitVec 5
  a : BitVec 5
  deriving DecidableEq, Repr, Inhabited

/-- Format A with a lane write-mask (R26, R27): destination, two sources, their keep bits, the mask. -/
structure FmtABM where
  d : BitVec 5
  a : BitVec 5
  b : BitVec 5
  ka : Bool
  kb : Bool
  m : BitVec 2
  deriving DecidableEq, Repr, Inhabited

/-- Format A whose D is a v-register that is read and written (R37). -/
structure FmtVBM where
  d : BitVec 4
  a : BitVec 5
  b : BitVec 5
  ka : Bool
  kb : Bool
  m : BitVec 2
  deriving DecidableEq, Repr, Inhabited

/-- Format A with one source (R26): B and KB are 0. -/
structure FmtAM where
  d : BitVec 5
  a : BitVec 5
  ka : Bool
  m : BitVec 2
  deriving DecidableEq, Repr, Inhabited

/-- A compare: predicate destination, two sources (R30, R123). -/
structure FmtPB where
  d : BitVec 3
  a : BitVec 5
  b : BitVec 5
  ka : Bool
  kb : Bool
  deriving DecidableEq, Repr, Inhabited

/-- Format I (R26): destination, source, IMM8, keep bit. -/
structure FmtI where
  d : BitVec 5
  a : BitVec 5
  imm : BitVec 8
  ka : Bool
  deriving DecidableEq, Repr, Inhabited

/-- Format M (R26, R222): D, address source, chain, position, size, keep bit. -/
structure FmtM where
  d : BitVec 5
  a : BitVec 5
  ch : BitVec 2
  pos : BitVec 4
  sz : BitVec 2
  ka : Bool
  deriving DecidableEq, Repr, Inhabited

/-- SETE and PFX (R222): address source, chain, position, keep bit; SZ is 00. -/
structure FmtML where
  a : BitVec 5
  ch : BitVec 2
  pos : BitVec 4
  ka : Bool
  deriving DecidableEq, Repr, Inhabited

/-- SRD and SWR (R222): D, generator, chain, position, size. -/
structure FmtMG where
  d : BitVec 5
  g : Bool
  ch : BitVec 2
  pos : BitVec 4
  sz : BitVec 2
  deriving DecidableEq, Repr, Inhabited

/-- An atomic (R259): reply enable, reply target, address source, value source. -/
structure FmtAt where
  rpl : Bool
  y : BitVec 3
  a : BitVec 5
  b : BitVec 5
  deriving DecidableEq, Repr, Inhabited

/-- A ferry copy (R283): id destination, descriptor v-register, object address source. -/
structure FmtCpy where
  d : BitVec 5
  a : BitVec 4
  b : BitVec 5
  deriving DecidableEq, Repr, Inhabited

/-- A barrier rule with an operand (R283): status destination, object address, value source. -/
structure FmtDAB where
  d : BitVec 5
  a : BitVec 5
  b : BitVec 5
  deriving DecidableEq, Repr, Inhabited

/-- A collective operation (R308): op id destination, descriptor v-register. -/
structure FmtColl where
  d : BitVec 5
  a : BitVec 4
  deriving DecidableEq, Repr, Inhabited

/-- MMA and MMAS (R179): accumulator tile, plane tile, B channel, ZERO. -/
structure FmtMma where
  t : BitVec 3
  pl : BitVec 4
  ch : BitVec 2
  zero : Bool
  deriving DecidableEq, Repr, Inhabited

/-- PLW (R179): plane tile, in-channel, first row, keep bit. -/
structure FmtPlw where
  pl : BitVec 4
  ch : BitVec 2
  row : BitVec 4
  k : Bool
  deriving DecidableEq, Repr, Inhabited

/-- PLWS (R179): as PLW, with the sparse mode. -/
structure FmtPlws where
  pl : BitVec 4
  ch : BitVec 2
  row : BitVec 4
  sp : BitVec 2
  k : Bool
  deriving DecidableEq, Repr, Inhabited

/-- SCLD (R179): plane tile, in-channel, A or B scales, keep bit. -/
structure FmtScld where
  pl : BitVec 4
  ch : BitVec 2
  bsc : Bool
  k : Bool
  deriving DecidableEq, Repr, Inhabited

/-- ACCRD (R179): accumulator tile, out-channel, output type, SAT, CLR. -/
structure FmtAccrd where
  t : BitVec 3
  ch : BitVec 2
  ty : BitVec 4
  sat : Bool
  clr : Bool
  deriving DecidableEq, Repr, Inhabited

/-- ACCWR (R179): accumulator tile, in-channel, input type, keep bit. -/
structure FmtAccwr where
  t : BitVec 3
  ch : BitVec 2
  ty : BitVec 4
  k : Bool
  deriving DecidableEq, Repr, Inhabited

/-- STEER (R89): out-channel for true, source, out-channel for false, predicate, keep bit. -/
structure FmtSteer where
  d : BitVec 2
  a : BitVec 5
  f : BitVec 2
  p : BitVec 3
  ka : Bool
  deriving DecidableEq, Repr, Inhabited

/-- MERGE (R89): destination, the two in-channels, mask. -/
structure FmtMerge where
  d : BitVec 5
  a : BitVec 2
  b : BitVec 2
  m : BitVec 2
  deriving DecidableEq, Repr, Inhabited

/-- SPLIT4 (R89): compact, out-channel mask, source, selector, keep bits. -/
structure FmtSplit where
  c : Bool
  mask : BitVec 4
  a : BitVec 5
  b : BitVec 5
  ka : Bool
  kb : Bool
  deriving DecidableEq, Repr, Inhabited

/-- PICK4 (R89): destination, selector source, in-channel mask, keep bit. -/
structure FmtPick where
  d : BitVec 5
  a : BitVec 5
  mask : BitVec 4
  ka : Bool
  deriving DecidableEq, Repr, Inhabited

/-- CNTB (R89): counter, source, level, keep bit. -/
structure FmtCntb where
  k : Bool
  a : BitVec 5
  outer : Bool
  ka : Bool
  deriving DecidableEq, Repr, Inhabited

/-- REP (R89): out-channel, held source, count source, keep bits. -/
structure FmtRep where
  d : BitVec 2
  a : BitVec 5
  b : BitVec 5
  ka : Bool
  kb : Bool
  deriving DecidableEq, Repr, Inhabited

/-- PLOG (R89): predicates D, A, B and the truth table. -/
structure FmtPlog where
  d : BitVec 3
  a : BitVec 3
  b : BitVec 3
  f : BitVec 4
  deriving DecidableEq, Repr, Inhabited

/-- SHI (R114): destination, source, kind, amount, keep bit. -/
structure FmtShi where
  d : BitVec 5
  a : BitVec 5
  k : BitVec 2
  n : BitVec 5
  ka : Bool
  deriving DecidableEq, Repr, Inhabited

/-- SEL (R114): destination, two sources, keep bits, predicate p0 to p3. -/
structure FmtSel where
  d : BitVec 5
  a : BitVec 5
  b : BitVec 5
  ka : Bool
  kb : Bool
  p : BitVec 2
  deriving DecidableEq, Repr, Inhabited

/-- BCAST (R114): destination, source, lane, keep bit. -/
structure FmtBcast where
  d : BitVec 5
  a : BitVec 5
  lane : BitVec 4
  ka : Bool
  deriving DecidableEq, Repr, Inhabited

/-- CVT (R145): destination, source, FROM and TO type, SAT. -/
structure FmtCvt where
  d : BitVec 5
  a : BitVec 5
  from_ : BitVec 4
  to_ : BitVec 4
  sat : Bool
  deriving DecidableEq, Repr, Inhabited

/-- CVTMX (R145): destination, source, scale source, SAT, TO type less 4. -/
structure FmtCvtmx where
  d : BitVec 5
  a : BitVec 5
  b : BitVec 5
  sat : Bool
  to_ : BitVec 3
  deriving DecidableEq, Repr, Inhabited

/-- UNPMX (R145): destination, packed source, scale source, FROM type less 4. -/
structure FmtUnpmx where
  d : BitVec 5
  a : BitVec 5
  b : BitVec 5
  from_ : BitVec 3
  deriving DecidableEq, Repr, Inhabited

/-- FPACK (R145): v-register read and written, source, part, TO type. -/
structure FmtFpack where
  d : BitVec 4
  a : BitVec 5
  part : BitVec 3
  to_ : BitVec 4
  deriving DecidableEq, Repr, Inhabited

/-- FUNPK (R145): destination, packed source, part, FROM type. -/
structure FmtFunpk where
  d : BitVec 5
  a : BitVec 5
  part : BitVec 3
  from_ : BitVec 4
  deriving DecidableEq, Repr, Inhabited

/-- A dock word without its OP (R50): QUEUE [55:52], the reserved field [51:49], SYNC [48] and the operand
[47:0]. The harbour judges the fields when it executes the word (R52), so all of them are kept. -/
structure DockW where
  queue : BitVec 4
  rsv : BitVec 3
  sync : Bool
  arg : BitVec 48
  deriving DecidableEq, Repr, Inhabited

/-- Where a spare comparison differs (R435): a token written to an out-channel, or a request of a chain. -/
inductive SparePlace where
  | out (k : Nat)
  | request (c : Nat)
  deriving DecidableEq, Repr

/-- What a scrub finds in a line (R425). -/
inductive ScrubResult where
  | clean | corrected | uncorrectable
  deriving DecidableEq, Repr

/-- The permission an access of a hart needs (R379). -/
inductive AccessKind where
  | read | write | fetch
  deriving DecidableEq, Repr

/-- What one isle's self-test and firmware check give at boot (R488): whether its arrays pass and its image
is accepted, the stripes of each ring, stripes repaired by their spare, and the digests extended. -/
structure IsleBoot where
  passes : Bool
  imageOk : Bool
  stripes : List Nat
  spared : List Nat
  digests : List (Nat × List (BitVec 8))
  deriving DecidableEq, Repr

/-- What the lighthouse reads and finds at boot (R488): power and release, the isles, the management store's
panel number and operator roots, and the ports that are trained. -/
structure BootInfo where
  powered : Bool
  isles : List IsleBoot
  panel : Nat
  roots : List Nat
  bridges : List Nat
  deriving DecidableEq, Repr

/-- The source of a control-window write (R500). -/
inductive RegSrc where
  | host | hart (core : Nat)
  deriving DecidableEq, Repr

/-- A member of a view: panel and isle number (R288). -/
abbrev Member := Nat × Nat

/-- What a flit carries in this model (R481): membership and collective traffic, harbour messages of other
isles, and memory requests of peers. -/
inductive Payload where
  | heartbeat
  | suspect (peer : Member)
  | fatal
  | propose (v : Nat) (set : List Member)
  | ack (v : Nat)
  | commit (v : Nat) (set : List Member)
  | join
  | collData (comm seq : Nat) (sig : List Nat) (w : BitVec 32) (data : List (BitVec 8)) (pois : Bool)
  | collAbort (comm seq : Nat) (why : Nat)
  | sem (kind : Nat) (q : Nat) (id : Nat) (idx : Nat) (v : BitVec 64) (tenant : Nat)
  | semAns (q : Nat) (id : Nat) (ok : Bool) (final : Bool)
  | cut (tenant num : Nat) (go : Bool)
  deriving DecidableEq, Repr

/-- A message between isles, with the scope and the view number it is sent under (R289). -/
structure Flit where
  src : Member
  dst : Member
  sys : Bool
  view : Nat
  body : Payload
  deriving DecidableEq, Repr

/-- A host access through a bridge (R483): function 0 or tenant's VF number, BAR, offset, size in bytes, and
the bytes of a write. -/
structure HostReq where
  bridge : Nat
  fn : Nat
  bar : Nat
  off : Nat
  size : Nat
  wr : Option (List (BitVec 8))
  deriving DecidableEq, Repr

/-- The read-modify-write operations of the RISC-V A extension (log 7). -/
inductive AmoKind where
  | swap | add | xor | and | or | min | max | minu | maxu
  deriving DecidableEq, Repr

/-- An ordinary memory instruction of a hart (R364, R366): a load of `size` bytes into `rd`, a store, an AMO,
load-reserved, store-conditional, or a Zicbom operation on the 64 B block of an address. -/
inductive HartOp where
  | load (rd va size : Nat) (signed : Bool)
  | store (va size : Nat) (v : BitVec 64)
  | amo (rd va size : Nat) (k : AmoKind) (v : BitVec 64)
  | lr (rd va size : Nat)
  | sc (rd va size : Nat) (v : BitVec 64)
  | cboClean (va : Nat)
  | cboFlush (va : Nat)
  | cboInval (va : Nat)
  deriving DecidableEq, Repr


/-- One step of the part. -/
inductive Instr where
  /-- NOP (R90): Rule that reads and writes nothing; it serves as a pacing or tracing point. -/
  | nop (t : BitVec 6)
  /-- MOV (R91): Puts the source value, with its tag and poison, to the destination. -/
  | mov (t : BitVec 6) (o : FmtDA)
  /-- DROP (R92): Consumes the data or null head of an in-channel and writes nothing. -/
  | drop (t : BitVec 6) (a : BitVec 2)
  /-- NULL (R93): Writes an untagged null token to an out-channel. -/
  | null_ (t : BitVec 6) (d : BitVec 2)
  /-- STEER (R94): Sends the operand down the out-channel that lane 0 of a predicate selects, and a null down the other. -/
  | steer (t : BitVec 6) (o : FmtSteer)
  /-- MERGE (R95): Joins the two sides of a conditional from two in-channels into one destination. -/
  | merge (t : BitVec 6) (o : FmtMerge)
  /-- SPLIT4 (R96): Sends a data token to the masked out-channel that a selector names, with nulls to the others unless compact. -/
  | split4 (t : BitVec 6) (o : FmtSplit)
  /-- PICK4 (R97): Takes the head of the selected masked in-channel to the destination and consumes every masked head. -/
  | pick4 (t : BitVec 6) (o : FmtPick)
  /-- EMIT (R98): Writes an EOI or END marker to one out-channel, or to every routed one with the gate's actions. -/
  | emit (t : BitVec 6) (d : BitVec 5) (end_ : Bool)
  /-- CNT (R99): Performs an inner or outer step of a counter unit and writes p6 and p7. -/
  | cnt (t : BitVec 6) (k : Bool) (outer : Bool)
  /-- CNTB (R100): Binds or sets pending a new inner or outer trip count of a counter. -/
  | cntb (t : BitVec 6) (o : FmtCntb)
  /-- REP (R101): Holds one token and writes it to an out-channel a counted number of times. -/
  | rep (t : BitVec 6) (o : FmtRep)
  /-- SEQT (R102): Puts the source to the destination with a sequence tag taken from lane 0 of the tag operand. -/
  | seqt (t : BitVec 6) (o : FmtABM)
  /-- REORD (R103): Restores ascending sequence-tag order from an in-channel, holding early tokens in a 256-slot window. -/
  | reord (t : BitVec 6) (d : BitVec 5) (a : BitVec 2)
  /-- SIG (R104): Sets or clears the stripe's control wire. -/
  | sig (t : BitVec 6) (set : Bool)
  /-- GATE (R105): Moves the source to the destination while the control wire is set. -/
  | gate (t : BitVec 6) (o : FmtDA)
  /-- PLOG (R106): Computes a predicate lane by lane from two predicates through a four-bit truth table. -/
  | plog (t : BitVec 6) (o : FmtPlog)
  /-- PSET (R107): Sets each predicate bit when the matching lane of the source is non-zero. -/
  | pset (t : BitVec 6) (d : BitVec 3) (a : BitVec 5)
  /-- SLOTS (R108): Writes a token of channel occupancy counts sampled at the start of the cycle. -/
  | slots (t : BitVec 6) (d : BitVec 5)
  /-- ADD (R115): Adds two lanes modulo 2^32. -/
  | add (t : BitVec 6) (o : FmtABM)
  /-- SUB (R115): Subtracts two lanes modulo 2^32. -/
  | sub (t : BitVec 6) (o : FmtABM)
  /-- ADDI (R115): Adds a sign-extended 8-bit immediate to each lane. -/
  | addi (t : BitVec 6) (o : FmtI)
  /-- ADDS (R115): Adds two signed lanes with saturation. -/
  | adds (t : BitVec 6) (o : FmtABM)
  /-- SUBS (R115): Subtracts two signed lanes with saturation. -/
  | subs (t : BitVec 6) (o : FmtABM)
  /-- MULL (R116): Keeps the low 32 bits of the lane product. -/
  | mull (t : BitVec 6) (o : FmtABM)
  /-- MULH (R116): Keeps the high 32 bits of the signed lane product. -/
  | mulh (t : BitVec 6) (o : FmtABM)
  /-- MULHU (R116): Keeps the high 32 bits of the unsigned lane product. -/
  | mulhu (t : BitVec 6) (o : FmtABM)
  /-- MAD (R117): Adds the lane product to the destination register modulo 2^32. -/
  | mad (t : BitVec 6) (o : FmtVBM)
  /-- AND (R119): Bitwise AND of two lanes. -/
  | and_ (t : BitVec 6) (o : FmtABM)
  /-- OR (R119): Bitwise OR of two lanes. -/
  | or_ (t : BitVec 6) (o : FmtABM)
  /-- XOR (R119): Bitwise XOR of two lanes. -/
  | xor_ (t : BitVec 6) (o : FmtABM)
  /-- ANDN (R119): Bitwise AND of a lane with the complement of another. -/
  | andn (t : BitVec 6) (o : FmtABM)
  /-- SHL (R120): Shifts each lane left by the low five bits of B. -/
  | shl (t : BitVec 6) (o : FmtABM)
  /-- SHR (R120): Shifts each lane right logically by the low five bits of B. -/
  | shr (t : BitVec 6) (o : FmtABM)
  /-- SRA (R120): Shifts each lane right arithmetically by the low five bits of B. -/
  | sra (t : BitVec 6) (o : FmtABM)
  /-- SHI (R120): Shifts every lane by an immediate amount of a kind given in the word. -/
  | shi (t : BitVec 6) (o : FmtShi)
  /-- MIN (R121): Signed lane minimum. -/
  | min_ (t : BitVec 6) (o : FmtABM)
  /-- MAX (R121): Signed lane maximum. -/
  | max_ (t : BitVec 6) (o : FmtABM)
  /-- MINU (R121): Unsigned lane minimum. -/
  | minu (t : BitVec 6) (o : FmtABM)
  /-- MAXU (R121): Unsigned lane maximum. -/
  | maxu (t : BitVec 6) (o : FmtABM)
  /-- ABS (R122): Wrapped absolute value of each signed lane. -/
  | abs_ (t : BitVec 6) (o : FmtAM)
  /-- CLZ (R122): Counts leading zero bits of each lane. -/
  | clz (t : BitVec 6) (o : FmtAM)
  /-- POPC (R122): Counts one bits of each lane. -/
  | popc (t : BitVec 6) (o : FmtAM)
  /-- SEL (R124): Selects A or B per lane by a predicate p0-p3. -/
  | sel (t : BitVec 6) (o : FmtSel)
  /-- CMPEQ (R123): Writes a predicate of lanes where A equals B. -/
  | cmpeq (t : BitVec 6) (o : FmtPB)
  /-- CMPNE (R123): Writes a predicate of lanes where A differs from B. -/
  | cmpne (t : BitVec 6) (o : FmtPB)
  /-- CMPLT (R123): Writes a predicate of lanes where signed A is less than B. -/
  | cmplt (t : BitVec 6) (o : FmtPB)
  /-- CMPLE (R123): Writes a predicate of lanes where signed A is at most B. -/
  | cmple (t : BitVec 6) (o : FmtPB)
  /-- CMPLTU (R123): Writes a predicate of lanes where unsigned A is less than B. -/
  | cmpltu (t : BitVec 6) (o : FmtPB)
  /-- CMPLEU (R123): Writes a predicate of lanes where unsigned A is at most B. -/
  | cmpleu (t : BitVec 6) (o : FmtPB)
  /-- LI (R125): Writes a sign-extended 14-bit immediate to every lane of a v-register. -/
  | li (t : BitVec 6) (d : BitVec 4) (imm : BitVec 14)
  /-- LUI (R125): Writes a 14-bit immediate shifted left by 18 to every lane of a v-register. -/
  | lui (t : BitVec 6) (d : BitVec 4) (imm : BitVec 14)
  /-- BFX (R126): Extracts a bit field from each lane under a per-lane control. -/
  | bfx (t : BitVec 6) (o : FmtABM)
  /-- BFI (R126): Inserts a bit field into each lane of the destination register. -/
  | bfi (t : BitVec 6) (o : FmtVBM)
  /-- DIVU (R118): Unsigned lane division, all ones on division by zero. -/
  | divu (t : BitVec 6) (o : FmtABM)
  /-- REMU (R118): Unsigned lane remainder, A on division by zero. -/
  | remu (t : BitVec 6) (o : FmtABM)
  /-- BCAST (R127): Writes one lane of the source to every lane. -/
  | bcast (t : BitVec 6) (o : FmtBcast)
  /-- PERM (R128): Permutes source lanes by per-lane indices. -/
  | perm (t : BitVec 6) (o : FmtABM)
  /-- SLIDE (R129): Moves lanes by a signed immediate distance, filling with zero. -/
  | slide (t : BitVec 6) (o : FmtI)
  /-- REDADD (R130): Sums all 16 lanes into every lane. -/
  | redadd (t : BitVec 6) (o : FmtAM)
  /-- REDMAX (R130): Writes the greatest signed lane to every lane. -/
  | redmax (t : BitVec 6) (o : FmtAM)
  /-- REDMIN (R130): Writes the least signed lane to every lane. -/
  | redmin (t : BitVec 6) (o : FmtAM)
  /-- SCAN (R131): Computes the inclusive prefix sum across lanes. -/
  | scan (t : BitVec 6) (o : FmtAM)
  /-- FADD (R146): FP32 addition rounded once in the element's mode. -/
  | fadd (t : BitVec 6) (o : FmtABM)
  /-- FSUB (R146): FP32 subtraction rounded once. -/
  | fsub (t : BitVec 6) (o : FmtABM)
  /-- FMUL (R146): FP32 multiplication rounded once. -/
  | fmul (t : BitVec 6) (o : FmtABM)
  /-- FFMA (R146): Fused a times b plus D into a v-register. -/
  | ffma (t : BitVec 6) (o : FmtVBM)
  /-- FFMS (R146): Fused a times b minus D into a v-register. -/
  | ffms (t : BitVec 6) (o : FmtVBM)
  /-- FNMA (R146): Fused D minus a times b into a v-register. -/
  | fnma (t : BitVec 6) (o : FmtVBM)
  /-- FMIN (R147): IEEE minimumNumber of two FP32 lanes. -/
  | fmin (t : BitVec 6) (o : FmtABM)
  /-- FMAX (R147): IEEE maximumNumber of two FP32 lanes. -/
  | fmax (t : BitVec 6) (o : FmtABM)
  /-- FABS (R148): Clears the sign bit of each lane. -/
  | fabs (t : BitVec 6) (o : FmtAM)
  /-- FNEG (R148): Inverts the sign bit of each lane. -/
  | fneg (t : BitVec 6) (o : FmtAM)
  /-- FCMPEQ (R149): Writes a predicate of lanes where FP32 A equals B. -/
  | fcmpeq (t : BitVec 6) (o : FmtPB)
  /-- FCMPLT (R149): Writes a predicate of lanes where FP32 A is less than B. -/
  | fcmplt (t : BitVec 6) (o : FmtPB)
  /-- FCMPLE (R149): Writes a predicate of lanes where FP32 A is at most B. -/
  | fcmple (t : BitVec 6) (o : FmtPB)
  /-- FCMPUN (R149): Writes a predicate of lanes where either operand is NaN. -/
  | fcmpun (t : BitVec 6) (o : FmtPB)
  /-- FDIV (R146): Correctly rounded FP32 division. -/
  | fdiv (t : BitVec 6) (o : FmtABM)
  /-- FSQRT (R146): Correctly rounded FP32 square root. -/
  | fsqrt (t : BitVec 6) (o : FmtAM)
  /-- FRCP (R146): Correctly rounded FP32 reciprocal. -/
  | frcp (t : BitVec 6) (o : FmtAM)
  /-- FRSQ (R146): Correctly rounded FP32 reciprocal square root. -/
  | frsq (t : BitVec 6) (o : FmtAM)
  /-- FEXP2 (R146): Correctly rounded 2 to the power a. -/
  | fexp2 (t : BitVec 6) (o : FmtAM)
  /-- FLOG2 (R146): Correctly rounded base-2 logarithm. -/
  | flog2 (t : BitVec 6) (o : FmtAM)
  /-- FTANH (R146): Correctly rounded hyperbolic tangent. -/
  | ftanh (t : BitVec 6) (o : FmtAM)
  /-- FSIGM (R146): Correctly rounded logistic sigmoid. -/
  | fsigm (t : BitVec 6) (o : FmtAM)
  /-- FCLASS (R150): Writes a one-hot class mask of each FP32 lane. -/
  | fclass (t : BitVec 6) (o : FmtAM)
  /-- FRND (R151): Rounds each lane to an integral FP32 value in the element's mode. -/
  | frnd (t : BitVec 6) (o : FmtAM)
  /-- FSCALE (R146): Multiplies each lane by 2 to an integer exponent, rounded once. -/
  | fscale (t : BitVec 6) (o : FmtABM)
  /-- CVT (R152): Converts one value per lane between FP32 and another type. -/
  | cvt (t : BitVec 6) (o : FmtCvt)
  /-- CVTMX (R153): Converts 16 FP32 values into a packed MX element format under a shared scale. -/
  | cvtmx (t : BitVec 6) (o : FmtCvtmx)
  /-- UNPMX (R154): Widens 16 packed MX values to FP32 under a shared scale. -/
  | unpmx (t : BitVec 6) (o : FmtUnpmx)
  /-- FPACK (R155): Converts each FP32 lane and writes it into one part of the destination register's lane. -/
  | fpack (t : BitVec 6) (o : FmtFpack)
  /-- FUNPK (R156): Widens one part of each lane to FP32. -/
  | funpk (t : BitVec 6) (o : FmtFunpk)
  /-- PLW (R181): Fills rows of a dense A plane tile from an in-channel token. -/
  | plw (t : BitVec 6) (o : FmtPlw)
  /-- PLWS (R181): Fills rows of a sparse A plane tile from an in-channel token. -/
  | plws (t : BitVec 6) (o : FmtPlws)
  /-- PLCLR (R182): Clears a plane tile, its fill state, poison and scales. -/
  | plclr (t : BitVec 6) (pl : BitVec 4)
  /-- SCLD (R183): Loads 16 E8M0 A or B block scales of a plane tile. -/
  | scld (t : BitVec 6) (o : FmtScld)
  /-- MMA (R184): Assigns a dense B group and queues a 16x32 by 32x16 multiply into an accumulator tile. -/
  | mma (t : BitVec 6) (o : FmtMma)
  /-- MMAS (R184): Assigns a sparse B group and queues a multiply into an accumulator tile. -/
  | mmas (t : BitVec 6) (o : FmtMma)
  /-- ACCRD (R185): Reads out one token of an accumulator tile, converted to the output type. -/
  | accrd (t : BitVec 6) (o : FmtAccrd)
  /-- ACCWR (R186): Writes one token of values into an accumulator tile, widened exactly. -/
  | accwr (t : BitVec 6) (o : FmtAccwr)
  /-- ACCCLR (R187): Clears an accumulator tile and abandons a transfer in progress. -/
  | accclr (t : BitVec 6) (tile : BitVec 3)
  /-- MFWD (R188): Forwards the oldest unforwarded staged B token to an out-channel. -/
  | mfwd (t : BitVec 6) (ch : BitVec 2) (out : BitVec 2)
  /-- LD (R224): Enters a load request in its chain; the reply lands in the destination. -/
  | ld (t : BitVec 6) (o : FmtM)
  /-- LDQ (R225): Enters a load request whose reply goes to a reply-target in-channel. -/
  | ldq (t : BitVec 6) (y : BitVec 3) (a : BitVec 5) (ch : BitVec 2) (pos : BitVec 4) (sz : BitVec 2) (ka : Bool)
  /-- ST (R227): Enters a store request of a token or of per-lane values. -/
  | st (t : BitVec 6) (o : FmtM)
  /-- LDS (R229): Enters an acquiring load that waits for every touched granule to be full. -/
  | lds (t : BitVec 6) (o : FmtM)
  /-- STF (R230): Enters a releasing store that sets every touched granule full. -/
  | stf (t : BitVec 6) (o : FmtM)
  /-- STO (R231): Enters a releasing store that writes and fills only empty granules. -/
  | sto (t : BitVec 6) (o : FmtM)
  /-- SETE (R232): Enters a request that sets the eight granules of a line empty. -/
  | sete (t : BitVec 6) (o : FmtML)
  /-- PFX (R233): Enters a prefetch of up to 256 lines into the stack cache. -/
  | pfx (t : BitVec 6) (o : FmtML)
  /-- SRD (R226): Enters a load at an address generator's cursor and advances the cursor. -/
  | srd (t : BitVec 6) (o : FmtMG)
  /-- SWR (R228): Enters a store at an address generator's cursor and advances the cursor. -/
  | swr (t : BitVec 6) (o : FmtMG)
  /-- AGN (R234): Steps an address generator's cursor by a multiple of its stride. -/
  | agn (t : BitVec 6) (g : Bool) (imm : BitVec 14)
  /-- FENCE (R251): Orders the requests of an issuer set at a scope until the work ahead is done. -/
  | fence (t : BitVec 6) (scope : BitVec 3)
  /-- AADD (R260): Atomic integer add per lane. -/
  | aadd (t : BitVec 6) (o : FmtAt)
  /-- AMIN (R260): Atomic signed minimum per lane. -/
  | amin (t : BitVec 6) (o : FmtAt)
  /-- AMAX (R260): Atomic signed maximum per lane. -/
  | amax (t : BitVec 6) (o : FmtAt)
  /-- AMINU (R260): Atomic unsigned minimum per lane. -/
  | aminu (t : BitVec 6) (o : FmtAt)
  /-- AMAXU (R260): Atomic unsigned maximum per lane. -/
  | amaxu (t : BitVec 6) (o : FmtAt)
  /-- AAND (R260): Atomic AND per lane. -/
  | aand (t : BitVec 6) (o : FmtAt)
  /-- AOR (R260): Atomic OR per lane. -/
  | aor (t : BitVec 6) (o : FmtAt)
  /-- AXOR (R260): Atomic XOR per lane. -/
  | axor (t : BitVec 6) (o : FmtAt)
  /-- AXCHG (R260): Atomic exchange per lane. -/
  | axchg (t : BitVec 6) (o : FmtAt)
  /-- ACAS (R260): Atomic compare-and-swap per lane using an even v-register pair. -/
  | acas (t : BitVec 6) (rpl : Bool) (y : BitVec 3) (a : BitVec 5) (b : BitVec 3)
  /-- AFADD (R261): Atomic FP32 add rounded under RNE. -/
  | afadd (t : BitVec 6) (o : FmtAt)
  /-- AFMIN (R261): Atomic FP32 minimumNumber. -/
  | afmin (t : BitVec 6) (o : FmtAt)
  /-- AFMAX (R261): Atomic FP32 maximumNumber. -/
  | afmax (t : BitVec 6) (o : FmtAt)
  /-- AINCW (R260): Atomic increment that wraps to 0 at a limit. -/
  | aincw (t : BitVec 6) (o : FmtAt)
  /-- CPY1 (R274): Issues a one-dimensional ferry copy reporting to a barrier object. -/
  | cpy1 (t : BitVec 6) (o : FmtCpy)
  /-- CPY2 (R274): Issues a two-dimensional strided ferry copy. -/
  | cpy2 (t : BitVec 6) (o : FmtCpy)
  /-- CPYG (R274): Issues an indexed gather ferry copy. -/
  | cpyg (t : BitVec 6) (o : FmtCpy)
  /-- CPYS (R274): Issues an indexed scatter ferry copy. -/
  | cpys (t : BitVec 6) (o : FmtCpy)
  /-- CPYF (R274): Issues a ferry fill with a 4-byte pattern. -/
  | cpyf (t : BitVec 6) (o : FmtCpy)
  /-- CPYX (R284): Cancels a ferry copy of the segment by id. -/
  | cpyx (t : BitVec 6) (o : FmtDA)
  /-- BINIT (R282): Initialises a barrier object's count, phase and byte balance. -/
  | binit (t : BitVec 6) (o : FmtDAB)
  /-- BARV (R282): Records an arrival at a barrier object. -/
  | barv (t : BitVec 6) (o : FmtDA)
  /-- BEXP (R282): Adds expected bytes to a barrier object's PEND. -/
  | bexp (t : BitVec 6) (o : FmtDAB)
  /-- BWAIT (R282): Parks at the bank until the object's bytes have landed and its phase has moved. -/
  | bwait (t : BitVec 6) (o : FmtDA)
  /-- ARED (R296): Issues an all-reduce on a communicator. -/
  | ared (t : BitVec 6) (o : FmtColl)
  /-- RSCAT (R296): Issues a reduce-scatter on a communicator. -/
  | rscat (t : BitVec 6) (o : FmtColl)
  /-- AGATH (R296): Issues an all-gather on a communicator. -/
  | agath (t : BitVec 6) (o : FmtColl)
  /-- BCST (R296): Issues a broadcast from a root on a communicator. -/
  | bcst (t : BitVec 6) (o : FmtColl)
  /-- A2A (R296): Issues an all-to-all on a communicator. -/
  | a2a (t : BitVec 6) (o : FmtColl)
  /-- CWAIT (R298): Parks until a collective operation completes and returns its status. -/
  | cwait (t : BitVec 6) (o : FmtDA)
  /-- CABRT (R299): Aborts an incomplete collective operation on every member. -/
  | cabrt (t : BitVec 6) (a : BitVec 5)
  /-- VGET (R309): Writes a token describing the panel and system views. -/
  | vget (t : BitVec 6) (d : BitVec 5)
  /-- VACK (R310): Acknowledges the current view number of a scope for the segment. -/
  | vack (t : BitVec 6) (a : BitVec 5)
  /-- VJOIN (R311): Starts the rejoin of an isolated isle, moving both scopes to JOINING. -/
  | vjoin (t : BitVec 6)
  /-- TRAP (R413): Raises a program trap that freezes the segment. -/
  | trap (t : BitVec 6) (a : BitVec 5)
  /-- BRK (R414): Arms a commit stop for the rule's stripe and invocation. -/
  | brk (t : BitVec 6)
  /-- MARK (R415): Writes a trace mark record carrying lane 0 of its operand. -/
  | mark (t : BitVec 6) (a : BitVec 5)
  /-- CYC (R416): Writes the segment cycle count and panel time. -/
  | cyc (t : BitVec 6) (d : BitVec 5)
  /-- PERF (R417): Reads an element counter chosen by a selector, optionally clearing it. -/
  | perf (t : BitVec 6) (o : FmtDA)
  /-- HALT (R418): Ends the task early once the runs already begun finish. -/
  | halt (t : BitVec 6)
  /-- MBXPUT (R383): Sends an observation message to a step mailbox with a step check. -/
  | mbxput (rd : BitVec 5) (rs1 : BitVec 5) (rs2 : BitVec 5)
  /-- MBXGET (R384): Takes the head action message of a step mailbox. -/
  | mbxget (rd : BitVec 5) (rs1 : BitVec 5) (rs2 : BitVec 5)
  /-- MBXPOLL (R385): Returns a mailbox's queue counts and state bits. -/
  | mbxpoll (rd : BitVec 5) (rs1 : BitVec 5)
  /-- FUTLD (R386): Uncached acquiring load of a lagoon granule that waits for it to be full. -/
  | futld (rd : BitVec 5) (rs1 : BitVec 5)
  /-- FUTST (R386): Uncached releasing store that sets a lagoon granule full. -/
  | futst (rs1 : BitVec 5) (rs2 : BitVec 5)
  /-- EPIBEG (R387): Opens an episode on a mailbox with an enclosure descriptor. -/
  | epibeg (rd : BitVec 5) (rs1 : BitVec 5) (rs2 : BitVec 5)
  /-- EPIEND (R388): Closes the hart's open episode when its id matches. -/
  | epiend (rs1 : BitVec 5)
  /-- WDSET (R388): Sets and restarts the episode's cycle and round-trip budgets. -/
  | wdset (rs1 : BitVec 5) (rs2 : BitVec 5)
  /-- FRZRD (R389): Reads 8 bytes of a frozen segment's scan window. -/
  | frzrd (rd : BitVec 5) (rs1 : BitVec 5)
  /-- FRZWR (R389): Writes 8 bytes of a frozen segment's scan window. -/
  | frzwr (rs1 : BitVec 5) (rs2 : BitVec 5)
  /-- SEGRES (R390): Commands the harbour to resume a frozen segment from its frozen cycle. -/
  | segres (rd : BitVec 5) (rs1 : BitVec 5)
  /-- SEGRPL (R390): Commands the harbour to replay a frozen segment from its replay buffers. -/
  | segrpl (rd : BitVec 5) (rs1 : BitVec 5)
  /-- SEGKILL (R390): Commands the harbour to end a frozen segment and kill its task. -/
  | segkill (rd : BitVec 5) (rs1 : BitVec 5)
  /-- LAUNCH (R336): Reads and checks a job card and creates a task that waits for rings. -/
  | launch (w : DockW)
  /-- WAITGE (R337): Blocks the queue until a semaphore reaches a value. -/
  | waitge (w : DockW) (v : BitVec 64)
  /-- SIGNAL (R337): Adds an addend to a semaphore. -/
  | signal (w : DockW) (v : BitVec 64)
  /-- SEMSET (R337): Sets a semaphore to a value. -/
  | semset (w : DockW) (v : BitVec 64)
  /-- COPYQ (R338): Hands a 64-byte copy descriptor to the ferry under the queue's tenant. -/
  | copyq (w : DockW)
  /-- JMP (R339): Sets the queue's HEAD to a target word. -/
  | jmp (w : DockW)
  /-- LOOP (R339): Repeats the words back to a target a counted number of times. -/
  | loop (w : DockW)
  /-- IRQ (R340): Sends an MSI-X vector through a bridge after the host-write read-back. -/
  | irq (w : DockW)
  /-- DFENCE (R341): Waits until the queue's earlier launches, copies and semaphore changes are done. -/
  | dfence (w : DockW)
  /-- PRIO (R342): Caps the priority of later launches of the queue. -/
  | prio (w : DockW)
  /-- HANDOFF (R345): Hands a result buffer handle to a successor card once earlier holders complete. -/
  | handoff (w : DockW) (v : BitVec 64)
  /-- BALLOC (R343): Allots, zeroes and empties lagoon buffer frames and writes the handle. -/
  | balloc (w : DockW) (v : BitVec 64)
  /-- BFREE (R344): Frees a buffer once no task holds its handle. -/
  | bfree (w : DockW)
  /-- FLUSHR (R363): Performs a FLUSH action on a region record. -/
  | flushr (w : DockW)
  /-- INVR (R363): Performs an INV action on a region record. -/
  | invr (w : DockW)
  /-- FWDR (R363): Performs a forward action from a region record to its target. -/
  | fwdr (w : DockW)
  /-- DHALT (R346): Halts the dock queue with HEAD past the word. -/
  | dhalt (w : DockW)
  /-- DOORBELL (R484): A host doorbell write sets a queue's tail or is dropped. -/
  | doorbell (v : BitVec 64)
  /-- QCFG_WRITE (R314): A write to QCFG configures a queue and on EN sets its priority cap. -/
  | qcfgWrite (v : BitVec 32)
  /-- SEMAPHORE_WRITE (R320): A full 64-bit register write to a semaphore acts as SEMSET. -/
  | semaphoreWrite (v : BitVec 64)
  /-- PREEMPT_RESTORE (R331): A pre-empted segment is restored on its own ring. -/
  | preemptRestore (bad : Bool)
  /-- PRQ_HEAD_WRITE (R334): A write to PRQHEAD frees ring space and posts held page requests. -/
  | prqHeadWrite (v : BitVec 32)
  /-- STATE_RESTORE (R82): A stateful stripe's record is restored before it becomes resident. -/
  | stateRestore (bad : Bool)
  /-- CFGERR_RELOAD (R434): An uncorrectable configuration latch error reloads the stripe image and resumes. -/
  | cfgerrReload (cacheOk : Bool) (memOk : Bool)
  /-- SPARE_MISMATCH (R437): A spare comparison differs and the output is poisoned. -/
  | spareMismatch (at_ : SparePlace)
  /-- SCRUB_LINE (R425): A controller scrubs one stack line. -/
  | scrubLine (r : ScrubResult)
  /-- RELATCH_GO (R213): RLCTL.GO starts a re-latch of a virtual range. -/
  | relatchGo (v : BitVec 32)
  /-- SCANOUT_RESTORE (R215): A scanned-out segment is restored after its page becomes present. -/
  | scanoutRestore (bad : Bool)
  /-- PROMOTE_GO (R216): PRCTL.GO starts a promotion to a 2 MiB page. -/
  | promoteGo (v : BitVec 32)
  /-- HPC_HEAD_WRITE (R220): A write to HPCHEAD frees space and posts marked notices. -/
  | hpcHeadWrite (v : BitVec 32)
  /-- HPC_RELEASE (R221): A write to HPCREL resets a host page counter. -/
  | hpcRelease (v : BitVec 64)
  /-- COPY_BYTES_LAND (R277): Copied bytes are performed and subtracted from the barrier object. -/
  | copyBytesLand (off : Nat) (len : Nat)
  /-- COPY_FAULT (R278): A copy meets a page fault and is suspended at its cursor. -/
  | copyFault (unit : Nat)
  /-- COMM_WRITE (R312): A write to a communicator register, resetting its sequence counter on enable. -/
  | commWrite (off : Nat) (size : Nat) (v : BitVec 64)
  /-- ENCLOSURE_ABORT (R381): A U-mode access outside the enclosure raises ENCLOSURE and aborts the episode. -/
  | enclosureAbort (va : Nat) (len : Nat) (acc : AccessKind)
  /-- UFSTATUS_RET (R372): Writing UFSTATUS.RET returns from a user-level trap. -/
  | ufstatusRet (v : BitVec 64)
  /-- HANDLER_INSTALL (R369): HCTL.GO checks and installs a tenant's handler entry. -/
  | handlerInstall (v : BitVec 32)
  /-- HANDLER_HWERR (R407): A hardware error in a handler kills the tenant's stopped segments. -/
  | handlerHwerr (pa : Nat)
  /-- TCTL_WRITE (R445): A write to TCTL configures tracing and on EN clears TLOST. -/
  | tctlWrite (v : BitVec 32)
  /-- DUMP_GO (R451): DCTL.GO starts a consistent cut of a tenant's segments. -/
  | dumpGo (v : BitVec 32)
  /-- BOOT (R488): Power and a bridge release start self-test, measurement and release of the isles. -/
  | boot (b : BootInfo)
  /-- ISLE_RESET (R488): An isle alone is reset, tested, measured and released. -/
  | isleReset (b : IsleBoot)
  /-- FLIT_RECEIVE (R481): A link receiver checks a flit's CRC and drops it for retransmission on error. -/
  | flitReceive (crcOk : Bool) (f : Flit)
  /-- HOST_ACCESS (R483): A host access through a bridge aperture is translated and performed or refused. -/
  | hostAccess (h : HostReq)
  /-- DMI_ACCESS (R487): An access to the hart debug module through its DMI registers. -/
  | dmiAccess (wr : Bool) (v : BitVec 32)
  /-- NEGOTIATE_ALGORITHMS (R490): SPDM NEGOTIATE_ALGORITHMS request. -/
  | negotiateAlgorithms (ok : Bool)
  /-- GET_CERTIFICATE (R490): SPDM GET_CERTIFICATE request for the slot 0 chain. -/
  | getCertificate (slot : Nat) (off : Nat) (len : Nat)
  /-- FINISH (R490): SPDM FINISH request completing a session. -/
  | finish (sig : Bool) (both : Bool) (root : Nat)
  /-- SPDM_UNSUPPORTED_REQUEST (R490): Any other SPDM request code is answered with ERROR UnsupportedRequest. -/
  | spdmUnsupportedRequest (code : Nat)
  /-- ACCRESET (R493): Vendor-defined request scheduling a clear of tenant accounting counters. -/
  | accreset (mask : BitVec 64) (at_ : Nat)
  /-- REGISTER_WRITE (R500): A write to a control window register with no row of its own. -/
  | registerWrite (src : RegSrc) (off : Nat) (size : Nat) (v : BitVec 64)
  /-- LINK_PORT_UP (R499): A Nytin Link port trains after a cable is plugged in or lanes recover, setting PSTAT.UP. -/
  | linkPortUp (lanes : Nat) (br : Bool) (peer : Nat)
  /-- HART_LOAD_STORE (R366): A skerry hart executes an ordinary RISC-V load, store, AMO or Zicbom instruction, with access, poison and COMPRESSED faults. -/
  | hartLoadStore (op : HartOp)
  /-- SKERRY_ILLEGAL_INSTRUCTION (R54): A custom-0 or custom-1 encoding with non-zero funct7, a non-zero unused register field, funct3 5-7 under custom-0, or an unlisted CSR number raises an illegal-instruction exception. -/
  | skerryIllegalInstruction (w : BitVec 32)
  /-- UNASSIGNED_DOCK_OP (R52): The harbour reaches a dock word whose OP is unassigned (0x00 or 0x12-0xFF) and halts the queue with BADDOCK. -/
  | unassignedDockOp (w : DockW) (op : BitVec 8)
  /-- BLOCKED_WORD_RESUME (R316): A dock word blocked on a condition executes once the condition clears. -/
  | blockedWordResume
  /-- WAITGE_SATISFIED (R337): A waiting WAITGE completes when the semaphore reaches its value. -/
  | waitgeSatisfied
  /-- QUEUE_GO (R314): QCTL.GO clears a queue's halt and resumes execution at HEAD. -/
  | queueGo
  /-- QUEUE_STOP (R314): QCTL.STOP halts a running queue with cause HOST. -/
  | queueStop
  /-- SEMAPHORE_MESSAGE_RECEIVE (R321): A harbour checks and applies a semaphore message from another harbour and answers. -/
  | semaphoreMessageReceive
  /-- SEMAPHORE_ANSWER_RECEIVE (R321): The sending harbour receives the target's answer and completes its word. -/
  | semaphoreAnswerReceive
  /-- SEMAPHORE_MESSAGE_TIMEOUT (R321): A semaphore message unanswered for 100,000 pt halts the queue with SEMLOST. -/
  | semaphoreMessageTimeout
  /-- RING_PLACE (R328): The harbour chooses and configures a segment on a free ring. -/
  | ringPlace
  /-- RUN_DEAL (R327): The harbour deals the next run of records to a ring serving the task. -/
  | runDeal
  /-- TASK_COMPLETE (R325): A task completes with one end status and signals its semaphore. -/
  | taskComplete
  /-- EDGE_INV_ACTIONS (R355): The edge unit runs a task's INV actions before it becomes eligible for a ring. -/
  | edgeInvActions
  /-- EDGE_END_ACTIONS (R355): The edge unit runs a task's FLUSH and FWD actions after its requests are performed. -/
  | edgeEndActions
  /-- PREEMPT (R330): The harbour pre-empts a lower-priority segment and saves its context. -/
  | preempt
  /-- MARKER_GATE_FIRE (R73): An element's marker gate passes a marker and resets named state. -/
  | markerGateFire
  /-- B_STAGE_INTAKE (R163): The B channel head token is checked and moved into the B stage. -/
  | bStageIntake
  /-- MMA_START (R173): A queued MMA starts occupying the plane array. -/
  | mmaStart
  /-- MMA_FOLD_LAND (R184): An MMA's block sums fold into the accumulator tile. -/
  | mmaFoldLand
  /-- WHARF_REQUEST_ISSUE (R203): A wharf issues a chain request once its order conditions hold. -/
  | wharfRequestIssue
  /-- REPLY_LAND (R205): A memory reply lands in its destination in firing order. -/
  | replyLand
  /-- LDS_WAKE (R208): A parked LDS performs its read once every granule is full. -/
  | ldsWake
  /-- WC_LINE_DRAIN (R194): A write-combine line drains to its controller. -/
  | wcLineDrain
  /-- ATOMIC_APPLY (R260): An owner, bank or controller ALU applies an update token. -/
  | atomicApply
  /-- REPAIR_REENTRY (R268): A repair entry re-issues after its re-latch ends. -/
  | repairReentry
  /-- INPUT_PORT_DELIVER (R210): An input stream port delivers a token or marker of an invocation. -/
  | inputPortDeliver
  /-- OUTPUT_PORT_WRITE (R211): An output stream port writes a token to its region. -/
  | outputPortWrite
  /-- MBX_ACTION_WRITE (R375): A mailbox output port's token is checked and queued as an action. -/
  | mbxActionWrite
  /-- MBX_OBSERVATION_DELIVER (R212): A mailbox input port delivers the next observation followed by EOI. -/
  | mbxObservationDeliver
  /-- STAGING_CONFIGURE (R80): The staging stripe is configured with the next virtual stripe. -/
  | stagingConfigure
  /-- STRIPE_RESIDENT (R80): The staging stripe becomes resident after an eviction. -/
  | stripeResident
  /-- STRIPE_EVICT (R81): A resident stripe of a scrolling segment is evicted. -/
  | stripeEvict
  /-- STATEFUL_SAVE (R82): A stateful stripe's state record is saved. -/
  | statefulSave
  /-- PASS_BUFFER_REPLAY (R83): Parked tokens replay into a newly resident successor. -/
  | passBufferReplay
  /-- CONFIG_CACHE_FILL (R85): A configuration cache miss fetches and checks a stripe image from the home stack. -/
  | configCacheFill
  /-- STALL (R88): The stall counter reaches STALLT and the segment raises STALL. -/
  | stall
  /-- FREEZE_STOP (R398): The segment clock stops eight cycles after a fault is detected. -/
  | freezeStop
  /-- HANDLER_RECORD_WRITE (R371): A held record is written to a handler ring when space frees. -/
  | handlerRecordWrite
  /-- COMMIT_STOP (R400): An armed commit stop stops the clock at the stripe's commit cycle. -/
  | commitStop
  /-- CONTAINMENT_SEQUENCE (R430): The harbour rolls back and replays a replayable segment after CONTAIN. -/
  | containmentSequence
  /-- SPARE_MOVE (R436): The spare moves to shadow the next configured element. -/
  | spareMove
  /-- SPARE_REPLACE (R438): At the next EOI the spare permanently replaces a faulty element. -/
  | spareReplace
  /-- STRIPE_DISABLE (R439): A stripe with a second lasting fault is disabled. -/
  | stripeDisable
  /-- HEALTH_THRESHOLD_CROSS (R440): Corrected errors exceed a threshold and the isle voltage is raised. -/
  | healthThresholdCross
  /-- VHOLD_EXPIRE (R440): The hold-off after a crossing ends. -/
  | vholdExpire
  /-- RELATCH_COMPLETE (R213): The re-latch token has left every node and BUSY clears. -/
  | relatchComplete
  /-- PROMOTE_COMPLETE (R216): The promotion copy ends, the leaf is replaced and held launches are released. -/
  | promoteComplete
  /-- COPY_RESUME (R278): A suspended copy resumes once its page is present. -/
  | copyResume
  /-- COPY_TIMEOUT (R279): A remote copy request unanswered for FTOUT ends the copy in error. -/
  | copyTimeout
  /-- BWAIT_WAKE (R282): A parked BWAIT completes once its condition holds. -/
  | bwaitWake
  /-- COLL_FLIT_RECEIVE (R289): A collective data flit is received or dropped by view number. -/
  | collFlitReceive
  /-- COLL_COMPLETE (R297): A collective operation completes with one status code. -/
  | collComplete
  /-- CWAIT_WAKE (R298): A parked CWAIT returns the status of the completed operation. -/
  | cwaitWake
  /-- COLL_ABORT_RECEIVE (R296): An abort from another member completes the operation with PEERFAULT. -/
  | collAbortReceive
  /-- COLTOUT_EXPIRE (R300): An operation's timeout expires and it completes with TIMEOUT. -/
  | coltoutExpire
  /-- HEARTBEAT_SEND (R302): The engine sends heartbeats every 500 pt. -/
  | heartbeatSend
  /-- SUSPECT_TIMEOUT (R302): A peer is suspected after 5,000 pt without a heartbeat. -/
  | suspectTimeout
  /-- FATAL_REPORT_RECEIVE (R302): A fatal error report makes its isle suspected at once. -/
  | fatalReportReceive
  /-- SUSPECT_RECEIVE (R303): The leader receives SUSPECT and acts as on its own suspicion. -/
  | suspectReceive
  /-- PROPOSE_RECEIVE (R303): A member receives PROPOSE and may acknowledge it. -/
  | proposeReceive
  /-- ACK_RECEIVE (R303): The proposer receives an ACK and commits once every proposed member acknowledges. -/
  | ackReceive
  /-- PROPOSE_TIMER_EXPIRE (R303): The proposer's timer expires and it commits with a majority or goes ISOLATED. -/
  | proposeTimerExpire
  /-- PREPARED_TIMER_EXPIRE (R303): A prepared member's timer expires without COMMIT and it suspects the proposer. -/
  | preparedTimerExpire
  /-- COMMIT_RECEIVE (R303): A member receives COMMIT and installs or goes ISOLATED. -/
  | commitReceive
  /-- JOIN_SEND (R303): A joining engine sends JOIN every 500 pt. -/
  | joinSend
  /-- JOIN_RECEIVE (R303): The leader receives JOIN and proposes a view admitting the joiner. -/
  | joinReceive
  /-- BINDING_PROMOTE (R377): A next mailbox binding is promoted to current. -/
  | bindingPromote
  /-- WATCHDOG_CYCLE_EXPIRE (R379): The cycle budget is overrun and the episode aborts. -/
  | watchdogCycleExpire
  /-- WATCHDOG_ROUNDTRIP_EXPIRE (R379): The round-trip budget is overrun and the episode aborts. -/
  | watchdogRoundtripExpire
  /-- ABORT_RECORD_QUEUE (R381): The abort record is queued on the observation queue when a slot is free. -/
  | abortRecordQueue
  /-- USER_TRAP (R372): A hart takes a user-level trap for waiting fabric records. -/
  | userTrap
  /-- FUTLD_WAKE (R380): A waiting FUTLD completes once its granule is full. -/
  | futldWake
  /-- TRACE_SAMPLE (R447): Every TSAMP pt a SAMPLE record is written for each occupied ring. -/
  | traceSample
  /-- CUT_RECORD (R452): A segment records its state in the cycle the cut request or marker reaches it. -/
  | cutRecord
  /-- DUMP_WRITE (R455): An isle writes its dump sections and end section. -/
  | dumpWrite
  /-- DUMP_FINISH (R455): Once every end section is written the recorded segments resume or are killed. -/
  | dumpFinish
  /-- POWER_LOSS (R495): Input below 44 V for 1 ms holds every isle in reset. -/
  | powerLoss
  /-- THERMAL_THROTTLE (R497): Power or junction above limit stretches the isle's fabric clock. -/
  | thermalThrottle
  /-- THERMAL_TRIP (R497): A 110 C junction sends a fatal report and holds the isle in reset. -/
  | thermalTrip
  /-- LINK_PORT_DOWN (R481): A port losing more than 4 lanes or its cable goes down. -/
  | linkPortDown
  /-- MR_EXTEND (R489): MREXTC with GO extends a measurement register by the MREXTD digest. -/
  | mrExtend
  /-- GET_VERSION (R490): SPDM GET_VERSION request to the lighthouse. -/
  | getVersion
  /-- GET_CAPABILITIES (R490): SPDM GET_CAPABILITIES request. -/
  | getCapabilities
  /-- GET_DIGESTS (R490): SPDM GET_DIGESTS request. -/
  | getDigests
  /-- CHALLENGE (R490): SPDM CHALLENGE request signed with ML-DSA-65. -/
  | challenge
  /-- GET_MEASUREMENTS (R491): SPDM GET_MEASUREMENTS request returning isle measurement blocks. -/
  | getMeasurements
  /-- KEY_EXCHANGE (R490): SPDM KEY_EXCHANGE request opening a session. -/
  | keyExchange
  /-- END_SESSION (R490): SPDM END_SESSION request. -/
  | endSession
  /-- ACCOUNTING_CLEAR (R493): Named counters are cleared as panel time reaches T. -/
  | accountingClear
  /-- HEARTBEAT_RECEIVE (R302): An engine receives a peer's heartbeat flit and restarts that peer's suspicion count. -/
  | heartbeatReceive
  /-- THROT_CLEAR (R497): Isle power and junction temperature fall below their limits and the fabric clock stops being stretched. -/
  | throtClear
  /-- MMA_OCCUPANCY_END (R173): At the end of ck s + D - 1 an MMA leaves the plane array, releasing its plane tile's BUSY, its queue entry and its B group slots. -/
  | mmaOccupancyEnd
  deriving DecidableEq, Repr

end Sys2Proof
end

