-- ==== Sys2Proof/Machine/State.lean ====
section
/-! DEFINITION. The state of one panel as plain data: memory and its marks, forty isles with their rings,
harbour, ferry, collective engine, skerry cores and register blocks, the links and the lighthouse, and the
model's own scheduling data. Field comments name the rule that gives the field. -/

namespace Sys2Proof.Machine

/-- Why a step stops the machine. Nothing of the spec stops the whole panel: each fault of the spec is a
state of the unit it strikes. -/
inductive Fault where
  /-- Raised by `step` when the slot that a turn fires holds no rule word. Configuration rejects such a word
  (R40, R48), so no loaded image reaches it. Safe: the machine stops where the part cannot be. -/
  | undecodable
  deriving DecidableEq, Repr

/-- Why a step has no meaning. -/
inductive Refusal where
  /-- The instruction has no meaning in the model yet. Safe. -/
  | notModelled (mnemonic : String)
  deriving DecidableEq, Repr

/-! ## Tokens and the element -/

/-- R60: the kind of a token. -/
inductive Kind where
  | data | null | eoi | fin
  deriving DecidableEq, Repr, Inhabited

/-- R60: sixteen lanes and the 40-bit tag. -/
structure Token where
  lanes : Lanes
  kind : Kind
  ty : BitVec 4
  poison : Bool
  seqv : Bool
  seq : W16
  chk : W16
  deriving DecidableEq, Repr, Inhabited

/-- R64, R205: a place of an arc, filled or reserved for the reply with this number. -/
inductive Slot where
  | tok (t : Token)
  | rsv (id : Nat)
  deriving DecidableEq, Repr, Inhabited

/-- R63, R67, R408: a v-register. -/
structure VReg where
  lanes : Lanes
  pres : Bool
  pois : Bool
  seqv : Bool
  seq : W16
  wr : Bool
  deriving DecidableEq, Repr, Inhabited

/-- R77, R78: a counter unit; `ti0`, `to0` are the image's trip counts (RELOAD, R73). -/
structure Counter where
  en : Bool
  reload : Bool
  ki : W16
  ko : W16
  ti : W16
  to_ : W16
  pti : Option W16
  pto : Option W16
  ti0 : W16
  to0 : W16
  deriving DecidableEq, Repr, Inhabited

/-- R45, R226: an address generator. -/
structure Gen where
  en : Bool
  region : Nat
  stride : BitVec 32
  cursor : BitVec 40
  deriving DecidableEq, Repr, Inhabited

/-- R159, R160: a plane tile and its descriptor. -/
structure PlaneTile where
  vals : List W16
  fc : BitVec 4
  filling : Bool
  busy : Nat
  sparse : BitVec 2
  fmt : BitVec 4
  prow : W16
  apois : Bool
  bpois : Bool
  ascale : List Byte
  bscale : List Byte
  deriving DecidableEq, Repr, Inhabited

/-- R175: an accumulator tile and its descriptor. -/
structure AccTile where
  vals : List W
  xfer : BitVec 2
  cur : BitVec 4
  pend : Nat
  poison : Bool
  deriving DecidableEq, Repr, Inhabited

/-- R163: a staged B token, the MMA its group is assigned to, and whether MFWD has forwarded it. -/
structure Staged where
  tok : Token
  grp : Option Nat
  fwd : Bool
  done : Bool
  deriving DecidableEq, Repr, Inhabited

/-- R173, R184: a fired MMA, with what it latched; `a`, `fmt` and `sp` are the A values it has
read by the end of its occupancy and their format.
Cycle numbers are segment cycles. -/
structure Mma where
  id : Nat
  slot : Nat
  acc : Nat
  plane : Nat
  zero : Bool
  sparse : Bool
  group : List Token
  ascale : List Byte
  bscale : List Byte
  pois : Bool
  fired : Nat
  dur : Nat
  start : Option Nat
  ended : Bool
  ord : Nat
  a : List W16
  fmt : Nat
  sp : Nat
  deriving DecidableEq, Repr, Inhabited

/-- R45: the configuration block. -/
structure Cfg where
  route : List W16
  yt : List W16
  ltype : List (BitVec 4)
  ctr : List Counter
  agc : List Gen
  fchain : List (BitVec 6)
  mreset : BitVec 32
  ii : Nat
  pace : Nat
  ten : BitVec 6
  frm : Nat
  ftz : Bool
  deriving DecidableEq, Repr, Inhabited

/-- R44: an element image; `raw` is its 512 bytes. -/
structure ElemImg where
  rules : List W
  guards : List W
  conf : List W
  consts : List W
  cfg : Cfg
  raw : List Byte
  deriving DecidableEq, Repr, Inhabited

/-- What the cycle in progress has already done in an element (R4, R66, R68): slots fired, in-channel heads
consumed, flags and ERMASK bits raised, gate fired, intake done, an update applied; `clr` are the registers that lose their
presence at the end of the cycle, each with the slot that read it (R67), `badchk` the in-channels whose head failed its
check at a read (R419), `newSr` the seeds that the SR generators take at its end (R139), and `newGen` the first argument
index that the cursors then take (R226); `noRules` says that the element's latches failed, so that it fires no rule (R434). -/
structure Cyc where
  fired : List Nat
  taken : List Nat
  clr : List (Nat × Nat)
  fnew : BitVec 6
  enew : W16
  gate : Bool
  intake : Bool
  applied : Bool
  badchk : List Nat
  newSr : Option (List W)
  newGen : Option Nat
  noRules : Bool
  deriving DecidableEq, Repr, Inhabited

/-- The state of one element (R405, R406, R408, R444). `erun` is the run it is in, `ends` the out-channels to which an
element without a gate has sent the END of that run (R81); `hold` counts the cycles in which a spare takes its state (R436). -/
structure Elem where
  on : Bool
  img : ElemImg
  v : List VReg
  pred : List W16
  ctr : List Counter
  gen : List Gen
  fflags : BitVec 6
  ermask : W16
  ord : W
  mdone : W
  nextSeq : W16
  reord : List (Option Token)
  holdTok : Token
  holdLeft : W
  sr : List W
  planes : List PlaneTile
  acc : List AccTile
  stage : List Staged
  mq : List Mma
  mmaNo : Nat
  inq : List (List Slot)
  oq : List (List Slot)
  vbusy : Nat
  fires : W64
  late : List W64
  excess : W64
  intervals : W64
  maxEx : W
  lastPace : Option Nat
  lateNow : List Nat
  fences : Nat
  hold : Nat
  erun : Nat
  ends : BitVec 4
  cyc : Cyc
  deriving DecidableEq, Repr, Inhabited

/-! ## The wharf -/

/-- The memory operations that travel in chains (R202). -/
inductive ReqOp where
  | ld | ldq | lds | srd | st | stf | sto | sete | pfx | swr
  | atom (f : Nat)
  | cpy (f : Nat) | cpyx
  | binit | barv | bexp | bwait
  | coll (f : Nat) | cwait | cabrt
  deriving DecidableEq, Repr, Inhabited

/-- Where a reply goes (R205, R206). -/
inductive Dest where
  | none | vreg (n : Nat) | out (k : Nat) | reply (y : Nat)
  deriving DecidableEq, Repr, Inhabited

/-- R203, R405: a request. `no` is its firing number, `ck` the segment cycle it fired in, `off` the cursor an
SRD or SWR took, `held` whether it faulted and stays at the head (R199), `iss` the fabric cycle of its issue, `ahead` the fences
behind which it fired and which treat it as ahead (R252). -/
structure Req where
  no : Nat
  ck : Nat
  op : ReqOp
  chain : Nat
  pos : Nat
  run : Nat
  ord : Nat
  elem : Nat
  slot : Nat
  sz : Nat
  addr : Lanes
  data : Lanes
  swap : Lanes
  apois : Bool
  dpois : Bool
  null : Bool
  dest : Dest
  rpl : Bool
  seqv : Bool
  seq : W16
  gen : Nat
  off : Nat
  lanes : W16
  held : Bool
  iss : Nat
  ahead : List Nat
  deriving DecidableEq, Repr, Inhabited

/-- R205: an outstanding reply in firing order. `got` is the reply token and the fabric cycle from which it may
land; `read` marks an LD, LDS or SRD, which holds the gate. -/
structure Pend where
  no : Nat
  elem : Nat
  dest : Dest
  read : Bool
  null : Bool
  got : Option (Token × Nat)
  deriving DecidableEq, Repr, Inhabited

/-- R251, R252: what a fence asks of a request or copy: its element, the segment cycle it fired in, and the fences that treat it
as ahead. -/
structure Issuer where
  elem : Nat
  ck : Nat
  ahead : List Nat
  deriving DecidableEq, Repr, Inhabited

/-- R194: a write-combine line, by its address and the bytes it holds (offset, byte); `who` are the stores that wrote it. -/
structure WcLine where
  pa : Nat
  bytes : List (Nat × Byte)
  tenant : Nat
  who : List Issuer
  deriving DecidableEq, Repr, Inhabited

/-- R203, R235 to R238: a load or store that has issued and whose lines are not all performed. `lines` are its lines in issue
order, one per cycle from `req.iss` on, `left` those not yet performed; `got` are the bytes that a load has read. -/
structure Fly where
  req : Req
  lines : List Nat
  left : List Nat
  got : List Host.Cell
  pois : Bool
  deriving DecidableEq, Repr, Inhabited

/-- R260, R269: an atomic that has issued; `lmask` are its lanes not yet applied, `old` the values read. -/
structure Atom where
  req : Req
  lmask : W16
  old : Lanes
  flags : BitVec 6
  drop : W16
  since : Nat
  deriving DecidableEq, Repr, Inhabited

/-- R267: an entry of the repair queue. -/
structure Repair where
  cause : Nat
  req : Req
  lmask : W16
  failm : W16
  act : Nat
  old : Lanes
  flags : BitVec 6
  deriving DecidableEq, Repr, Inhabited

/-- R251: an unresolved fence. -/
structure Fence where
  elem : Nat
  scope : Nat
  ck : Nat
  no : Nat
  deriving DecidableEq, Repr, Inhabited

/-- The wharf of a stripe (R405). `fly` holds the loads and stores in flight in issue order, `parked` the LDS, BWAIT and CWAIT requests that wait at a bank or engine; `freeL`
and `freeS` are the fabric cycles from which the next lagoon and stack line may issue (R235). -/
structure Wharf where
  chains : List (List Req)
  fly : List Fly
  parked : List Req
  pend : List Pend
  atoms : List Atom
  wc : List WcLine
  rq : List (Option Repair)
  fences : List Fence
  arr : List (Option (Nat × W))
  freeL : Nat
  freeS : Nat
  deriving DecidableEq, Repr, Inhabited

/-! ## Stripe and segment -/

/-- R400, R404, R414: an armed commit stop: the run and invocation, the cause (1 BRK, 2 debugger) and the debugger's entry. -/
structure Arm where
  run : Nat
  ord : Nat
  cause : Nat
  bp : Nat
  deriving DecidableEq, Repr, Inhabited

/-- R435 to R438: the spare of a physical stripe. -/
structure Spare where
  at_ : Nat
  eois : Nat
  off : Bool
  spent : Option Nat
  mism : List (Nat × Nat)
  due : Option Nat
  deriving DecidableEq, Repr, Inhabited

/-- A physical stripe of a ring holding a virtual stripe (R79 to R82, R404). -/
structure Stripe where
  vs : Nat
  run : Nat
  res : Bool
  stg : Bool
  wire : Bool
  saved : Bool
  hold : Nat
  elems : List Elem
  wharf : Wharf
  arm : Option Arm
  eoi : Nat
  deriving DecidableEq, Repr, Inhabited

/-- R83: a parked token and the arc it waits on (virtual stripe, element and channel of the consumer). -/
structure Parked where
  vs : Nat
  elem : Nat
  ch : Nat
  src : Nat
  slot : Slot
  deriving DecidableEq, Repr, Inhabited

/-- R348: a region record. -/
structure Region where
  base : Nat
  extent : Nat
  mode : Nat
  action : Nat
  fwd : Nat
  deriving DecidableEq, Repr, Inhabited

/-- R197: a wharf extent entry; `len` in 64 KiB units. -/
structure Extent where
  region : Nat
  roff : Nat
  cmp : Bool
  pbase : Nat
  len : Nat
  deriving DecidableEq, Repr, Inhabited

/-- R47: a stream list entry. -/
structure StreamEnt where
  kind : Nat
  ty : Nat
  dir : Nat
  idx : Nat
  stride : Nat
  deriving DecidableEq, Repr, Inhabited

/-- R47: a declared channel entry. -/
structure ChanEnt where
  dir : Nat
  ty : Nat
  depth : Nat
  isle : Nat
  ring : Nat
  peer : Nat
  deriving DecidableEq, Repr, Inhabited

/-- R47, R256: an owner range. -/
structure OwnerEnt where
  base : Nat
  extent : Nat
  vs : Nat
  elem : Nat
  ftz : Bool
  deriving DecidableEq, Repr, Inhabited

/-- R43: a stripe record. -/
structure StripeImg where
  mask : W16
  stateB : Nat
  digest : List Byte
  elems : List ElemImg
  deriving DecidableEq, Repr, Inhabited

/-- R42: a segment image as the loader checked it. -/
structure Image where
  entry : Nat
  nstripe : Nat
  runmax : Nat
  seed : Nat
  len : Nat
  stateful : List Bool
  stripes : List StripeImg
  chans : List ChanEnt
  streams : List StreamEnt
  regions : List Region
  owners : List OwnerEnt
  deriving DecidableEq, Repr, Inhabited

/-- R327: a run of a segment: its number, first argument index and number of invocations. -/
structure Run where
  no : Nat
  first : Nat
  count : Nat
  deriving DecidableEq, Repr, Inhabited

/-- R209 to R212: the state of a stream port: run, invocation within the run, token within the invocation, and for an
input port whether it has begun the invocation. -/
structure Port where
  run : Nat
  inv : Nat
  tok : Nat
  begun : Bool
  deriving DecidableEq, Repr, Inhabited

/-- R428, R470: a token kept for replay, with the address it was read from when poisoned. -/
structure Kept where
  run : Nat
  inv : Nat
  port : Nat
  tok : Token
  addr : Nat
  deriving DecidableEq, Repr, Inhabited

/-- R394 to R396: a fault record before it is written. `view` holds the words of a VIEW record (R305); `port` is one more
than the index of the stream port that faulted, 0 when none did (R397). -/
structure Rec where
  kind : Nat
  cause : Nat
  cont : Bool
  pois : Bool
  frz : Bool
  pt : Nat
  seg : Nat
  vs : Nat
  elem : Nat
  slot : Nat
  ord : Nat
  argix : Nat
  lmask : W16
  flags : BitVec 6
  chain : Nat
  sz : Nat
  fck : Nat
  d0 : Nat
  d1 : Nat
  addr : Lanes
  at_ : Nat
  view : List Nat
  port : Nat
  deriving DecidableEq, Repr, Inhabited

/-- R82, R85, R427: a state record of a stateful stripe at a run boundary; `spilled` says that it stands in the state area and no
longer in the configuration cache. -/
structure StateRec where
  vs : Nat
  run : Nat
  elems : List Elem
  spilled : Bool
  deriving DecidableEq, Repr, Inhabited

/-- The part of a segment that rules read at the start of a cycle and write at its end (R4). -/
structure Core where
  stripes : List Stripe
  parkd : List Parked
  xin : List (List Token)
  deriving DecidableEq, Repr, Inhabited

/-- How a segment stands out of its normal running (R330, R398, R430, R452). -/
inductive Halt where
  | none
  | preempting
  | saving
  | cut
  | retired
  deriving DecidableEq, Repr, Inhabited

/-- A placed segment. `live` is written by the cycle in progress, `start` is its state at the start of that
cycle (R4); `full` are its stream entries whose mailbox's action queue was full then (R212). `inSlot` says that its whole context
has been written to its context slot (R330), and `ousts` names the task for which it is being pre-empted (R329).
`vlanes` are the views as the cycle in progress found them (R309), `nackP` and `nackS` the numbers that a VACK acknowledges at its
end (R310), `cpt` the panel time at its start (R416), and `halting` says that HALT has fired in it (R418). `gapRun` is the oldest run
that had begun when the segment last returned to its ring (R428). -/
structure Seg where
  id : W
  task : Nat
  tenant : Nat
  image : Image
  regions : List Region
  extents : List Extent
  live : Core
  start : Core
  nextVs : Nat
  nextRun : Nat
  sck : Nat
  wck : Nat
  stall : Nat
  no : Nat
  runs : List Run
  runsDealt : Nat
  ports : List Port
  noMore : Bool
  dealtAll : Bool
  joined : List Nat
  frz : Option Nat
  recs : List Rec
  stopped : Bool
  cmt : Bool
  sopend : Bool
  halted : Bool
  cmd : Bool
  kind : Nat
  fck : Nat
  dck : Nat
  nrec : Nat
  first : List Byte
  ackP : Nat
  ackS : Nat
  subP : Bool
  subS : Bool
  origin : Nat
  attempts : Nat
  attemptRun : Nat
  tainted : Option Nat
  replay : List Kept
  replaying : List Kept
  srecs : List StateRec
  placedPt : Nat
  relatchAt : Option Nat
  released : Bool
  halt : Halt
  cutNo : Nat
  stopPt : Nat
  full : List Nat
  inSlot : Bool
  ousts : Option Nat
  vlanes : Lanes
  nackP : Option Nat
  nackS : Option Nat
  cpt : Nat
  halting : Bool
  gapRun : Option Nat
  deriving DecidableEq, Repr, Inhabited

/-- R17, R85, R87, R409: a ring. `saved` are the pre-empted segments with their context slots, the one in the shadow banks first, `cache` the images and their order of use
(task, virtual stripe), most recent first, `lost` the physical stripes disabled in service (R439). -/
structure Ring where
  stripes : Nat
  built : Nat
  spared : Nat
  disabled : Nat
  seg : Option Seg
  saved : List (Seg × Nat)
  scanned : List (Seg × Nat)
  log2t : Nat
  cache : List (Nat × Nat)
  spares : List Spare
  lost : List Nat
  deriving DecidableEq, Repr, Inhabited

/-! ## The harbour -/

/-- R314: a dock queue. `out` is a message to another harbour without an answer yet: its number, when it was
sent, its target and whether it was acknowledged (a watch). -/
structure Queue where
  ty : BitVec 2
  tenant : BitVec 6
  maxprio : BitVec 2
  en : Bool
  base : Nat
  limit : Nat
  head : Nat
  tail : Nat
  halt : Bool
  wait : Bool
  dberr : Bool
  cause : Nat
  infl : Nat
  cap : BitVec 2
  detail : Nat
  taskCard : Nat
  taskStatus : Nat
  laddr : Nat
  lc : Nat
  out : Option (Nat × Nat × Nat × Bool)
  answer : Option (Nat × Bool)
  work : Nat
  deriving DecidableEq, Repr, Inhabited

/-- R322: a job card. -/
structure Card where
  entry : Nat
  args : Nat
  argsz : Nat
  argn : Nat
  cmin : Nat
  regs : Nat
  regn : Nat
  prio : Nat
  tenant : Nat
  flags : Nat
  rings : Nat
  donesem : Nat
  failsem : Nat
  doneadd : Nat
  result : Nat
  inh : Nat
  zeros : Nat
  deriving DecidableEq, Repr, Inhabited

/-- Where a task stands between LAUNCH and its end (R248, R325, R355, R410). -/
inductive TaskSt where
  | heldImage
  | heldPages
  | heldConflict
  | inv
  | ready
  | running
  | ending
  | done
  deriving DecidableEq, Repr, Inhabited

/-- A task (R322 to R328, R355). `phase` is 0 until its forward actions wait, `miss`
the address that a held launch waits for (R196), `areas` the state areas by ring (R85), `segs` the ids of its segments so far, `begun` whether
its start actions have been queued (R355). -/
structure Task where
  no : Nat
  queue : Nat
  va : Nat
  card : Card
  prio : Nat
  coll : Bool
  st : TaskSt
  image : Image
  regions : List Region
  next : Nat
  dealt : Bool
  runsOut : Nat
  status : Option Nat
  phase : Nat
  lost : Bool
  miss : Nat
  areas : List (Nat × List Nat)
  segs : List Nat
  begun : Bool
  deriving DecidableEq, Repr, Inhabited

/-- R332: a buffer handle's record. -/
structure Handle where
  gen : Nat
  owner : Option Nat
  first : Nat
  count : Nat
  freein : Bool
  deriving DecidableEq, Repr, Inhabited

/-- R320, R321: a watch that another isle's queue has registered here: semaphore, value, isle, queue, number. -/
structure Watch where
  idx : Nat
  v : W64
  isle : Nat
  q : Nat
  id : Nat
  deriving DecidableEq, Repr, Inhabited

/-- R334: a page request. -/
structure PageReq where
  tenant : Nat
  kind : Nat
  write : Bool
  who : Nat
  va : Nat
  deriving DecidableEq, Repr, Inhabited

/-- R214: the re-latch registers and the range in progress. -/
structure Relatch where
  va : Nat
  pages : Nat
  tenant : Nat
  act : Option (Nat × Nat × Nat)
  scanout : Bool
  deriving DecidableEq, Repr, Inhabited

/-- R272, R336: a translation that a TLB holds: its tenant, its page's virtual address and size as a power of two, the physical
address of the page, and its table entry with the place that it was read from. -/
structure TlbEnt where
  tenant : Nat
  va : Nat
  log : Nat
  base : Nat
  pte : Nat
  slot : Nat
  deriving DecidableEq, Repr, Inhabited

/-- R217: a promotion engine. `job` are the range, destination and tenant of the promotion in progress as its GO found them. -/
structure Promo where
  va : Nat
  dst : Nat
  tenant : Nat
  state : Nat
  job : Option (Nat × Nat × Nat)
  deriving DecidableEq, Repr, Inhabited

/-- R359: an edge action in progress or waiting: its queue word or task, the action (0 FLUSH, 1 INV, 2 FWD), its
priority, the tenant, the record and its index, the base of the forward target, and the offset reached; `map` is the translation
of its region as the action found it at its start (R354): offset, length and physical address of each piece; `gone` says that
its target has left the view (R356). -/
structure EdgeJob where
  isQueue : Bool
  who : Nat
  act : Nat
  prio : Nat
  tenant : Nat
  reg : Region
  rec_ : Nat
  dst : Nat
  off : Nat
  map : Option (List (Nat × Nat × Nat))
  gone : Bool
  deriving DecidableEq, Repr, Inhabited

/-- R319 and the harbour's own bookkeeping; `cmpFault` is the latest COMPRESSED fault: a task and the region that it names (R219), and
`tlb` the translation cache in order of use (R336). -/
structure Harbour where
  bpFirst : Nat
  bpCount : Nat
  bwin : Nat
  ctxBase : Nat
  ctxSlots : Nat
  ctxUsed : List Nat
  prqBridge : Nat
  prqBase : Nat
  prqLog2n : Nat
  prqVec : Nat
  prqHead : Nat
  prqTail : Nat
  prqHeld : List PageReq
  tasks : List Task
  taskNo : Nat
  placements : Nat
  lastPrio : List Nat
  handles : List (Nat × Handle)
  sem : List W64
  own : List Byte
  watches : List Watch
  msgNo : Nat
  recSeq : W
  edge : List EdgeJob
  relatch : Relatch
  promo : List Promo
  tlb : List TlbEnt
  cmpFault : Option (Nat × Nat)
  deriving DecidableEq, Repr, Inhabited

/-! ## Ferry, collective engine, membership -/

/-- The side of a copy a fault strikes (R395). -/
inductive Side where
  | src | dst | idx
  deriving DecidableEq, Repr, Inhabited

/-- R276 to R278: a byte that a copy has read and not written: its number, the index of its element, its value, whether its
source is poisoned, its source address, and the panel time from which its write is requested. -/
structure CopyByte where
  b : Nat
  ix : Nat
  v : Byte
  pois : Bool
  src : Option Nat
  at_ : Nat
  deriving DecidableEq, Repr, Inhabited

/-- R273 to R279: a copy. `read` bytes have been read, in the order of R274; `got` are those of them not yet written, `ixs` the
indices read and not used, by element. `sincePt` is the time from which its next read is requested. `obj` is the barrier object's address, `seg` the issuing segment, `queue` the COPYQ
word (queue, descriptor address, DONESEM, FAILSEM, DONEADD), `edge` the task or queue whose forward it is. -/
structure Copy where
  gen : Nat
  op : Nat
  src : Nat
  dst : Nat
  len : Nat
  rows : Nat
  sstr : Nat
  dstr : Nat
  idx : Nat
  pat : Nat
  obj : Option Nat
  tenant : Nat
  seg : Option Nat
  ring : Nat
  vs : Nat
  elem : Nat
  slot : Nat
  ord : Nat
  run : Nat
  ck : Nat
  ahead : List Nat
  queue : Option (Nat × Nat × Nat × Nat × Nat)
  edge : Option Nat
  read : Nat
  got : List CopyByte
  ixs : List (Nat × Nat)
  landed : List (Nat × Nat)
  susp : Option (Nat × Nat × Side × Nat)
  found : Bool
  sincePt : Nat
  deriving DecidableEq, Repr, Inhabited

/-- R220: a host access counter. -/
structure HpCtr where
  page : Nat
  count : Nat
  queued : Bool
  marked : Bool
  tenant : Nat
  deriving DecidableEq, Repr, Inhabited

/-- R221, R272, R287: the ferry of an isle; `tlb` in order of use, most recent first; `waiting` are the copies of dock words that
wait for a slot, each with whether its descriptor is well formed (R316). -/
structure Ferry where
  ftout : Nat
  faults : Nat
  copies : List (Nat × Copy)
  ended : List (Nat × Nat × Nat)
  gens : List (Nat × Nat)
  hpcThr : Nat
  hpcBridge : Nat
  hpcBase : Nat
  hpcLog2n : Nat
  hpcHead : Nat
  hpcTail : Nat
  hpc : List HpCtr
  tlb : List TlbEnt
  waiting : List (Copy × Bool)
  deriving DecidableEq, Repr, Inhabited

/-- R298: the status a completed operation shows: code, view number, N, flags, interruptions, rank. -/
structure CollStatus where
  code : Nat
  view : Nat
  n : Nat
  flags : BitVec 6
  ints : Nat
  rank : Nat
  deriving DecidableEq, Repr, Inhabited

/-- What another member has sent for a matched operation (R296). -/
structure Contrib where
  src : Member
  sig : List Nat
  w : W
  data : List Byte
  deriving DecidableEq, Repr, Inhabited

/-- R291 to R300: an operation in its slot; `map` are the translations of its ranges that its issue found (R296). -/
structure CollOp where
  kind : Nat
  gen : Nat
  seg : Nat
  ring : Nat
  tenant : Nat
  src : Nat
  dst : Nat
  count : Nat
  ctl : Nat
  w : W
  root : Nat
  sys : Bool
  comm : Nat
  seqNo : Nat
  first : List Member
  eff : List Member
  view : Nat
  ints : Nat
  recv : List Contrib
  since : Nat
  discard : Bool
  abort : Option Nat
  status : Option CollStatus
  map : List TlbEnt
  deriving DecidableEq, Repr, Inhabited

/-- R312: a communicator and its sequence counter (R296). -/
structure Comm where
  en : Bool
  sys : Bool
  tenant : Nat
  imask : Nat
  pmask : Nat
  seq : Nat
  deriving DecidableEq, Repr, Inhabited

/-- R303: the membership states. -/
inductive MState where
  | stable | proposing | prepared | isolated | joining
  deriving DecidableEq, Repr, Inhabited

/-- R288, R302, R303: the membership of one scope on one isle. `prop` is its own proposal (number, set,
acknowledged) and `joiners` the isles that it admits, `prep` the proposal it acknowledged (number, proposer), `timer` when its timer ends. -/
structure Memb where
  num : Nat
  members : List Member
  st : MState
  vmax : Nat
  acked : Nat
  prop : Option (Nat × List Member × List Member)
  prep : Option (Nat × Member)
  timer : Nat
  susp : List Member
  pending : List Member
  heard : List (Member × Nat)
  sentHb : Option Nat
  sinceReset : Bool
  joiners : List Member
  deriving DecidableEq, Repr, Inhabited

/-! ## Skerry cores -/

/-- Privilege modes of a hart (R364). -/
inductive Mode where
  | u | s | m
  deriving DecidableEq, Repr, Inhabited

/-- R379: the open episode of a hart. -/
structure Episode where
  mbx : Nat
  id : W16
  wins : List (Nat × Nat × Nat)
  cyc : W64
  cycRun : Bool
  cycCnt : Nat
  rtt : Nat
  wd : Option Nat
  deriving DecidableEq, Repr, Inhabited

/-- R364: a PMP entry: its configuration byte and its address register. -/
structure PmpEnt where
  cfg : Byte
  addr : W64
  deriving DecidableEq, Repr, Inhabited

/-- R364: a trigger: tdata1 and tdata2. -/
structure Trig where
  t1 : W64
  t2 : W64
  deriving DecidableEq, Repr, Inhabited

/-- R364 to R372: a hart. `futld` is the FUTLD that waits (destination, address). `mieR` and `mipR` are the registers mie and mip (the
latter without SFTIP, which R371 computes), `fs` the state of the FP unit in mstatus, `stepSt` a single step in progress: 0 none, 1 the
instruction is due, 2 it has been executed; `rack` and `hvr` are resumeack and havereset of its debug module (R487). -/
structure Hart where
  pc : W64
  x : List W64
  mode : Mode
  halted : Bool
  sftEn : Bool
  sftHnd : Bool
  sftTenant : Nat
  ie : Bool
  pie : Bool
  uftvec : W64
  ufcause : W64
  ufepc : W64
  uftval : W64
  ufscratch : W64
  medeleg : W64
  mtvec : W64
  mepc : W64
  mcause : W64
  mtval : W64
  mpp : Mode
  mie : Bool
  mpie : Bool
  stvec : W64
  sepc : W64
  scause : W64
  stval : W64
  spp : Mode
  sie : Bool
  spie : Bool
  satp : W64
  sum : Bool
  mxr : Bool
  resv : Option Nat
  epi : Option Episode
  futld : Option (Nat × Nat)
  cycles : Nat
  f : List W64
  fcsr : Nat
  instret : Nat
  mieR : W64
  mipR : W64
  mideleg : W64
  mscratch : W64
  sscratch : W64
  mcounteren : W
  scounteren : W
  mcountinhibit : W
  menvcfg : W64
  senvcfg : W64
  mseccfg : W64
  pmp : List PmpEnt
  mprv : Bool
  tvm : Bool
  tw : Bool
  tsr : Bool
  fs : Nat
  tsel : Nat
  trigs : List Trig
  dcsr : W
  dpc : W64
  dscratch : List W64
  stepSt : Nat
  rack : Bool
  hvr : Bool
  deriving DecidableEq, Repr, Inhabited

/-- A line of the isle's skerry caches (R240). -/
structure SkLine where
  pa : Nat
  data : List Byte
  dirty : Bool
  deriving DecidableEq, Repr, Inhabited

/-- R374: a step mailbox. -/
structure Mbx where
  en : Bool
  tenant : Nat
  follow : Bool
  act : List Lanes
  obs : List Token
  open_ : Bool
  aborted : Bool
  cur : Option (Nat × Nat)
  next : Option (Nat × Nat)
  stale : Bool
  hart : Nat
  epi : W16
  ostep : W
  astep : W
  ser : W
  lastSer : Option W
  handed : Nat
  acted : Nat
  abortDue : List Token
  rtStart : Option Nat
  deriving DecidableEq, Repr, Inhabited

/-- R369, R371: a handler entry: what is installed (`core` to `dlen`), the registers as written, the harbour's TAIL register, and
the records that wait for space with their sequence numbers and last cycles. -/
structure Handler where
  core : Nat
  en : Bool
  result : Nat
  clen : Nat
  code : Nat
  data : Nat
  dlen : Nat
  wcore : Nat
  wclen : Nat
  wcode : Nat
  wdata : Nat
  wdlen : Nat
  tail : Nat
  held : List (Rec × Nat × Nat)
  deriving DecidableEq, Repr, Inhabited

/-! ## Isle blocks -/

/-- R445, R485: a ring log's registers. -/
structure RingLog where
  base : Nat
  log2n : Nat
  head : Nat
  tail : Nat
  lost : W
  seq : W
  gap : Bool
  deriving DecidableEq, Repr, Inhabited

/-- R445: the trace block. -/
structure Trace where
  en : Bool
  wrap : Bool
  tenant : Nat
  anyt : Bool
  kmask : Nat
  dthr : Nat
  tsamp : Nat
  lastSample : Nat
  log : RingLog
  deriving DecidableEq, Repr, Inhabited

/-- R449: a breakpoint entry. -/
structure Bp where
  en : Bool
  sticky : Bool
  byarg : Bool
  any : Bool
  hit : Bool
  vs : Nat
  seg : Nat
  inv : Nat
  deriving DecidableEq, Repr, Inhabited

/-- R451: what a coordinator's registers held at the GO that started its cut. -/
structure CutJob where
  resume : Bool
  stack : Bool
  mem : Bool
  mask : Nat
  base : Nat
  len : Nat
  deriving DecidableEq, Repr, Inhabited

/-- R451: the dump block, the cut `job` that the isle coordinates, and the cut that the isle takes part in: `coord` is its coordinator, number and tenant, `written`
and `small` whether the isle has written its part and whether that did not fit, `off` where the coordinator's next lighthouse
section goes. -/
structure Dump where
  resume : Bool
  tenant : Nat
  stack : Bool
  mem : Bool
  mask : Nat
  base : Nat
  len : Nat
  state : Nat
  cut : Nat
  job : Option CutJob
  coord : Option (Nat × Nat × Nat)
  written : Bool
  small : Bool
  off : Nat
  deriving DecidableEq, Repr, Inhabited

/-- R441: the containment block. -/
structure Contain where
  replayTry : Nat
  spareInt : Nat
  spareOff : Bool
  swin : Nat
  vhold : Nat
  steps : Nat
  holdUntil : Option Nat
  attempts : Nat
  ce : List (List Nat)
  thr : List Nat
  ue : List Nat
  crossed : List Bool
  deriving DecidableEq, Repr, Inhabited

/-- One isle. `mon` is the panel time since its reset that its power monitor has
averaged over, up to 1,000 (R498);
`tested` says that RINGCAP has been set since the module's reset (R11, R13). -/
structure Isle where
  no : Nat
  up : Bool
  rings : List Ring
  queues : List Queue
  hb : Harbour
  ferry : Ferry
  ops : List (Nat × CollOp)
  opGens : List (Nat × Nat)
  comms : List Comm
  colTout : Nat
  vchg : W
  pview : Memb
  sview : Memb
  harts : List Hart
  sk : List SkLine
  mbx : List Mbx
  handlers : List Handler
  cont : Contain
  trace : Trace
  bps : List Bp
  dump : Dump
  err : RingLog
  mr : List (List Byte)
  mrext : List Byte
  acct : List (List Nat)
  throt : Bool
  throtCnt : Nat
  mon : Nat
  tested : Bool
  dmi : List (BitVec 32)
  deriving DecidableEq, Repr, Inhabited

/-! ## The panel -/

/-- R482: a Nytin Link port. -/
structure LinkPort where
  up : Bool
  bridge : Bool
  peer : Nat
  lanes : Nat
  retry : W
  dbdrop : W
  irqdrop : W
  deriving DecidableEq, Repr, Inhabited

/-- R490: an SPDM connection of the lighthouse, with its sessions by number: opened by KEY_EXCHANGE, complete after FINISH, with
the root of the requester's chain when it has authenticated mutually. -/
structure Spdm where
  version : Bool
  caps : Bool
  algs : Bool
  sess : List (Nat × Bool × Option Nat)
  deriving DecidableEq, Repr, Inhabited

/-- R490 to R493: what the responder answers; `error` carries the SPDM error code (1 InvalidRequest, 4 UnexpectedRequest,
6 DecryptError, 7 UnsupportedRequest). -/
inductive SpdmRsp where
  | version | capabilities | algorithms (ok : Bool)
  | digests (d : List Byte) | certificate (d : List Byte) | challengeAuth (d : List Byte)
  | measurements (blocks : List (Nat × List Byte)) | keyExchange (sess : Nat) (d : List Byte)
  | finish | endSession | accResetDone | error (code : Nat)
  deriving DecidableEq, Repr

/-- What a host access ends with (R483): the bytes read and whether they are poisoned, done, or Unsupported
Request. -/
inductive HostRsp where
  | data (b : List Byte) (ep : Bool)
  | done
  | unsupported
  deriving DecidableEq, Repr

/-- R193, R422: a line of a stack cache, or an entry of a check-bit cache, by its number, and whether it is dirty. -/
abbrev ScLine := Nat × Bool

/-- The unit that a step concerns. `n` is the isle; `k` a ring, queue, controller, port, array class, tenant,
breakpoint, connection, or scope (0 panel, 1 system); `p` a physical stripe or peer panel; `e` an element, hart
or peer isle; `j` a slot, chain, message, mailbox, stream, copy or operation; `x` a choice the spec leaves
open. -/
structure Cur where
  n : Nat
  k : Nat
  p : Nat
  e : Nat
  j : Nat
  x : Nat
  deriving DecidableEq, Repr, Inhabited

/-- How a CSR instruction changes its CSR: not at all, by a whole value, by bits set or cleared. -/
inductive CsrOp where
  | read | write | set | clear
  deriving DecidableEq, Repr

/-- R420: where an array returns an error: a granule or line of memory, a line of the stack cache or of the check-bit cache, a plane or
accumulator tile, a v-register or a B-stage token of the unit's element, a token of the unit's pass or replay buffer, the shadow banks,
the configuration caches, or a line of the skerry caches. -/
inductive ArrayPlace where
  | memory (pa : Nat)
  | stackCache (pa : Nat)
  | checkCache (pa : Nat)
  | plane (t : Nat)
  | acc (t : Nat)
  | vreg (v : Nat)
  | bStage (i : Nat)
  | pass (i : Nat)
  | replay (i : Nat)
  | shadow
  | config
  | skerry (pa : Nat)
  deriving DecidableEq, Repr

/-- What a turn of the agenda lets happen (log 1): an element fires slot `j`; a ring's clock ends a cycle; a dock queue executes
the word at HEAD; a hart executes the word at its pc; a line of request `j` in flight is performed (R236); a copy reads up to a
byte (R276); an event of the table comes about; a hart takes an interrupt; an array returns a corrected or an uncorrectable error (R420); panel time passes. -/
inductive Act where
  | fire
  | clock
  | dock
  | hart
  | perform (line : Nat)
  | copyRead (upTo : Nat)
  | event (i : Instr)
  | intr
  | array (at_ : ArrayPlace) (corrected : Bool)
  | pass (pt : Nat)
  deriving DecidableEq, Repr

/-- A turn: the unit and what it does. -/
structure Turn where
  cur : Cur
  act : Act
  deriving DecidableEq, Repr

/-- The whole panel. -/
structure State where
  mem : List Host.Cell
  full : List Nat
  pois : List Nat
  sc : List ScLine
  cb : List ScLine
  ptRoot : List Nat
  isles : List Isle
  net : List Flit
  pt : Nat
  powered : Bool
  panel : Nat
  ports : List LinkPort
  ldBridge : Nat
  ldBase : Nat
  ldLen : Nat
  roots : List Nat
  spdm : List Spdm
  spdmOut : Option SpdmRsp
  accReset : List (Nat × Nat × Nat)
  irqs : List (Nat × Nat)
  rsp : Option HostRsp
  free : Nat
  cur : Cur
  agenda : List Turn
  deriving DecidableEq, Repr

/-! ## Reset -/

def Token.blank : Token := ⟨Lanes.zero, .data, 0, false, false, 0, 0⟩
/-- R408: an empty register. -/
def VReg.empty : VReg := ⟨Lanes.zero, false, false, false, 0, false⟩

/-- R314: a queue after reset. -/
def Queue.reset : Queue :=
  ⟨0, 0, 0, false, 0, 0, 0, 0, false, false, false, 0, 0, 0, 0, 0, 0, 0, 0, none, none, 0⟩

/-- R13, R87: a ring before its self-test (log 6). -/
def Ring.reset : Ring := ⟨0, 34, 0, 0, none, [], [], 20, [], List.replicate 34 ⟨0, 0, false, none, [], none⟩, []⟩

/-- R214, R217, R319, R320: the harbour after reset. -/
def Harbour.reset : Harbour :=
  { bpFirst := 0, bpCount := 0, bwin := 0, ctxBase := 0, ctxSlots := 0, ctxUsed := [], prqBridge := 0, prqBase := 0,
    prqLog2n := 4, prqVec := 0, prqHead := 0, prqTail := 0, prqHeld := [], tasks := [], taskNo := 0,
    placements := 0, lastPrio := [0, 0, 0, 0], handles := [], sem := List.replicate 256 0,
    own := List.replicate 256 0, watches := [], msgNo := 0, recSeq := 0, edge := [],
    relatch := ⟨0, 0, 0, none, false⟩, promo := List.replicate 4 ⟨0, 0, 0, 0, none⟩, tlb := [], cmpFault := none }

/-- R221, R287: the ferry after reset. -/
def Ferry.reset : Ferry := ⟨100000, 0, [], [], [], 0, 0, 0, 4, 0, 0, [], [], []⟩

/-- A membership before boot has formed any view: number 1 (R312), no members (log 6). -/
def Memb.none : Memb := ⟨1, [], .stable, 1, 0, Option.none, Option.none, 0, [], [], [], Option.none, false, []⟩

/-- R368 and log 7: a hart after reset. -/
def Hart.reset : Hart :=
  { pc := 0, x := List.replicate 32 0, mode := .m, halted := false, sftEn := false, sftHnd := false, sftTenant := 0,
    ie := false, pie := false, uftvec := 0, ufcause := 0, ufepc := 0, uftval := 0, ufscratch := 0, medeleg := 0,
    mtvec := 0, mepc := 0, mcause := 0, mtval := 0, mpp := .u, mie := false, mpie := false, stvec := 0, sepc := 0,
    scause := 0, stval := 0, spp := .u, sie := false, spie := false, satp := 0, sum := false, mxr := false, resv := none, epi := none, futld := none,
    cycles := 0, f := List.replicate 32 0, fcsr := 0, instret := 0, mieR := 0, mipR := 0, mideleg := 0x1000000, mscratch := 0,
    sscratch := 0, mcounteren := 0, scounteren := 0, mcountinhibit := 0, menvcfg := 0, senvcfg := 0, mseccfg := 0,
    pmp := List.replicate 16 ⟨0, 0⟩, mprv := false, tvm := false, tw := false, tsr := false, fs := 0, tsel := 0,
    trigs := List.replicate 4 ⟨0xF000000000000000, 0⟩, dcsr := 0x40000003, dpc := 0, dscratch := [0, 0], stepSt := 0, rack := false,
    hvr := true }

/-- R374: a mailbox after reset. -/
def Mbx.reset : Mbx :=
  ⟨false, 0, false, [], [], false, false, none, none, false, 0, 0, 0xFFFFFFFF, 0xFFFFFFFF, 0, none, 0, 0, [], none⟩

/-- R369: a handler entry after reset. -/
def Handler.reset : Handler := ⟨0, false, 0, 0, 0, 0, 0, 0, 0, 0, 0, 0, 0, []⟩

/-- R441: the containment block after reset. -/
def Contain.reset : Contain :=
  ⟨1, 4096, false, 100000000, 1000000000, 0, none, 0, List.replicate 12 [], List.replicate 12 1000,
   List.replicate 12 0, List.replicate 12 false⟩

/-- R445: a ring log after reset. -/
def RingLog.reset : RingLog := ⟨0, 7, 0, 0, 0, 0, false⟩

/-- An isle after module reset, held until boot (R2, R488). -/
def Isle.reset (n : Nat) : Isle :=
  { no := n, up := false, rings := List.replicate 6 Ring.reset, queues := List.replicate 16 Queue.reset,
    hb := Harbour.reset, ferry := Ferry.reset, ops := [], opGens := [],
    comms := List.replicate 16 ⟨false, false, 0, 0, 0, 0⟩, colTout := 1000000, vchg := 0, pview := Memb.none,
    sview := Memb.none, harts := List.replicate 16 Hart.reset, sk := [], mbx := List.replicate 256 Mbx.reset,
    handlers := List.replicate 64 Handler.reset, cont := Contain.reset,
    trace := ⟨false, false, 0, false, 0, 16, 0, 0, RingLog.reset⟩,
    bps := List.replicate 8 ⟨false, false, false, false, false, 0, 0, 0⟩,
    dump := ⟨false, 0, false, true, 0, 0, 0, 0, 0, none, none, false, false, 0⟩, err := RingLog.reset,
    mr := List.replicate 8 (List.replicate 32 0), mrext := List.replicate 32 0,
    acct := List.replicate 64 (List.replicate 11 0), throt := false, throtCnt := 0, mon := 0, tested := false, dmi := List.replicate 128 0 }

/-- The panel after module power-up: nothing listed in memory, every granule empty, every isle held (R2, R488,
R495). -/
def State.reset : State :=
  { mem := [], full := [], pois := [], sc := [], cb := [], ptRoot := List.replicate 64 0,
    isles := (List.range 40).map Isle.reset, net := [], pt := 0, powered := false, panel := 0,
    ports := List.replicate 16 ⟨false, false, 0, 0, 0, 0, 0⟩, ldBridge := 0, ldBase := 0, ldLen := 0, roots := [],
    spdm := List.replicate 4 ⟨false, false, false, []⟩, spdmOut := none, accReset := [], irqs := [], rsp := none,
    free := 0, cur := ⟨0, 0, 0, 0, 0, 0⟩, agenda := [] }

end Sys2Proof.Machine
end

