-- ==== Sys2Proof/Machine/Ops.lean ====
section
/-! DEFINITION. The named operations over the state: access to its parts, physical memory with presence and
poison, page tables, the error log and the trace, and taking an exception: the fault of a segment, the record it
leaves, and the trap of a hart with the return from it. -/

namespace Sys2Proof.Machine

/-! ## Parts of the state -/

def State.isle (s : State) (n : Nat) : Isle := nth default s.isles n
def State.onIsle (s : State) (n : Nat) (f : Isle → Isle) : State := { s with isles := upd f s.isles n }
def Isle.ring (i : Isle) (k : Nat) : Ring := nth default i.rings k
def Isle.onRing (i : Isle) (k : Nat) (f : Ring → Ring) : Isle := { i with rings := upd f i.rings k }
def State.onRing (s : State) (n k : Nat) (f : Ring → Ring) : State := s.onIsle n fun i => i.onRing k f
def Ring.onSeg (r : Ring) (f : Seg → Seg) : Ring := { r with seg := r.seg.map f }
def State.seg (s : State) (n k : Nat) : Option Seg := ((s.isle n).ring k).seg
def State.onSeg (s : State) (n k : Nat) (f : Seg → Seg) : State := s.onRing n k fun r => r.onSeg f
def Isle.onHarbour (i : Isle) (f : Harbour → Harbour) : Isle := { i with hb := f i.hb }
def State.onHarbour (s : State) (n : Nat) (f : Harbour → Harbour) : State := s.onIsle n fun i => i.onHarbour f
def Isle.queue (i : Isle) (q : Nat) : Queue := nth default i.queues q
def State.onQueue (s : State) (n q : Nat) (f : Queue → Queue) : State :=
  s.onIsle n fun i => { i with queues := upd f i.queues q }
def State.onFerry (s : State) (n : Nat) (f : Ferry → Ferry) : State := s.onIsle n fun i => { i with ferry := f i.ferry }
def Isle.hart (i : Isle) (h : Nat) : Hart := nth default i.harts h
def State.onHart (s : State) (n h : Nat) (f : Hart → Hart) : State :=
  s.onIsle n fun i => { i with harts := upd f i.harts h }
def Isle.mailbox (i : Isle) (b : Nat) : Mbx := nth default i.mbx b
def State.onMbx (s : State) (n b : Nat) (f : Mbx → Mbx) : State := s.onIsle n fun i => { i with mbx := upd f i.mbx b }
def Isle.handler (i : Isle) (t : Nat) : Handler := nth default i.handlers t
def State.onHandler (s : State) (n t : Nat) (f : Handler → Handler) : State :=
  s.onIsle n fun i => { i with handlers := upd f i.handlers t }
def State.onContain (s : State) (n : Nat) (f : Contain → Contain) : State :=
  s.onIsle n fun i => { i with cont := f i.cont }

def Core.stripe (c : Core) (p : Nat) : Stripe := nth default c.stripes p
def Core.onStripe (c : Core) (p : Nat) (f : Stripe → Stripe) : Core := { c with stripes := upd f c.stripes p }
def Stripe.elem (t : Stripe) (e : Nat) : Elem := nth default t.elems e
def Stripe.onElem (t : Stripe) (e : Nat) (f : Elem → Elem) : Stripe := { t with elems := upd f t.elems e }
def Core.elem (c : Core) (p e : Nat) : Elem := (c.stripe p).elem e
def Core.onElem (c : Core) (p e : Nat) (f : Elem → Elem) : Core := c.onStripe p fun t => t.onElem e f
def Core.onWharf (c : Core) (p : Nat) (f : Wharf → Wharf) : Core := c.onStripe p fun t => { t with wharf := f t.wharf }
def Seg.onLive (g : Seg) (f : Core → Core) : Seg := { g with live := f g.live }
def Seg.onElem (g : Seg) (p e : Nat) (f : Elem → Elem) : Seg := g.onLive fun c => c.onElem p e f
def Seg.onWharf (g : Seg) (p : Nat) (f : Wharf → Wharf) : Seg := g.onLive fun c => c.onWharf p f

/-- The segment, or `default` where the ring holds none. -/
def State.segD (s : State) (n k : Nat) : Seg := (s.seg n k).getD default

/-- The element of the step as it stood at the start of the cycle (R4). -/
def State.curElem (s : State) : Elem := (s.segD s.cur.n s.cur.k).start.elem s.cur.p s.cur.e

/-- The element of the step as the cycle has left it so far (R4). -/
def State.liveElem (s : State) : Elem := (s.segD s.cur.n s.cur.k).live.elem s.cur.p s.cur.e

/-- Changes to the segment and to the element of the step. -/
def State.onCurSeg (s : State) (f : Seg → Seg) : State := s.onSeg s.cur.n s.cur.k f
def State.onCurElem (s : State) (f : Elem → Elem) : State := s.onCurSeg fun g => g.onElem s.cur.p s.cur.e f

/-- The next free value's number. -/
def State.takeFree (s : State) : State := { s with free := s.free + 1 }

/-- The tasks of a harbour by number. -/
def Harbour.task (h : Harbour) (no : Nat) : Option Task := h.tasks.find? fun t => t.no == no
def Harbour.onTask (h : Harbour) (no : Nat) (f : Task → Task) : Harbour :=
  { h with tasks := h.tasks.map fun t => if t.no = no then f t else t }

/-! ## Sets of numbers, kept sorted -/

/-- A number put into a sorted list. -/
def insSet (x : Nat) : List Nat → List Nat
  | [] => [x]
  | y :: r => if x < y then x :: y :: r else if x = y then y :: r else y :: insSet x r

/-- A number taken out of a list. -/
def delSet (x : Nat) (l : List Nat) : List Nat := l.filter fun y => y != x

/-- The list without repetitions, first entries kept. -/
def dedup (l : List Nat) : List Nat := l.foldl (fun acc x => if acc.contains x then acc else acc ++ [x]) []

/-! ## Memory cells -/

/-- A byte of memory: what an unlisted address reads as is 0 (log 5). -/
def memGet (a : Nat) : List Host.Cell → Byte
  | [] => 0
  | (b, v) :: r => if b = a then v else memGet a r

/-- A byte written; the list stays sorted and lists no zero. -/
def memPut (a : Nat) (v : Byte) : List Host.Cell → List Host.Cell
  | [] => if v = 0 then [] else [(a, v)]
  | (b, w) :: r =>
    if a < b then (if v = 0 then (b, w) :: r else (a, v) :: (b, w) :: r)
    else if a = b then (if v = 0 then r else (a, v) :: r)
    else (b, w) :: memPut a v r

/-- Addresses strictly rising, from a bound, and no zero listed. -/
def memOk (lo : Nat) : List Host.Cell → Bool
  | [] => true
  | (a, v) :: r => decide (lo ≤ a) && decide (v ≠ 0) && memOk (a + 1) r

/-- The canonical form of memory. -/
def Memory.wf (m : List Host.Cell) : Bool := memOk 0 m

def State.byte (s : State) (a : Nat) : Byte := memGet a s.mem
def State.setByte (s : State) (a : Nat) (v : Byte) : State := { s with mem := memPut a v s.mem }

/-- `n` bytes from an address up. -/
def State.bytes (s : State) (a : Nat) : Nat → List Byte
  | 0 => []
  | n + 1 => s.byte a :: s.bytes (a + 1) n

/-- Bytes written from an address up. -/
def State.setBytes (s : State) (a : Nat) : List Byte → State
  | [] => s
  | b :: bs => (s.setByte a b).setBytes (a + 1) bs

/-- A little-endian number in memory (R23). -/
def State.num (s : State) (a n : Nat) : Nat := ofLe (s.bytes a n)

/-! ## Physical addresses (R191, R270) -/

def paSpace (a : Nat) : Nat := a / 2 ^ 46
def paIsle (a : Nat) : Nat := a / 2 ^ 40 % 64
def paOff (a : Nat) : Nat := a % 2 ^ 40
/-- An isle-local address of isle `n` as a panel physical address. -/
def paOf (n off : Nat) : Nat := n * 2 ^ 40 + off % 2 ^ 40
/-- R191: the usable home stack, 60 GiB. -/
def offStack (off : Nat) : Bool := off < 0xF00000000
/-- R191: the lagoon, 96 MiB. -/
def offLagoon (off : Nat) : Bool := 0x8000000000 ≤ off && off < 0x8006000000
def paPanel (a : Nat) : Bool := paSpace a == 0 && decide (paIsle a < 40)
def paStack (a : Nat) : Bool := paPanel a && offStack (paOff a)
def paLagoon (a : Nat) : Bool := paPanel a && offLagoon (paOff a)
/-- R191: panel memory that exists. -/
def paExists (a : Nat) : Bool := paStack a || paLagoon a
/-- R270: the bridge of host memory, spaces 1 to 4. -/
def paHost (a : Nat) : Bool := 1 ≤ paSpace a && paSpace a ≤ 4

/-- R207: the granule of a lagoon byte. -/
def granule (a : Nat) : Nat := a / 8

/-- R270: the memory of a peer panel. -/
def paPeer (a : Nat) : Bool := decide (0x100 ≤ paSpace a) && decide (paSpace a ≤ 0x13F) && decide (paIsle a < 40)
/-- A lagoon of this panel or of a peer. -/
def anyLagoon (a : Nat) : Bool := (paPanel a || paPeer a) && offLagoon (paOff a)

/-- R423: the unit that carries one poison mark, by its first address: a stack line or a lagoon granule. -/
def poisonUnit (a : Nat) : Nat := if anyLagoon a then a / 8 * 8 else a / 64 * 64
def poisonSize (a : Nat) : Nat := if anyLagoon a then 8 else 64

def State.isPois (s : State) (a : Nat) : Bool := s.pois.contains (poisonUnit a)
def State.isFull (s : State) (a : Nat) : Bool := s.full.contains (granule a)
def State.setFull (s : State) (g : Nat) : State := { s with full := insSet g s.full }
def State.setEmpty (s : State) (g : Nat) : State := { s with full := delSet g s.full }
/-- R423: a location marked poisoned. Only the memory of panels, this one and its peers, carries marks. -/
def State.poison (s : State) (a : Nat) : State :=
  if paExists a || (paPeer a && (offStack (paOff a) || offLagoon (paOff a))) then
    { s with pois := insSet (poisonUnit a) s.pois }
  else s

/-- R192, R193: the set of a stack line's controller: its isle, its controller and the low bits of its line number. Which address
bits choose the set is the model's choice (log 10). -/
def scSet (line : Nat) : Nat × Nat × Nat := (line / 2 ^ 34, line / 2 ^ 15 % 4, line % 2048)

/-- R422: the set of an entry of a check-bit cache, which covers 16 lines: its isle, its controller and PA[17:10]. -/
def cbSet (grp : Nat) : Nat × Nat × Nat := (grp / 2 ^ 30, grp / 2 ^ 11 % 4, grp % 256)

/-- R193, R422: the entry that leaves a cache of `ways` ways when one enters: the least recently used of a full set. The list is in
order of use, most recent first. -/
def lruVictim (set : Nat → Nat × Nat × Nat) (ways x : Nat) (l : List ScLine) : Option ScLine :=
  let mates := l.filter fun y => set y.1 == set x
  if mates.any (fun y => y.1 == x) || decide (mates.length < ways) then none else mates.getLast?

/-- An entry used: it becomes the most recently used. -/
def lruEnter (set : Nat → Nat × Nat × Nat) (ways x : Nat) (dirty : Bool) (l : List ScLine) : List ScLine :=
  let old := l.any fun y => y.1 == x && y.2
  let l := match lruVictim set ways x l with | some y => l.filter fun (z : ScLine) => z.1 != y.1 | none => l
  (x, dirty || old) :: l.filter fun y => y.1 != x

/-- R422: the check symbols of a line used at the stack array; an entry that leaves is written back. The symbols themselves follow from
the line and its poison mark (log 53). -/
def State.cbTouch (s : State) (line : Nat) (dirty : Bool) : State := { s with cb := lruEnter cbSet 4 (line / 16) dirty s.cb }

/-- R193: a line of the stack cache touched; one that it does not hold is read from the array, and a dirty line that leaves is written
back there, which no agent can see, since memory holds what the cache holds (log 10). -/
def State.scTouch (s : State) (a : Nat) (dirty : Bool) : State :=
  if paStack a then
    let line := a / 64
    let out := lruVictim scSet 16 line s.sc
    let s := if s.sc.any fun x => x.1 == line then s else s.cbTouch line false
    let s := match out with | some x => if x.2 then s.cbTouch x.1 true else s | none => s
    { s with sc := lruEnter scSet 16 line dirty s.sc }
  else s

/-- R492: an event counted for a tenant; counters stop at 2^64 - 1. -/
def State.charge (s : State) (n tenant idx amt : Nat) : State :=
  s.onIsle n fun i => { i with acct := upd (fun c => upd (fun v => satAdd (2 ^ 64 - 1) v amt) c idx) i.acct tenant }

/-- R492: bytes read or written at the banks or controllers of an isle. -/
def State.chargeMem (s : State) (tenant a amt : Nat) : State :=
  if paLagoon a then s.charge (paIsle a) tenant 5 amt
  else if paStack a then s.charge (paIsle a) tenant 6 amt else s

/-- The poison of any unit that a range touches. -/
def State.anyPois (s : State) (a n : Nat) : Bool := (List.range n).any fun i => s.isPois (a + i)

/-! ## Record rings in the home stack -/

/-- R485, R445: the place of the next record of a ring log. -/
def RingLog.next (l : RingLog) : Nat := (l.tail + 1) % 2 ^ l.log2n

/-- R485: the error log advanced by one record; a full ring overwrites its oldest. -/
def RingLog.push (l : RingLog) : RingLog :=
  { l with
    tail := l.next
    head := if l.next = l.head then (l.head + 1) % 2 ^ l.log2n else l.head
    lost := if l.next = l.head then BitVec.ofNat 32 (satAdd (2 ^ 32 - 1) l.lost.toNat 1) else l.lost
    seq := l.seq + 1 }

/-- R486: an error record. `lo` are bits of the first word above EKIND and ISLE, `w18` the word at 0x18. -/
def errBytes (ekind n seq pt seg w18 detail : Nat) : List Byte :=
  leBytes 4 (ekind % 256 + n * 2 ^ 16) ++ leBytes 4 seq ++ leBytes 8 pt ++ leBytes 4 seg ++ leBytes 4 0 ++
  leBytes 4 w18 ++ leBytes 4 detail

/-- R485, R486: an error record posted to the log of isle `n`. -/
def State.postErr (s : State) (n ekind seg w18 detail : Nat) : State :=
  let l := (s.isle n).err
  let s := s.setBytes (paOf n (l.base + 32 * l.tail)) (errBytes ekind n l.seq.toNat s.pt seg w18 detail)
  s.onIsle n fun i => { i with err := i.err.push }

/-- R446: a trace record. -/
def traceBytes (kind n ring : Nat) (pois lost : Bool) (seq pt seg vs elem slot ord data : Nat) : List Byte :=
  leBytes 4 (kind % 256 + pois.toNat * 2 ^ 8 + lost.toNat * 2 ^ 9 + n * 2 ^ 16 + ring * 2 ^ 22) ++ leBytes 4 seq ++
  leBytes 8 pt ++ leBytes 4 seg ++ leBytes 2 vs ++ leBytes 1 elem ++ leBytes 1 slot ++ leBytes 4 ord ++ leBytes 4 data

/-- R445, R448: whether the trace of an isle takes a record of a kind and tenant. -/
def Trace.takes (t : Trace) (kind tenant : Nat) : Bool := t.en && bitN t.kmask (kind - 1) && (t.anyt || t.tenant == tenant)

/-- R445 to R448: a trace record written, or dropped when the ring is full and does not wrap. -/
def State.postTrace (s : State) (n ring tenant kind : Nat) (pois : Bool) (seg vs elem slot ord data : Nat) : State :=
  let t := (s.isle n).trace
  if t.takes kind tenant then
    if !t.wrap && t.log.next == t.log.head then
      s.onIsle n fun i => { i with trace := { i.trace with log := { i.trace.log with
        lost := BitVec.ofNat 32 (satAdd (2 ^ 32 - 1) t.log.lost.toNat 1), gap := true } } }
    else
      let s := s.setBytes (paOf n (t.log.base + 32 * t.log.tail))
        (traceBytes kind n ring pois t.log.gap t.log.seq.toNat s.pt seg vs elem slot ord data)
      s.onIsle n fun i => { i with trace := { i.trace with log := { i.trace.log with
        tail := t.log.next, seq := t.log.seq + 1, gap := false } } }
  else s

/-! ## Writes at the banks and controllers -/

/-- The byte that a list of writes leaves at an address; later entries win (R227). -/
def lastAt (a : Nat) (cells : List Host.Cell) : Option Byte :=
  cells.foldl (fun acc c => if c.1 = a then some c.2 else acc) none

/-- R424: the units that a write touches. -/
def unitsOf (cells : List Host.Cell) : List Nat := dedup (cells.map fun c => poisonUnit c.1)

/-- R424: a write covers a unit when it gives every byte of it. -/
def coversUnit (cells : List Host.Cell) (u : Nat) : Bool :=
  (List.range (poisonSize u)).all fun i => cells.any fun c => c.1 == u + i

/-- R424: the units of a write that stay poisoned, whose part of the write is discarded. -/
def State.badUnits (s : State) (cells : List Host.Cell) : List Nat :=
  (unitsOf cells).filter fun u => s.pois.contains u && !coversUnit cells u

/-- Cells written one by one. -/
def putCells (cells : List Host.Cell) (m : List Host.Cell) : List Host.Cell :=
  cells.foldl (fun m c => memPut c.1 c.2 m) m

/-- R193: the stack cache after a write. -/
def State.scWrite (s : State) (cells : List Host.Cell) : State :=
  (dedup (cells.map fun c => c.1 / 64)).foldl (fun s u => s.scTouch (u * 64) true) s

/-- R237, R423, R424: one write performed at the banks and controllers. Writes to poisoned units that do not
cover them are discarded with an error record; whole units clear their mark. -/
def State.perform (s : State) (cells : List Host.Cell) : State :=
  let bad := s.badUnits cells
  let good := cells.filter fun c => !bad.contains (poisonUnit c.1)
  let s := { s with mem := putCells good s.mem, pois := s.pois.filter fun u => bad.contains u || !coversUnit cells u }
  let s := s.scWrite good
  bad.foldl (fun s u => s.postErr (paIsle u) 4 0 u 0) s

/-- The cells of bytes from an address up. -/
def cellsAt (a : Nat) : List Byte → List Host.Cell
  | [] => []
  | b :: bs => (a, b) :: cellsAt (a + 1) bs

/-- R237: bytes performed at consecutive addresses, charged to a tenant. -/
def State.write (s : State) (tenant a : Nat) (bs : List Byte) : State :=
  (s.perform (cellsAt a bs)).chargeMem tenant a bs.length

/-- Bytes performed whose number and place the spec gives and whose content it leaves open (log 31). -/
def State.writeOpen (s : State) (a len : Nat) : State :=
  ({ s with free := s.free + 1 }).perform (cellsAt a ((List.range len).map fun i => Config.freeByte s.free i))

/-- A unit of a range is poisoned. -/
def State.poisIn (s : State) (a len : Nat) : Bool := s.pois.any fun u => decide (u < a + len) && decide (a < u + poisonSize u)

/-- The granules that addresses touch in a lagoon (R207). -/
def granulesOf (addrs : List Nat) : List Nat := dedup ((addrs.filter anyLagoon).map granule)

/-- R207, R242: a ferry or collective write, which sets the granules it lands in full, but those whose part was
discarded (R424). -/
def State.writeFill (s : State) (tenant a : Nat) (bs : List Byte) : State :=
  let cells := cellsAt a bs
  let bad := s.badUnits cells
  let gs := (granulesOf (cells.map (·.1))).filter fun g => !bad.contains (g * 8)
  gs.foldl State.setFull (s.write tenant a bs)

/-! ## Page tables (R195, R218, log 7) -/

/-- A leaf found by a walk: the physical address of the byte asked for, the page's size as a power of two, and
the permission and software bits of the entry (RISC-V Sv48; RSW bits 8 and 9 per R369 and R218). -/
structure Leaf where
  pa : Nat
  log : Nat
  base : Nat
  pte : Nat
  slot : Nat
  deriving DecidableEq, Repr, Inhabited

def Leaf.r (l : Leaf) : Bool := bitN l.pte 1
def Leaf.w (l : Leaf) : Bool := bitN l.pte 2
def Leaf.x (l : Leaf) : Bool := bitN l.pte 3
def Leaf.u (l : Leaf) : Bool := bitN l.pte 4
def Leaf.a (l : Leaf) : Bool := bitN l.pte 6
def Leaf.d (l : Leaf) : Bool := bitN l.pte 7
def Leaf.pinned (l : Leaf) : Bool := bitN l.pte 8
/-- R218: the leaf is a compressed 2 MiB page. -/
def Leaf.cmp (l : Leaf) : Bool := bitN l.pte 9 && l.log == 21

/-- A leaf entry at a level (0 is 4 KiB), checked for alignment; a 64 KiB leaf is Svnapot. A compressed 2 MiB leaf
needs 64 KiB alignment only (R218). -/
def leafAt (lvl va pte slot : Nat) : Option Leaf :=
  let ppn := fld pte 10 44
  let napot := bitN pte 63
  if lvl = 0 && napot then
    if ppn % 16 = 8 then
      let b := ppn / 16 * 2 ^ 16
      some ⟨b + va % 2 ^ 16, 16, b, pte, slot⟩
    else none
  else if napot then none
  else
    let lg := 12 + 9 * lvl
    let b := ppn * 4096
    if bitN pte 9 && lvl == 1 then
      if ppn % 16 = 0 then some ⟨b + va % 2 ^ lg, lg, b, pte, slot⟩ else none
    else if ppn % 2 ^ (9 * lvl) = 0 then some ⟨b + va % 2 ^ lg, lg, b, pte, slot⟩ else none

/-- The levels of a Sv48 walk, from the table at `table`. -/
def walkFrom (s : State) (va : Nat) : Nat → Nat → Option Leaf
  | lvl, table =>
    match lvl with
    | 0 =>
      let slot := table + 8 * fld va 12 9
      let pte := s.num slot 8
      if !bitN pte 0 || (!bitN pte 1 && bitN pte 2) || !(bitN pte 1 || bitN pte 3) then none else leafAt 0 va pte slot
    | l + 1 =>
      let slot := table + 8 * fld va (12 + 9 * (l + 1)) 9
      let pte := s.num slot 8
      if !bitN pte 0 || (!bitN pte 1 && bitN pte 2) then none
      else if bitN pte 1 || bitN pte 3 then leafAt (l + 1) va pte slot
      else walkFrom s va l (fld pte 10 44 * 4096)

/-- A virtual address of 64 bits in canonical Sv48 form. -/
def canonical (va : Nat) : Bool :=
  decide (va < 2 ^ 64) && (fld va 47 17 == 0 || fld va 47 17 == 2 ^ 17 - 1)

/-- R191, R270: an address that a leaf may name: panel memory that exists, the same on a peer panel (spaces 0x100 to 0x13F),
host memory behind a bridge. -/
def paPresent (a : Nat) : Bool :=
  if paSpace a = 0 then paExists a
  else (paPeer a && (offStack (paOff a) || offLagoon (paOff a))) || paHost a

/-- The leaf of tenant `t` for a virtual address, of 4 KiB, 64 KiB, 2 MiB or 1 GiB (R271), present on existing memory or in a space of R270. R191: a leaf
that names a reserved isle or offset is non-present, and so is the part of a large page that reaches one. -/
def State.walk (s : State) (t va : Nat) : Option Leaf :=
  match walkFrom s (va % 2 ^ 48) 3 (nth 0 s.ptRoot t) with
  | some l => if !paPresent l.pa || decide (30 < l.log) then none else some l
  | none => none

/-! ## Taking an exception: segments (R394 to R400) -/

/-- A fault record with nothing filled in. -/
def Rec.blank : Rec :=
  { kind := 0, cause := 0, cont := false, pois := false, frz := true, pt := 0, seg := 0, vs := 0xFFFF, elem := 0x1F,
    slot := 0x3F, ord := 0, argix := 0, lmask := 0, flags := 0, chain := 0, sz := 0, fck := 0, d0 := 0, d1 := 0,
    addr := [], at_ := 0, view := [], port := 0 }

/-- R397: whether two records are of one combination of slot or port, kind and cause. -/
def Rec.same (a b : Rec) : Bool :=
  a.kind == b.kind && a.cause == b.cause && a.vs == b.vs && a.elem == b.elem && a.slot == b.slot && a.port == b.port

/-- R398, R399: a fault detected in a segment. Detection starts the freeze, whose stop falls eight cycles later; a
second detection of the same combination posts nothing, and a stopped segment detects nothing. -/
def Seg.detect (g : Seg) (r : Rec) : Seg :=
  if g.stopped then g
  else if g.recs.any (Rec.same r) then g
  else { g with recs := g.recs ++ [{ r with at_ := g.sck, seg := g.id.toNat }]
                frz := some (g.frz.getD g.sck) }

/-- R394: the argument index of an invocation of a run. -/
def Seg.argix (g : Seg) (run ord : Nat) : Nat :=
  match g.runs.find? (fun r => r.no == run) with
  | some r => r.first + ord
  | none => ord

/-- R22: the control wires of a segment low, as a context that is put back has them: no context holds them. -/
def Core.lowered (c : Core) : Core := { c with stripes := c.stripes.map fun st => { st with wire := false } }
def Seg.lowered (g : Seg) : Seg := { g with live := g.live.lowered, start := g.start.lowered }

/-- The virtual stripe and run that a physical stripe serves. -/
def Seg.vsAt (g : Seg) (p : Nat) : Nat := (g.start.stripe p).vs
def Seg.runAt (g : Seg) (p : Nat) : Nat := (g.start.stripe p).run

/-- The record of a fault of the firing rule: its virtual stripe, element, slot and invocation. -/
def State.ruleRec (s : State) (kind cause : Nat) : Rec :=
  let g := s.segD s.cur.n s.cur.k
  { Rec.blank with
    kind := kind, cause := cause, pt := s.pt, vs := g.vsAt s.cur.p, elem := s.cur.e, slot := s.cur.j,
    ord := s.curElem.ord.toNat, argix := g.argix s.curElem.erun s.curElem.ord.toNat }

/-- Taking a fault of the firing rule. -/
def State.faultRule (s : State) (r : Rec) : State := s.onCurSeg fun g => g.detect r

/-! ## Taking an exception: harts (R367, R372, log 7) -/

/-- The handler address of a trap vector. -/
def vecBase (v : W64) : W64 := v &&& ~~~(3 : W64)

/-- The handler address of an interrupt: in vectored mode each cause has its own. -/
def vecAt (v : W64) (cause : Nat) : W64 := if tb v 0 then vecBase v + BitVec.ofNat 64 (4 * cause) else vecBase v

/-- RISC-V trap entry; a FUTLD that waits is restarted after it (R380). To S-mode when the cause is delegated and the hart is not in M-mode. -/
def Hart.trap (h : Hart) (cause tval : Nat) : Hart :=
  if h.mode != .m && tb h.medeleg cause then
    { h with sepc := h.pc, scause := BitVec.ofNat 64 cause, stval := BitVec.ofNat 64 tval, spp := h.mode, spie := h.sie,
             sie := false, mode := .s, pc := vecBase h.stvec, resv := none,
             futld := none }
  else
    { h with mepc := h.pc, mcause := BitVec.ofNat 64 cause, mtval := BitVec.ofNat 64 tval, mpp := h.mode, mpie := h.mie,
             mie := false, mode := .m, pc := vecBase h.mtvec, resv := none,
             futld := none }

/-- RISC-V SRET. -/
def Hart.sret (h : Hart) : Hart :=
  { h with pc := h.sepc, sie := h.spie, spie := true, mode := if h.spp = .u then .u else .s, spp := .u, mprv := false }

/-- RISC-V MRET. -/
def Hart.mret (h : Hart) : Hart :=
  { h with pc := h.mepc, mie := h.mpie, mpie := true, mode := h.mpp, mpp := .u, mprv := h.mprv && h.mpp == .m }

/-- RISC-V: an interrupt taken, in S-mode when it is delegated; SFTIP is supervisor interrupt 24 (R371, log 7). -/
def Hart.interrupt (h : Hart) (cause : Nat) : Hart :=
  if h.mode != .m && tb h.mideleg cause then
    { h with sepc := h.pc, scause := BitVec.ofNat 64 (2 ^ 63 + cause), stval := 0, spp := h.mode, spie := h.sie, sie := false,
             mode := .s, pc := vecAt h.stvec cause, resv := none, futld := none }
  else
    { h with mepc := h.pc, mcause := BitVec.ofNat 64 (2 ^ 63 + cause), mtval := 0, mpp := h.mode, mpie := h.mie, mie := false,
             mode := .m, pc := vecAt h.mtvec cause, resv := none, futld := none }

/-- R372, R380: a user-level trap: cause, value and the address to return to. -/
def Hart.userTrap (h : Hart) (cause epc tval : W64) : Hart :=
  { h with ufepc := epc, ufcause := cause, uftval := tval, pie := h.ie, ie := false, pc := h.uftvec }

/-- R372: the return that writing UFSTATUS.RET makes. -/
def Hart.userRet (h : Hart) : Hart := { h with ie := h.pie, pie := false, pc := h.ufepc }

/-- A trap of the hart of the step. -/
def State.hartTrap (s : State) (cause tval : Nat) : State := s.onHart s.cur.n s.cur.e fun h => h.trap cause tval

end Sys2Proof.Machine
end

