-- ==== Sys2Proof/Machine/Flags.lean ====
section
/-! DEFINITION. Number formats, rounding and the six flags (R132 to R156): every format decoded to an exact value,
the exact result of each operation as a binary fraction with a sticky bit, and the one rounding into a format. -/

namespace Sys2Proof.Machine

/-! ## Values -/

/-- A decoded floating-point value: a NaN (signalling or quiet, with sign and payload), an infinity, or
`(-1)^neg * m * 2^e`. -/
inductive FVal where
  | nan (sig neg : Bool) (pay : Nat)
  | inf (neg : Bool)
  | fin (neg : Bool) (m : Nat) (e : Int)
  deriving DecidableEq, Repr

/-- The magnitude of an exact result: `m * 2^e`, or strictly between `m * 2^e` and `(m + 1) * 2^e` when `st` is set.
A magnitude with `st` set carries more bits than any rounding looks at. -/
structure Mag where
  m : Nat
  e : Int
  st : Bool
  deriving DecidableEq, Repr

/-- What the special codes of a format are (R132): all-ones exponents, the one E4M3 NaN, or none. -/
inductive Special where
  | ieee | e4m3 | none
  deriving DecidableEq, Repr

/-- R132: a float format: stored significand bits, exponent bits, bias. -/
structure Format where
  mb : Nat
  eb : Nat
  bias : Nat
  sp : Special
  deriving DecidableEq, Repr

/-- R132: the formats by type code. Codes that are no float read as FP32 and are never asked for. -/
def formatOf (code : Nat) : Format :=
  match code with
  | 2 => ⟨7, 8, 127, .ieee⟩
  | 3 => ⟨10, 5, 15, .ieee⟩
  | 4 => ⟨3, 4, 7, .e4m3⟩
  | 5 => ⟨2, 5, 15, .ieee⟩
  | 6 => ⟨3, 2, 1, .none⟩
  | 7 => ⟨2, 3, 3, .none⟩
  | 8 => ⟨1, 2, 1, .none⟩
  | _ => ⟨23, 8, 127, .ieee⟩

def fp32 : Format := formatOf 1

def Format.width (f : Format) : Nat := 1 + f.eb + f.mb
def Format.emin (f : Format) : Int := 1 - (f.bias : Int)
/-- The exponent code of the greatest finite value, and its significand with the leading one. -/
def Format.maxE (f : Format) : Nat := match f.sp with | .ieee => 2 ^ f.eb - 2 | _ => 2 ^ f.eb - 1
def Format.maxM (f : Format) : Nat := match f.sp with | .e4m3 => 2 ^ (f.mb + 1) - 2 | _ => 2 ^ (f.mb + 1) - 1
/-- The bits of the greatest finite value, without sign. -/
def Format.maxBits (f : Format) : Nat := f.maxE * 2 ^ f.mb + (f.maxM - 2 ^ f.mb)
def Format.infBits (f : Format) : Nat := (2 ^ f.eb - 1) * 2 ^ f.mb
/-- R132: the default NaN, sign 0. -/
def Format.nanBits (f : Format) : Nat :=
  match f.sp with
  | .ieee => f.infBits + 2 ^ (f.mb - 1)
  | .e4m3 => f.infBits + (2 ^ f.mb - 1)
  | .none => 0
def Format.signBit (f : Format) (neg : Bool) : Nat := if neg then 2 ^ (f.eb + f.mb) else 0

/-- R132, R133: the value of a code. -/
def Format.decode (f : Format) (w : Nat) : FVal :=
  let neg := bitN w (f.eb + f.mb)
  let e := fld w f.mb f.eb
  let m := w % 2 ^ f.mb
  let special := match f.sp with
    | .ieee => e == 2 ^ f.eb - 1
    | .e4m3 => e == 2 ^ f.eb - 1 && m == 2 ^ f.mb - 1
    | .none => false
  if special then
    match f.sp with
    | .ieee => if m = 0 then .inf neg else .nan (!bitN m (f.mb - 1)) neg m
    | _ => .nan false neg m
  else if e = 0 then .fin neg m (f.emin - f.mb)
  else .fin neg (2 ^ f.mb + m) ((e : Int) - f.bias - f.mb)

/-! ## Rounding -/

/-- R140: flag bits. -/
def flNV : Nat := 1
def flDZ : Nat := 2
def flOF : Nat := 4
def flUF : Nat := 8
def flNX : Nat := 16
def flSAT : Nat := 32

/-- A result: its bits and the flags raised. -/
abbrev FRes := Nat × Nat

/-- R45, R136, R139: rounding mode (0 RNE, 1 RTZ, 2 RUP, 3 RDN, 4 SR; 5 is RMM, which only the harts have), flush, and the lane's SR
number. -/
structure RMode where
  frm : Nat
  ftz : Bool
  rnd : Nat
  deriving DecidableEq, Repr

/-- Round to nearest, no flush: the matrix fold, the atomics and the collective engine. -/
def rmRNE : RMode := ⟨0, false, 0⟩

/-- The integer part and the fraction of `x / 2^ue`: `(n, r, sh)` stands for `n + r / 2^sh`. -/
def Mag.split (x : Mag) (ue : Int) : Nat × Nat × Nat :=
  if ue ≤ x.e then (x.m * 2 ^ (x.e - ue).toNat, 0, 0)
  else
    let sh := (ue - x.e).toNat
    (x.m / 2 ^ sh, x.m % 2 ^ sh, sh)

/-- R136: the increment that the mode adds to `n`. -/
def roundUp (rm : RMode) (neg : Bool) (n r sh : Nat) (st : Bool) : Bool :=
  let pos := r != 0 || st
  match rm.frm with
  | 0 => decide (2 * r > 2 ^ sh) || (2 * r == 2 ^ sh && sh != 0 && (st || n % 2 == 1))
  | 2 => pos && !neg
  | 3 => pos && neg
  | 4 => decide (r * 2 ^ 16 / 2 ^ sh + rm.rnd ≥ 2 ^ 16)
  | 5 => decide (2 ^ sh ≤ 2 * r)
  | _ => false

/-- R138: whether overflow goes to infinity in the mode. -/
def towardInf (frm : Nat) (neg : Bool) : Bool :=
  match frm with
  | 1 => false
  | 2 => !neg
  | 3 => neg
  | _ => true

/-- R138. -/
def overflowResult (f : Format) (frm : Nat) (neg sat : Bool) : FRes :=
  let s := f.signBit neg
  if sat || f.sp == .none then (s + f.maxBits, flSAT ||| flNX)
  else if towardInf frm neg then (s + (if f.sp == .e4m3 then f.nanBits else f.infBits), flOF ||| flNX)
  else (s + f.maxBits, flOF ||| flNX)

/-- The code of `n * 2^ue`, where `n < 2^(mb + 1)` or `n = 2^(mb + 1)`, and `ue` is at least that of the subnormals. -/
def Format.encode (f : Format) (n : Nat) (ue : Int) : Nat :=
  let (n, ue) := if n = 2 ^ (f.mb + 1) then (2 ^ f.mb, ue + 1) else (n, ue)
  if n < 2 ^ f.mb then n else (ue + f.mb + f.bias).toNat * 2 ^ f.mb + (n - 2 ^ f.mb)

/-- R136: rounding an exact non-NaN finite value into a format. -/
def roundFmt (f : Format) (rm : RMode) (sat : Bool) (neg : Bool) (x : Mag) : FRes :=
  if x.m = 0 then (f.signBit neg, 0)
  else
    let lg := (Nat.log2 x.m : Int) + x.e
    let ue := max lg f.emin - f.mb
    let (n, r, sh) := x.split ue
    let inexact := r != 0 || x.st
    let n := if roundUp rm neg n r sh x.st then n + 1 else n
    let tiny := decide (lg < f.emin)
    if rm.ftz && f == fp32 && tiny then (f.signBit neg, flUF ||| flNX)
    else if n * 2 ^ (ue - (f.emin - f.mb)).toNat > f.maxM * 2 ^ (f.maxE - 1) then overflowResult f rm.frm neg sat
    else (f.signBit neg + f.encode n ue,
      (if inexact then flNX else 0) ||| (if tiny && inexact then flUF else 0))

/-- R137: rounding into an integer between two bounds. -/
def roundInt (rm : RMode) (lo hi : Int) (neg : Bool) (x : Mag) : Int × Nat :=
  let (n, r, sh) := x.split 0
  let inexact := r != 0 || x.st
  let n := if roundUp rm neg n r sh x.st then n + 1 else n
  let v : Int := if neg then -(n : Int) else n
  let nx := if inexact then flNX else 0
  if v < lo then (lo, nx ||| flSAT) else if v > hi then (hi, nx ||| flSAT) else (v, nx)

/-! ## Square roots and the transcendental functions (log 13) -/

/-- The integer square root, one bit at a time from bit `k - 1` down. -/
def isqrtFrom (n : Nat) : Nat → Nat → Nat
  | 0, r => r
  | k + 1, r => let r' := r + 2 ^ k; if r' * r' ≤ n then isqrtFrom n k r' else isqrtFrom n k r
def isqrt (n : Nat) : Nat := isqrtFrom n (Nat.log2 n / 2 + 1) 0

/-- `a / b` with at least 64 bits of quotient. -/
def divMag (am : Nat) (ae : Int) (bm : Nat) (be : Int) : Mag :=
  let k := 64 + Nat.log2 bm
  ⟨am * 2 ^ k / bm, ae - be - k, am * 2 ^ k % bm != 0⟩

/-- The square root of `m * 2^e`. -/
def sqrtMag (m : Nat) (e : Int) : Mag :=
  let odd := e % 2 == 1
  let m := if odd then 2 * m else m
  let e := if odd then e - 1 else e
  let q := m * 2 ^ 128
  let r := isqrt q
  ⟨r, (e - 128) / 2, r * r != q⟩

/-- The reciprocal square root of `m * 2^e`. -/
def rsqrtMag (m : Nat) (e : Int) : Mag :=
  let odd := e % 2 == 1
  let m := if odd then 2 * m else m
  let e := if odd then e - 1 else e
  let k := 96 + Nat.log2 m
  let r := isqrt (2 ^ (2 * k) / m)
  ⟨r, -(e / 2) - k, r * r * m != 2 ^ (2 * k)⟩

/-- `2^(f / 2^bits)` with 256 fraction bits: the product of the repeated square roots of 2 that the bits of `f`
select, most significant first. -/
def exp2Frac (f : Nat) : Nat → Nat → Nat → Nat
  | 0, _, acc => acc
  | k + 1, root, acc =>
    let root := isqrt (root * 2 ^ 256)
    exp2Frac f k root (if bitN f k then acc * root / 2 ^ 256 else acc)

/-- `2^x` for `x = (-1)^neg * m * 2^e`, not an integer or out of range. -/
def exp2Mag (neg : Bool) (m : Nat) (e : Int) : Mag :=
  let lg := (Nat.log2 m : Int) + e
  if lg ≥ 8 then (if neg then ⟨1, -2000, true⟩ else ⟨2 ^ 64, 2000, true⟩)
  else if 0 ≤ e then
    let v := m * 2 ^ e.toNat
    if neg then ⟨1, -(v : Int), false⟩ else ⟨1, v, false⟩
  else
    let k := (-e).toNat
    let x : Int := if neg then -(m : Int) else m
    let n := x / 2 ^ k
    let f := (x % 2 ^ k).toNat
    if f = 0 then ⟨1, n, false⟩
    else ⟨exp2Frac f k (2 * 2 ^ 256) (2 ^ 256) / 2 ^ 40, n - 216, true⟩

/-- The fraction bits of `log2 y` for `1 ≤ y < 2` with 512 fraction bits, by repeated squaring. -/
def log2Bits : Nat → Nat → Nat → Nat
  | 0, _, acc => acc
  | k + 1, y, acc =>
    let y := y * y / 2 ^ 512
    if y ≥ 2 ^ 513 then log2Bits k (y / 2) (2 * acc + 1) else log2Bits k y (2 * acc)

/-- `log2 (m * 2^e)` as a sign and a magnitude. -/
def log2Mag (m : Nat) (e : Int) : Bool × Mag :=
  let lg := Nat.log2 m
  let k := (lg : Int) + e
  if m = 2 ^ lg then (decide (k < 0), ⟨k.natAbs, 0, false⟩)
  else
    let fr := log2Bits 160 (m * 2 ^ 512 / 2 ^ lg) 0
    if 0 ≤ k then (false, ⟨k.toNat * 2 ^ 160 + fr, -160, true⟩)
    else (true, ⟨k.natAbs * 2 ^ 160 - fr - 1, -160, true⟩)

/-- The Taylor sum of `e^y` in 640-bit fixed point. -/
def expSeries (y : Nat) : Nat → Nat → Nat → Nat → Nat
  | 0, _, _, acc => acc
  | k + 1, i, term, acc =>
    let term := term * y / 2 ^ 640 / i
    expSeries y k (i + 1) term (acc + term)

/-- Repeated squaring in 640-bit fixed point. -/
def sqTimes : Nat → Nat → Nat
  | 0, y => y
  | k + 1, y => sqTimes k (y * y / 2 ^ 640)

/-- `e^(m * 2^e)` in 640-bit fixed point, for a value below 2^9. -/
def expFix (m : Nat) (e : Int) : Nat :=
  let y := if 0 ≤ e + 620 then m * 2 ^ (e + 620).toNat else m / 2 ^ (-(e + 620)).toNat
  sqTimes 20 (expSeries y 60 1 (2 ^ 640) (2 ^ 640))

/-- `tanh` of a positive value. -/
def tanhMag (m : Nat) (e : Int) : Mag :=
  let lg := (Nat.log2 m : Int) + e
  if lg < -30 then ⟨m * 2 ^ 50 - 1, e - 50, true⟩
  else if lg ≥ 6 then ⟨2 ^ 60 - 1, -60, true⟩
  else
    let x := expFix m (e + 1)
    ⟨(x - 2 ^ 640) * 2 ^ 256 / (x + 2 ^ 640), -256, true⟩

/-- The logistic sigmoid of a non-zero value. -/
def sigmMag (neg : Bool) (m : Nat) (e : Int) : Mag :=
  let lg := (Nat.log2 m : Int) + e
  if lg < -40 then (if neg then ⟨2 ^ 60 - 1, -61, true⟩ else ⟨2 ^ 60, -61, true⟩)
  else if lg ≥ 8 then (if neg then ⟨1, -2000, true⟩ else ⟨2 ^ 60 - 1, -60, true⟩)
  else
    let x := expFix m e
    if neg then ⟨2 ^ 640 * 2 ^ 512 / (2 ^ 640 + x), -512, true⟩ else ⟨x * 2 ^ 256 / (x + 2 ^ 640), -256, true⟩

/-! ## FP32 operations (R142, R146 to R151) -/

/-- R142: an FP32 operand, subnormals read as zeros of their sign under flush. -/
def rd32 (ftz : Bool) (w : Nat) : FVal :=
  match fp32.decode w with
  | .fin neg m e => if ftz && decide (m < 2 ^ 23) then .fin neg 0 e else .fin neg m e
  | v => v

def FVal.isNan : FVal → Bool
  | .nan .. => true
  | _ => false
def FVal.isSnan : FVal → Bool
  | .nan sig _ _ => sig
  | _ => false

def nan32 : Nat := 0x7FC00000
def inf32 (neg : Bool) : Nat := if neg then 0xFF800000 else 0x7F800000
def zero32 (neg : Bool) : Nat := if neg then 0x80000000 else 0
def one32 (neg : Bool) : Nat := if neg then 0xBF800000 else 0x3F800000

/-- An invalid operation (R146). -/
def invalid32 : FRes := (nan32, flNV)

/-- R146: the default NaN for NaN operands, with NV when one is signalling. -/
def nanRes (vs : List FVal) : FRes := (nan32, if vs.any FVal.isSnan then flNV else 0)

/-- The FP32 rounding of an exact signed value. -/
def round32 (rm : RMode) (neg : Bool) (x : Mag) : FRes := roundFmt fp32 rm false neg x

/-- R136: the sign of an exact zero sum. -/
def zeroSum (rm : RMode) (na nb : Bool) : FRes :=
  (zero32 (if na = nb then na else rm.frm = 3), 0)

/-- An exact sum of two finite values, rounded. -/
def addFin (rm : RMode) (na : Bool) (ma : Nat) (ea : Int) (nb : Bool) (mb : Nat) (eb : Int) : FRes :=
  let e := min ea eb
  let sg := fun (neg : Bool) (m : Nat) (ex : Int) => (if neg then -1 else 1) * ((m * 2 ^ (ex - e).toNat : Nat) : Int)
  let t := sg na ma ea + sg nb mb eb
  if t = 0 then (if ma = 0 then zeroSum rm na nb else (zero32 (rm.frm = 3), 0))
  else round32 rm (decide (t < 0)) ⟨t.natAbs, e, false⟩

def FVal.neg : FVal → FVal
  | .nan s n p => .nan s n p
  | .inf n => .inf (!n)
  | .fin n m e => .fin (!n) m e

/-- FADD on decoded values. -/
def addV (rm : RMode) (a b : FVal) : FRes :=
  match a, b with
  | .inf na, .inf nb => if na = nb then (inf32 na, 0) else invalid32
  | .inf na, .fin .. => (inf32 na, 0)
  | .fin .., .inf nb => (inf32 nb, 0)
  | .fin na ma ea, .fin nb mb eb => addFin rm na ma ea nb mb eb
  | x, y => nanRes [x, y]

/-- FMUL on decoded values. -/
def mulV (rm : RMode) (a b : FVal) : FRes :=
  match a, b with
  | .inf na, .inf nb => (inf32 (na != nb), 0)
  | .inf na, .fin nb mb _ => if mb = 0 then invalid32 else (inf32 (na != nb), 0)
  | .fin na ma _, .inf nb => if ma = 0 then invalid32 else (inf32 (na != nb), 0)
  | .fin na ma ea, .fin nb mb eb => round32 rm (na != nb) ⟨ma * mb, ea + eb, false⟩
  | x, y => nanRes [x, y]

/-- `a * b + d`, fused. -/
def fmaV (rm : RMode) (a b d : FVal) : FRes :=
  match a, b with
  | .nan .., _ => nanRes [a, b, d]
  | _, .nan .. => nanRes [a, b, d]
  | .inf na, .inf nb => infPlus (na != nb)
  | .inf na, .fin nb mb _ => if mb = 0 then invalid32 else infPlus (na != nb)
  | .fin na ma _, .inf nb => if ma = 0 then invalid32 else infPlus (na != nb)
  | .fin na ma ea, .fin nb mb eb =>
    match d with
    | .nan .. => nanRes [d]
    | .inf nd => (inf32 nd, 0)
    | .fin nd md ed => addFin rm (na != nb) (ma * mb) (ea + eb) nd md ed
where
  infPlus (n : Bool) : FRes :=
    match d with
    | .nan .. => nanRes [d]
    | .inf nd => if nd = n then (inf32 n, 0) else invalid32
    | .fin .. => (inf32 n, 0)

/-- FDIV on decoded values. -/
def divV (rm : RMode) (a b : FVal) : FRes :=
  match a, b with
  | .inf _, .inf _ => invalid32
  | .inf na, .fin nb _ _ => (inf32 (na != nb), 0)
  | .fin na _ _, .inf nb => (zero32 (na != nb), 0)
  | .fin na ma ea, .fin nb mb eb =>
    if mb = 0 then (if ma = 0 then invalid32 else (inf32 (na != nb), flDZ))
    else if ma = 0 then (zero32 (na != nb), 0)
    else round32 rm (na != nb) (divMag ma ea mb eb)
  | x, y => nanRes [x, y]

def f32Add (rm : RMode) (a b : Nat) : FRes := addV rm (rd32 rm.ftz a) (rd32 rm.ftz b)
def f32Sub (rm : RMode) (a b : Nat) : FRes := addV rm (rd32 rm.ftz a) (rd32 rm.ftz b).neg
def f32Mul (rm : RMode) (a b : Nat) : FRes := mulV rm (rd32 rm.ftz a) (rd32 rm.ftz b)
def f32Fma (rm : RMode) (a b d : Nat) : FRes := fmaV rm (rd32 rm.ftz a) (rd32 rm.ftz b) (rd32 rm.ftz d)
def f32Fms (rm : RMode) (a b d : Nat) : FRes := fmaV rm (rd32 rm.ftz a) (rd32 rm.ftz b) (rd32 rm.ftz d).neg
def f32Fnma (rm : RMode) (a b d : Nat) : FRes := fmaV rm (rd32 rm.ftz a).neg (rd32 rm.ftz b) (rd32 rm.ftz d)
def f32Div (rm : RMode) (a b : Nat) : FRes := divV rm (rd32 rm.ftz a) (rd32 rm.ftz b)

/-- R146: the square root. -/
def f32Sqrt (rm : RMode) (a : Nat) : FRes :=
  match rd32 rm.ftz a with
  | .inf n => if n then invalid32 else (inf32 false, 0)
  | .fin n m e => if m = 0 then (zero32 n, 0) else if n then invalid32 else round32 rm false (sqrtMag m e)
  | v => nanRes [v]

/-- R146: the reciprocal. -/
def f32Rcp (rm : RMode) (a : Nat) : FRes :=
  match rd32 rm.ftz a with
  | .inf n => (zero32 n, 0)
  | .fin n m e => if m = 0 then (inf32 n, flDZ) else round32 rm n (divMag 1 0 m e)
  | v => nanRes [v]

/-- R146: the reciprocal square root. -/
def f32Rsq (rm : RMode) (a : Nat) : FRes :=
  match rd32 rm.ftz a with
  | .inf n => if n then invalid32 else (zero32 false, 0)
  | .fin n m e => if m = 0 then (inf32 n, flDZ) else if n then invalid32 else round32 rm false (rsqrtMag m e)
  | v => nanRes [v]

/-- R146: 2 to the power. -/
def f32Exp2 (rm : RMode) (a : Nat) : FRes :=
  match rd32 rm.ftz a with
  | .inf n => if n then (zero32 false, 0) else (inf32 false, 0)
  | .fin n m e => if m = 0 then (one32 false, 0) else round32 rm false (exp2Mag n m e)
  | v => nanRes [v]

/-- R146: the base-2 logarithm. -/
def f32Log2 (rm : RMode) (a : Nat) : FRes :=
  match rd32 rm.ftz a with
  | .inf n => if n then invalid32 else (inf32 false, 0)
  | .fin n m e =>
    if m = 0 then (inf32 true, flDZ) else if n then invalid32
    else let (neg, x) := log2Mag m e; round32 rm neg x
  | v => nanRes [v]

/-- R146: the hyperbolic tangent. -/
def f32Tanh (rm : RMode) (a : Nat) : FRes :=
  match rd32 rm.ftz a with
  | .inf n => (one32 n, 0)
  | .fin n m e => if m = 0 then (zero32 n, 0) else round32 rm n (tanhMag m e)
  | v => nanRes [v]

/-- R146: the logistic sigmoid. -/
def f32Sigm (rm : RMode) (a : Nat) : FRes :=
  match rd32 rm.ftz a with
  | .inf n => (if n then zero32 false else one32 false, 0)
  | .fin n m e => if m = 0 then (0x3F000000, 0) else round32 rm false (sigmMag n m e)
  | v => nanRes [v]

/-- R146: scaling by a power of two; an exponent beyond 2,000 either way gives what 2,000 gives. -/
def f32Scale (rm : RMode) (a b : Nat) : FRes :=
  match rd32 rm.ftz a with
  | .inf n => (inf32 n, 0)
  | .fin n m e =>
    if m = 0 then (zero32 n, 0)
    else round32 rm n ⟨m, e + max (-2000) (min 2000 (sextN 32 b)), false⟩
  | v => nanRes [v]

/-- The order of two finite or infinite values: -1, 0 or 1. -/
def cmpV (a b : FVal) : Int :=
  let key := fun (v : FVal) => match v with
    | .fin n m e => (if n then (-1 : Int) else 1) * (m * 2 ^ (e + 200).toNat : Nat)
    | .inf n => (if n then (-1 : Int) else 1) * (2 ^ 400 : Nat)
    | .nan .. => 0
  if key a < key b then -1 else if key a = key b then 0 else 1

/-- The bits of an operand value after flush. -/
def flushed (ftz : Bool) (w : Nat) : Nat :=
  match fp32.decode w with
  | .fin n m _ => if ftz && decide (m < 2 ^ 23) then zero32 n else w
  | _ => w

/-- R147: minimumNumber and maximumNumber, -0 below +0. -/
def f32MinMax (isMax : Bool) (ftz : Bool) (a b : Nat) : FRes :=
  let va := rd32 ftz a
  let vb := rd32 ftz b
  let fl := if va.isSnan || vb.isSnan then flNV else 0
  if va.isNan then (if vb.isNan then nan32 else flushed ftz b, fl)
  else if vb.isNan then (flushed ftz a, fl)
  else
    let c := cmpV va vb
    let less := if c = 0 then bitN a 31 else decide (c < 0)
    (flushed ftz (if less != isMax then a else b), fl)

/-- R149: the compares. -/
def f32CmpEq (ftz : Bool) (a b : Nat) : Bool × Nat :=
  let va := rd32 ftz a
  let vb := rd32 ftz b
  if va.isNan || vb.isNan then (false, if va.isSnan || vb.isSnan then flNV else 0) else (cmpV va vb == 0, 0)
def f32CmpLt (ftz : Bool) (a b : Nat) : Bool × Nat :=
  let va := rd32 ftz a
  let vb := rd32 ftz b
  if va.isNan || vb.isNan then (false, flNV) else (decide (cmpV va vb < 0), 0)
def f32CmpLe (ftz : Bool) (a b : Nat) : Bool × Nat :=
  let va := rd32 ftz a
  let vb := rd32 ftz b
  if va.isNan || vb.isNan then (false, flNV) else (decide (cmpV va vb ≤ 0), 0)
def f32CmpUn (ftz : Bool) (a b : Nat) : Bool × Nat :=
  let va := rd32 ftz a
  let vb := rd32 ftz b
  (va.isNan || vb.isNan, if va.isSnan || vb.isSnan then flNV else 0)

/-- R150: the class mask. -/
def f32Class (a : Nat) : Nat :=
  match fp32.decode a with
  | .inf n => if n then 1 else 128
  | .nan sig _ _ => if sig then 256 else 512
  | .fin n m _ =>
    if m = 0 then (if n then 8 else 16)
    else if m < 2 ^ 23 then (if n then 4 else 32)
    else if n then 2 else 64

/-- R151: rounding to an integral value. -/
def f32Rnd (rm : RMode) (a : Nat) : FRes :=
  match rd32 rm.ftz a with
  | .inf n => (inf32 n, 0)
  | .fin n m e =>
    if m = 0 then (zero32 n, 0)
    else if (Nat.log2 m : Int) + e ≥ 23 then (a, 0)
    else
      let x : Mag := ⟨m, e, false⟩
      let (k, r, sh) := x.split 0
      let k := if roundUp rm n k r sh false then k + 1 else k
      ((roundFmt fp32 rmRNE false n ⟨k, 0, false⟩).1, if r != 0 then flNX else 0)
  | v => nanRes [v]

/-! ## Conversions (R152 to R156) -/

/-- R134: the width of a type's value in bits. -/
def typeWidth (code : Nat) : Nat :=
  if code = 2 || code = 3 || code = 12 then 16
  else if code = 4 || code = 5 || code = 9 || code = 10 || code = 11 then 8
  else if code = 6 || code = 7 then 6
  else if code = 8 then 4
  else 32

/-- The bounds of an integer type (R132). -/
def intBounds (code : Nat) : Int × Int :=
  match code with
  | 10 => (-128, 127)
  | 11 => (0, 255)
  | 12 => (-32768, 32767)
  | 13 => (-2147483648, 2147483647)
  | _ => (0, 4294967295)

/-- R142: a subnormal FP32 result of an exact widening, flushed when asked. -/
def flushRes (rm : RMode) (r : FRes) : FRes :=
  match fp32.decode r.1 with
  | .fin n m _ => if rm.ftz && m != 0 && decide (m < 2 ^ 23) then (zero32 n, r.2 ||| flUF ||| flNX) else r
  | _ => r

/-- R152: one value of a type to FP32. -/
def toFp32 (rm : RMode) (code w : Nat) : FRes :=
  let w := w % 2 ^ typeWidth code
  if code = 9 then
    flushRes rm (if w = 255 then (nan32, 0) else if w = 0 then (0x00400000, 0) else (w * 2 ^ 23, 0))
  else if code ≥ 10 then
    let v : Int := if code = 11 || code = 14 then w else sextN (typeWidth code) w
    round32 rm (decide (v < 0)) ⟨v.natAbs, 0, false⟩
  else
    let f := formatOf code
    match f.decode w with
    | .nan sig n p =>
      let pay := if f.mb ≥ 7 then p * 2 ^ (23 - f.mb) % 2 ^ 22 else 0
      (0x7FC00000 + fp32.signBit n + pay, if f.mb ≥ 7 && sig then flNV else 0)
    | .inf n => (inf32 n, 0)
    | .fin n m e => flushRes rm ((roundFmt fp32 rmRNE false n ⟨m, e, false⟩).1, 0)

/-- R152: an FP32 value, scaled by a power of two (R153), to a float type. An infinity gives E4M3 the default NaN (R133), a NaN the
default NaN with its sign. -/
def toFloat (rm : RMode) (f : Format) (sat : Bool) (v : FVal) (k : Int) : FRes :=
  match v with
  | .nan sig n _ =>
    if f.sp == .none then (0, flNV) else (f.signBit n + f.nanBits, if sig then flNV else 0)
  | .inf n =>
    if sat || f.sp == .none then (f.signBit n + f.maxBits, flSAT)
    else if f.sp == .e4m3 then (f.nanBits, flNV)
    else (f.signBit n + f.infBits, 0)
  | .fin n m e => roundFmt f rm sat n ⟨m, e + k, false⟩

/-- R152: FP32 to E8M0. -/
def toE8m0 (sat : Bool) (w : Nat) : FRes :=
  match fp32.decode w with
  | .nan sig _ _ => (255, if sig then flNV else 0)
  | .inf _ => if sat then (254, flSAT) else (255, flOF)
  | .fin .. => (fld w 23 8, 0)

/-- R137: FP32 to an integer type, as the low bits of its width. -/
def toInt (rm : RMode) (code : Nat) (v : FVal) : Int × Nat :=
  let (lo, hi) := intBounds code
  match v with
  | .nan .. => (0, flNV)
  | .inf n => (if n then lo else hi, flSAT)
  | .fin n m e => roundInt rm lo hi n ⟨m, e, false⟩

/-- R152, R155: FP32 to a type, as the bits of the type's width. -/
def fromFp32 (rm : RMode) (code : Nat) (sat : Bool) (w : Nat) : FRes :=
  if code = 9 then toE8m0 sat w
  else if code ≥ 10 then
    let (v, fl) := toInt rm code (rd32 rm.ftz w)
    (modN (typeWidth code) v, fl)
  else toFloat rm (formatOf code) sat (rd32 rm.ftz w) 0

/-- R152: the lane that a converted value makes: integers of 8 and 16 bits sign-extended, others zero-extended. -/
def widenLane (code w : Nat) : Nat :=
  if code = 10 || code = 12 then modN 32 (sextN (typeWidth code) w) else w

/-- CVT of one lane (R152). -/
def cvtLane (rm : RMode) (from_ to_ : Nat) (sat : Bool) (w : Nat) : FRes :=
  if from_ = 1 then
    let (v, fl) := fromFp32 rm to_ sat w
    (widenLane to_ v, fl)
  else toFp32 rm from_ w

/-- One value of CVTMX (R153). -/
def cvtmxLane (rm : RMode) (to_ : Nat) (sat : Bool) (x w : Nat) : FRes :=
  let f := formatOf to_
  if x = 255 then (f.nanBits, if f.sp == .none then flNV else 0)
  else toFloat rm f sat (rd32 rm.ftz w) (127 - (x : Int))

/-- One value of UNPMX (R154). -/
def unpmxLane (rm : RMode) (from_ x w : Nat) : FRes :=
  if x = 255 then (nan32, 0)
  else
    match (formatOf from_).decode w with
    | .nan .. => (nan32, 0)
    | .inf n => (inf32 n, 0)
    | .fin n m e => if m = 0 then (zero32 n, 0) else round32 rm n ⟨m, e + ((x : Int) - 127), false⟩

/-! ## Packing (R134) -/

/-- Values of `w` bits in a lane, and their places. -/
def partsPerLane (w : Nat) : Nat := if w = 6 then 4 else 32 / w

/-- Value `i` of a packed token. -/
def packedGet (w : Nat) (l : Lanes) (i : Nat) : Nat :=
  fld (l.get (i / partsPerLane w)).toNat (w * (i % partsPerLane w)) w

/-- A token from its packed values. -/
def packLanes (w : Nat) (f : Nat → Nat) : Lanes :=
  Lanes.ofFn fun k => BitVec.ofNat 32 ((List.range (partsPerLane w)).foldl
    (fun acc p => acc + f (partsPerLane w * k + p) % 2 ^ w * 2 ^ (w * p)) 0)

/-- R155: a value put into part `p` of a lane; a 6-bit type clears [31:24]. -/
def putPart (w p : Nat) (d v : Nat) : Nat :=
  let d := if w = 6 then d % 2 ^ 24 else d
  d - fld d (w * p) w * 2 ^ (w * p) + v % 2 ^ w * 2 ^ (w * p)

/-! ## Stochastic rounding (R139) -/

/-- The seed of one lane. -/
def srSeed (seed a vs el lane : Nat) : W :=
  let z : W := BitVec.ofNat 32 seed ^^^ (BitVec.ofNat 32 (seed / 2 ^ 32)).rotateLeft 7 ^^^ BitVec.ofNat 32 (a * 0x9E3779B9)
  let z := z ^^^ BitVec.ofNat 32 (vs * 2 ^ 16) ^^^ BitVec.ofNat 32 (el * 16) ^^^ BitVec.ofNat 32 lane
  let z := (z ^^^ (z >>> 16)) * 0x85EBCA6B
  let z := (z ^^^ (z >>> 13)) * 0xC2B2AE35
  let z := z ^^^ (z >>> 16)
  if z = 0 then 0x6D2B79F5 else z

/-- One advance of a generator. -/
def srNext (x : W) : W :=
  let x := x ^^^ (x <<< 13)
  let x := x ^^^ (x >>> 17)
  x ^^^ (x <<< 5)

/-- The 16 seeds of an element. -/
def srSeeds (seed a vs el : Nat) : List W := laneNums.map (srSeed seed a vs el)

end Sys2Proof.Machine
end

