-- ==== Sys2Proof/Machine/Operands.lean ====
section
/-! DEFINITION. Tokens and the operands of a rule: the check value, the value a source code gives, what every firing
does to its element, where a written token goes, and the forms of write (R29, R60 to R71, R83, R110, R111). -/

namespace Sys2Proof.Machine

/-! ## The check value (R61) -/

/-- One bit of the CRC-16 with polynomial 0x1021. -/
def crcBit (c : Nat) : Nat := if bitN c 15 then ((2 * c) ^^^ 0x1021) % 2 ^ 16 else 2 * c
def crcByte (c b : Nat) : Nat := crcBit (crcBit (crcBit (crcBit (crcBit (crcBit (crcBit (crcBit (c ^^^ (b * 256)))))))))
def crc16 (bs : List Byte) : Nat := bs.foldl (fun c b => crcByte c b.toNat) 0xFFFF

def Kind.code : Kind → Nat
  | .data => 0
  | .null => 1
  | .eoi => 2
  | .fin => 3

/-- R60: tag bits [23:0]. -/
def Token.tag24 (t : Token) : Nat :=
  t.kind.code + t.ty.toNat * 4 + t.poison.toNat * 64 + t.seqv.toNat * 128 + t.seq.toNat * 256

/-- R60: the 40-bit tag. -/
def Token.tag (t : Token) : Nat := t.tag24 + t.chk.toNat * 2 ^ 24

/-- R61: the check value of a token's content. -/
def Token.crc (t : Token) : W16 := BitVec.ofNat 16 (crc16 (laneBytes t.lanes ++ leBytes 3 t.tag24))

/-- A token with its check value computed, as each element output and stream entry does. -/
def Token.sealed (t : Token) : Token := { t with chk := t.crc }

/-- R61: the check of a consumer. -/
def Token.chkOk (t : Token) : Bool := t.chk == t.crc

/-- R61, R419: the poison a consumer sees. -/
def Token.pois (t : Token) : Bool := t.poison || !t.chkOk

def Kind.isMarker : Kind → Bool
  | .eoi => true
  | .fin => true
  | _ => false

/-- R63, R73: a marker carries zero lanes and SEQV 0. -/
def markerTok (kind : Kind) (ty : BitVec 4) : Token := (⟨Lanes.zero, kind, ty, false, false, 0, 0⟩ : Token).sealed

/-! ## Routes (R46) -/

/-- The route code of out-channel `k`. -/
def Elem.route (e : Elem) (k : Nat) : Nat := (nth 0 e.img.cfg.route k).toNat
def routeKind (r : Nat) : Nat := fld r 13 3
/-- The element a route reaches from element `e`: `e + Δe`, or none when it leaves 0 to 15. -/
def routeElem (e r : Nat) : Option Nat :=
  let t := (e : Int) + sextN 3 (fld r 10 3)
  if 0 ≤ t ∧ t ≤ 15 then some t.toNat else none
def routeChan (r : Nat) : Nat := fld r 8 2
def routeIdx (r : Nat) : Nat := r % 256

/-- R466: the crossing that feeds in-channel `k`: out-channel `k` is bound to an entry with DIR 0. -/
def Seg.crossIn (g : Seg) (e : Elem) (k : Nat) : Option Nat :=
  let r := e.route k
  if routeKind r = 5 && (nth default g.image.chans (routeIdx r)).dir == 0 then some (routeIdx r) else none

/-- R209: the input stream port that feeds in-channel `k`. -/
def Seg.streamIn (g : Seg) (e : Elem) (k : Nat) : Option Nat :=
  let r := e.route k
  if routeKind r = 4 && (nth default g.image.streams (routeIdx r)).dir == 0 then some (routeIdx r) else none

/-- R46, R209, R466: an out-channel that carries tokens: its route is not of kind 0 and does not bind an input. -/
def Seg.routed (g : Seg) (e : Elem) (k : Nat) : Bool :=
  routeKind (e.route k) != 0 && (g.crossIn e k).isNone && (g.streamIn e k).isNone

/-- An element with the FIFO of each crossing it is fed from standing in its in-channel (R64). -/
def Seg.viewOf (g : Seg) (c : Core) (p e : Nat) : Elem :=
  let el := c.elem p e
  { el with inq := [0, 1, 2, 3].map fun k =>
      match g.crossIn el k with
      | some x => (nth [] c.xin x).map Slot.tok
      | none => nth [] el.inq k }

/-- The element of the step at the start of the cycle (R4), crossings included. -/
def State.view (s : State) : Elem :=
  let g := s.segD s.cur.n s.cur.k
  g.viewOf g.start s.cur.p s.cur.e

/-- R64: the head of in-channel `k`; a reserved place that is not filled hides what stands behind it (R205). -/
def Elem.head (e : Elem) (k : Nat) : Option Token :=
  match nth [] e.inq k with
  | .tok t :: _ => some t
  | _ => none

/-- The head's kind is one of data and null. -/
def headTakable (h : Option Token) : Bool := match h with | some t => !t.kind.isMarker | none => false
def headNull (h : Option Token) : Bool := match h with | some t => t.kind == .null | none => false
def headMarker (h : Option Token) : Bool := match h with | some t => t.kind.isMarker | none => false

/-! ## Source values (R29) -/

/-- An operand's value with its tag. -/
structure Val where
  lanes : Lanes
  null : Bool
  pois : Bool
  seqv : Bool
  seq : W16
  deriving DecidableEq, Repr, Inhabited

def Val.plain (l : Lanes) : Val := ⟨l, false, false, false, 0⟩

/-- R71: a marker read under a table guard reads as zeros. -/
def Token.val (t : Token) : Val :=
  if t.kind.isMarker then Val.plain Lanes.zero else ⟨t.lanes, t.kind == .null, t.pois, t.seqv, t.seq⟩

/-- R67, R408: reading a register that nothing has written since configuration gives zeros. -/
def VReg.val (v : VReg) : Val :=
  if v.wr then ⟨v.lanes, false, v.pois, v.seqv, v.seq⟩ else Val.plain Lanes.zero

/-- R77: the value of a counter, `(KO << 16) | KI`. -/
def Counter.val (c : Counter) : W := BitVec.ofNat 32 (c.ko.toNat * 2 ^ 16 + c.ki.toNat)

def Elem.vreg (e : Elem) (k : Nat) : VReg := nth VReg.empty e.v k
def Elem.counter (e : Elem) (k : Nat) : Counter := nth default e.ctr k
def Elem.predBits (e : Elem) (k : Nat) : W16 := nth 0 e.pred k

/-- R29: the value of a source code. -/
def Elem.src (e : Elem) (code : Nat) : Val :=
  if code < 16 then (e.vreg code).val
  else if code < 20 then (match e.head (code - 16) with | some t => t.val | none => Val.plain Lanes.zero)
  else if code < 28 then Val.plain (Lanes.rep (nth 0 e.img.consts (code - 20)))
  else if code = 28 then Val.plain Lanes.zero
  else if code = 29 then Val.plain (Lanes.ofFn fun k => BitVec.ofNat 32 k)
  else if code = 30 then Val.plain (Lanes.rep e.ord)
  else Val.plain (Lanes.rep (e.counter 0).val)

/-- A source read with its keep bit. -/
structure Rd where
  code : Nat
  keep : Bool
  deriving DecidableEq, Repr, Inhabited

def rd (c : BitVec 5) (keep : Bool) : Rd := ⟨c.toNat, keep⟩
def rdIn (c : BitVec 2) (keep : Bool) : Rd := ⟨16 + c.toNat, keep⟩
def rdV (c : BitVec 4) : Rd := ⟨c.toNat, false⟩

/-- R63: the sequence tag of an output: that of the first operand with SEQV = 1. -/
def outTag (vs : List Val) : Bool × W16 :=
  match vs.find? (·.seqv) with
  | some v => (true, v.seq)
  | none => (false, 0)

/-- R62: the poison of an output. -/
def anyPoison (vs : List Val) : Bool := vs.any (·.pois)

/-- A result of operands: lanes with the tag and poison of R62, R63. -/
def resultOf (vs : List Val) (l : Lanes) : Val := ⟨l, false, anyPoison vs, (outTag vs).1, (outTag vs).2⟩

/-! ## What every firing does -/

/-- R31: the guard entry a selector names. -/
def Elem.guardOf (e : Elem) (t : BitVec 6) : Nat := if t.toNat < 32 then (nth 0 e.img.guards t.toNat).toNat else 0
def guardInreq (g : Nat) : Nat := fld g 28 4
def guardOutreq (g : Nat) : Nat := fld g 24 4
def guardHead (g : Nat) : Nat := fld g 5 2
def guardVpres (g : Nat) : Nat := g % 16

/-- R263: the flags of an atomic reply: a token with SEQV = 0 whose SEQ is not 0. -/
def Token.replyFlags (t : Token) : BitVec 6 := if t.seqv then 0 else BitVec.ofNat 6 t.seq.toNat

/-- R71: a rule fires on a marker when its guard admits markers and one of its INREQ heads is one. -/
def Elem.markerFiring (e : Elem) (t : BitVec 6) : Bool :=
  let g := e.guardOf t
  bitN (guardHead g) 0 && [0, 1, 2, 3].any fun k => bitN (guardInreq g) k && headMarker (e.head k)

/-- R61, R419: the in-channels whose head a rule reads and that fail the check; a marker is not read. -/
def Elem.badHeads (st : Elem) (rds : List Rd) : List Nat :=
  (rds.map fun r => r.code - 16).filter fun k => rds.any (fun r => r.code == 16 + k) && decide (k < 4) &&
    match st.head k with
    | some h => !h.kind.isMarker && !h.chkOk
    | none => false

/-- R66, R67, R71, R263, R406, R408, R419: what a firing of slot `j` under selector `t` does to its element whatever its
instruction: heads read without keep are taken, empty registers read are noted, a marker firing sets MDONE, and a
register that the guard tests for presence and the rule reads becomes empty at the end of the cycle. -/
def Elem.begin (st lv : Elem) (j : Nat) (t : BitVec 6) (rds : List Rd) : Elem :=
  let ins := rds.filter fun r => decide (16 ≤ r.code) && decide (r.code < 20)
  let heads := ins.filterMap fun r => match st.head (r.code - 16) with
    | some h => if h.kind.isMarker then none else some (r, h)
    | none => none
  let taken := (heads.filter fun x => !x.1.keep).map fun x => x.1.code - 16
  let fl := (heads.filter fun x => !x.1.keep && !lv.cyc.taken.contains (x.1.code - 16)).foldl
    (fun acc x => acc ||| x.2.replyFlags) (0 : BitVec 6)
  let unread := bits16 fun k => rds.any (fun r => r.code == k) && !(st.vreg k).wr
  let n := guardVpres (st.guardOf t)
  { lv with
    fires := lv.fires + 1
    mdone := if st.markerFiring t then lv.mdone ||| BitVec.ofNat 32 (2 ^ j) else lv.mdone
    fflags := lv.fflags ||| fl
    ermask := lv.ermask ||| unread
    cyc := { lv.cyc with
      fired := lv.cyc.fired ++ [j]
      taken := dedup (lv.cyc.taken ++ taken)
      clr := if n != 0 && rds.any (fun r => r.code == n) then lv.cyc.clr ++ [(j, n)] else lv.cyc.clr
      badchk := dedup (lv.cyc.badchk ++ st.badHeads rds)
      fnew := lv.cyc.fnew ||| fl
      enew := lv.cyc.enew ||| unread } }

def State.begin (s : State) (t : BitVec 6) (rds : List Rd) : State :=
  let st := s.view
  s.onCurElem fun lv => st.begin lv s.cur.j t rds

/-! ## Where a written token goes -/

/-- The physical stripe after `p` on a ring. -/
def Core.succ (c : Core) (p : Nat) : Nat := if p + 1 < c.stripes.length then p + 1 else 0

/-- R79: the physical stripe that holds the successor of the virtual stripe on `p` for the same run, when it is
resident. -/
def Core.successor (c : Core) (p : Nat) : Option Nat :=
  let q := c.succ p
  let a := c.stripe p
  let b := c.stripe q
  if b.res && b.vs == a.vs + 1 && b.run == a.run && c.stripes.length != 1 then some q else none

/-- R83: whether an arc from a stripe has parked tokens. -/
def Core.arcParked (c : Core) (vs elem ch : Nat) : Bool :=
  c.parkd.any fun x => x.vs == vs && x.elem == elem && x.ch == ch

/-- A place pushed to the end of a list in a nest of queues. -/
def pushAt (q : List (List Slot)) (k : Nat) (x : Slot) : List (List Slot) := upd (fun l => l ++ [x]) q k

/-- R46, R64, R83: a token or a reserved place sent from element `e` of stripe `p` along route code `r` to the in-channel
of its consumer, or into the pass buffer, behind tokens that were parked on the arc at the start `st` of the cycle even if
they have replayed in it. Other kinds of route reach no in-channel. -/
def Core.send (c st : Core) (p e r : Nat) (x : Slot) : Core :=
  match routeElem e r with
  | some e' =>
    if routeKind r = 1 then c.onElem p e' fun el => { el with inq := pushAt el.inq (routeChan r) x }
    else if routeKind r = 2 then
      let v := (c.stripe p).vs + 1
      match c.successor p with
      | some q =>
        if c.arcParked v e' (routeChan r) || st.arcParked v e' (routeChan r) then { c with parkd := c.parkd ++ [⟨v, e', routeChan r, (c.stripe p).run, x⟩] }
        else c.onElem q e' fun el => { el with inq := pushAt el.inq (routeChan r) x }
      | none => { c with parkd := c.parkd ++ [⟨v, e', routeChan r, (c.stripe p).run, x⟩] }
    else c
  | none => c

/-- R46, R64, R83: a token or a reserved place entering out-channel `k` of element `e` on stripe `p`: at the consumer
of the arc, in the pass buffer, or, toward a port or crossing, at the producer. -/
def Core.put (c st : Core) (p e k : Nat) (x : Slot) : Core :=
  let r := (c.elem p e).route k
  if routeKind r = 1 ∨ routeKind r = 2 then c.send st p e r x
  else c.onElem p e fun el => { el with oq := pushAt el.oq k x }

/-- A place put to out-channel `k` in the cycle in progress. -/
def Seg.put (g : Seg) (p e k : Nat) (x : Slot) : Seg := g.onLive fun c => c.put g.start p e k x

/-- R62: the type of a token on out-channel `k`. -/
def Elem.outType (e : Elem) (k : Nat) : BitVec 4 := nth 0 e.img.cfg.ltype (4 + k)
def Elem.inType (e : Elem) (k : Nat) : BitVec 4 := nth 0 e.img.cfg.ltype k

/-- A token written to out-channel `k` of the firing element. -/
def State.putTok (s : State) (k : Nat) (kind : Kind) (v : Val) : State :=
  let tok : Token := ⟨if kind = .data then v.lanes else Lanes.zero, kind, s.view.outType k,
    !kind.isMarker && v.pois, !kind.isMarker && v.seqv, if v.seqv && !kind.isMarker then v.seq else 0, 0⟩
  s.onCurSeg fun g => g.put s.cur.p s.cur.e k (.tok tok.sealed)

/-- R94: `null_like`, a null token without poison that carries the tag of the operands (R63). -/
def State.putNullLike (s : State) (k : Nat) (vs : List Val) : State :=
  s.putTok k .null ⟨Lanes.zero, true, false, (outTag vs).1, (outTag vs).2⟩

/-- R62, R63, R70: a null token of the null effect, with the tag and the poison of the operands. -/
def State.putNull (s : State) (k : Nat) (vs : List Val) : State :=
  s.putTok k .null ⟨Lanes.zero, true, anyPoison vs, (outTag vs).1, (outTag vs).2⟩

/-! ## Writes (R67, R110, R111) -/

/-- The lanes that a write-mask selects: all, or those of p1, p2 or p3. -/
def Elem.maskBits (e : Elem) (m : Nat) : W16 := if m = 0 then 0xFFFF else e.predBits m

/-- R67, R111: register `d` as a write leaves it, with the lanes that the mask does not select kept, as the register holds
them: FRZWR may have given an unwritten register lanes (R405). -/
def Elem.writeV (st lv : Elem) (d : Nat) (v : Val) (mask : W16) : Elem :=
  let old := (st.vreg d)
  { lv with
    v := upd (fun _ => { lanes := Lanes.ofFn fun k => if tb mask k then v.lanes.get k else old.lanes.get k
                         pres := true
                         pois := v.pois || (mask != 0xFFFF && old.pois)
                         seqv := v.seqv
                         seq := if v.seqv then v.seq else 0
                         wr := true }) lv.v d }

/-- R67: the rule of slot `j` writes register `d`, which its own reading therefore does not leave empty. -/
def Elem.keepPres (lv : Elem) (j d : Nat) : Elem := { lv with cyc := { lv.cyc with clr := lv.cyc.clr.filter (· != (j, d)) } }

/-- R29: a value put to a destination code: a register under its mask, an out-channel, or nowhere. -/
def State.putD (s : State) (d : Nat) (v : Val) (m : Nat) : State :=
  if d < 16 then let st := s.view; s.onCurElem fun lv => (st.writeV lv d v (st.maskBits m)).keepPres s.cur.j d
  else if 20 ≤ d ∧ d < 24 then s.putTok (d - 20) .data v
  else s

/-- A predicate written. -/
def State.putP (s : State) (d : Nat) (x : W16) : State :=
  s.onCurElem fun lv => { lv with pred := upd (fun _ => x) lv.pred d }

/-- R141: flags ORed in. -/
def State.raiseFlags (s : State) (fl : Nat) : State :=
  s.onCurElem fun lv => { lv with fflags := lv.fflags ||| BitVec.ofNat 6 fl
                                  cyc := { lv.cyc with fnew := lv.cyc.fnew ||| BitVec.ofNat 6 fl } }

/-- R113, R157: the vector unit busy for `n` cycles after the firing one. -/
def State.vecBusy (s : State) (n : Nat) : State :=
  if n = 0 then s else s.onCurElem fun lv => { lv with vbusy := n + 1 }

/-- R70: nulls of operands `vs` written to the out-channels of the destination codes given. -/
def State.putNulls (s : State) (outs : List Nat) (vs : List Val) : State :=
  (outs.filter fun d => decide (20 ≤ d) && decide (d < 24)).foldl (fun s d => s.putNull (d - 20) vs) s

/-- R70: the null effect on the out-channels of the destination codes given. -/
def State.nullFire (s : State) (t : BitVec 6) (rds : List Rd) (outs : List Nat) : State :=
  (s.begin t rds).putNulls outs (rds.map fun r => s.view.src r.code)

/-- R70: whether a read head is null. -/
def State.nullRead (s : State) (rds : List Rd) : Bool := rds.any fun r => (s.view.src r.code).null

/-- A firing: the null effect, or the instruction's own effect after what every firing does. -/
def State.fire (s : State) (t : BitVec 6) (rds : List Rd) (outs : List Nat) (eff : List Val → State → State) : State :=
  if s.nullRead rds then s.nullFire t rds outs
  else eff (rds.map fun r => s.view.src r.code) (s.begin t rds)

/-- R113, R157: a firing that keeps the vector unit busy, whether it has the null effect or its own. -/
def State.fireV (s : State) (busy : Nat) (t : BitVec 6) (rds : List Rd) (outs : List Nat) (eff : List Val → State → State) : State :=
  if s.nullRead rds then (s.nullFire t rds outs).vecBusy busy
  else eff (rds.map fun r => s.view.src r.code) ((s.begin t rds).vecBusy busy)

/-! ## The forms of integer rules -/

/-- Format A with two sources. -/
def State.vecAB (s : State) (t : BitVec 6) (o : FmtABM) (busy : Nat) (f : Lanes → Lanes → Lanes) : State :=
  s.fireV busy t [rd o.a o.ka, rd o.b o.kb] [o.d.toNat] fun vs s =>
    s.putD o.d.toNat (resultOf vs (f (nth default vs 0).lanes (nth default vs 1).lanes)) o.m.toNat

/-- Two sources, lane by lane. -/
def State.laneAB (s : State) (t : BitVec 6) (o : FmtABM) (busy : Nat) (f : W → W → W) : State :=
  s.vecAB t o busy fun a b => Lanes.ofFn fun k => f (a.get k) (b.get k)

/-- One source. -/
def State.vecA (s : State) (t : BitVec 6) (o : FmtAM) (busy : Nat) (f : Lanes → Lanes) : State :=
  s.fireV busy t [rd o.a o.ka] [o.d.toNat] fun vs s =>
    s.putD o.d.toNat (resultOf vs (f (nth default vs 0).lanes)) o.m.toNat

/-- D a v-register that is read and written, and two sources; D is the last operand in the order of R63. -/
def State.vecVAB (s : State) (t : BitVec 6) (o : FmtVBM) (f : W → W → W → W) : State :=
  s.fire t [rd o.a o.ka, rd o.b o.kb, rdV o.d] [] fun vs s =>
    s.putD o.d.toNat (resultOf vs (Lanes.ofFn fun k => f ((nth default vs 0).lanes.get k)
      ((nth default vs 1).lanes.get k) ((nth default vs 2).lanes.get k))) o.m.toNat

/-- Format I and other forms with one source, no mask. -/
def State.vecI (s : State) (t : BitVec 6) (d a : BitVec 5) (ka : Bool) (f : Lanes → Lanes) : State :=
  s.fire t [rd a ka] [d.toNat] fun vs s => s.putD d.toNat (resultOf vs (f (nth default vs 0).lanes)) 0

/-- R123: a compare into a predicate. -/
def State.cmpAB (s : State) (t : BitVec 6) (o : FmtPB) (f : W → W → Bool) : State :=
  s.fire t [rd o.a o.ka, rd o.b o.kb] [] fun vs s =>
    s.putP o.d.toNat (bits16 fun k => f ((nth default vs 0).lanes.get k) ((nth default vs 1).lanes.get k))

/-! ## The forms of floating-point rules (R139, R141 to R143) -/

/-- The mode of a lane: FRM, FTZ and the SR number, which R4 takes from the start of the cycle. -/
def State.rmode (s : State) (lane : Nat) : RMode :=
  let c := s.view.img.cfg
  ⟨c.frm, c.ftz, (srNext (nth 0 s.view.sr lane)).toNat % 2 ^ 16⟩

/-- R139: every lane's generator advanced once when the rule rounds under SR. Two rules of one cycle that round draw the same numbers (R4) and advance the generators twice. -/
def State.srAdvance (s : State) (rounds : Bool) : State :=
  if rounds && s.view.img.cfg.frm == 4 then s.onCurElem fun lv => { lv with sr := lv.sr.map srNext }
  else s

/-- The OR of the flags of the lanes a mask selects. -/
def orFlags (mask : W16) (fl : Nat → Nat) : Nat := laneNums.foldl (fun acc k => if tb mask k then acc ||| fl k else acc) 0

/-- R143: the enabled flags raised in written lanes, and those lanes. -/
def trapMask (ten : BitVec 6) (mask : W16) (fl : Nat → Nat) : W16 :=
  bits16 fun k => tb mask k && (fl k &&& ten.toNat) != 0

/-- R141, R143: flags raised and, for an enabled one, the arithmetic fault; nothing when an operand is poisoned. -/
def State.arith (s : State) (pois : Bool) (mask : W16) (fl : Nat → Nat) : State :=
  if pois then s
  else
    let all := orFlags mask fl
    let ten := s.view.img.cfg.ten
    let lm := trapMask ten mask fl
    let s := s.raiseFlags all
    if lm = 0 then s
    else s.faultRule { s.ruleRec 6 0 with flags := BitVec.ofNat 6 all &&& ten, lmask := lm }

/-- Whether a floating-point rule traps (R143). -/
def State.traps (s : State) (pois : Bool) (mask : W16) (fl : Nat → Nat) : Bool :=
  !pois && trapMask s.view.img.cfg.ten mask fl != 0

/-- The mask of lanes that a destination writes: a register under its mask, otherwise all. With D = 28 (discard) all sixteen
lanes count as written and raise their flags: the spec does not say (R29, R141; the model's choice, log 40). -/
def State.writtenLanes (s : State) (d m : Nat) : W16 := if d < 16 then s.view.maskBits m else 0xFFFF

/-- A floating-point result written: the lanes, poisoned on a trap, with flags and fault. -/
def State.putF (s : State) (d m : Nat) (vs : List Val) (res : Nat → FRes) : State :=
  let mask := s.writtenLanes d m
  let fl := fun k => (res k).2
  let p := anyPoison vs
  let r := resultOf vs (Lanes.ofFn fun k => BitVec.ofNat 32 (res k).1)
  (s.arith p mask fl).putD d { r with pois := r.pois || s.traps p mask fl } m

/-- Two sources. -/
def State.fpAB (s : State) (t : BitVec 6) (o : FmtABM) (busy : Nat) (rounds : Bool) (f : RMode → Nat → Nat → FRes) :
    State :=
  s.fireV busy t [rd o.a o.ka, rd o.b o.kb] [o.d.toNat] fun vs s' =>
    (s'.putF o.d.toNat o.m.toNat vs fun k =>
      f (s.rmode k) ((nth default vs 0).lanes.get k).toNat ((nth default vs 1).lanes.get k).toNat).srAdvance rounds

/-- One source. -/
def State.fpA (s : State) (t : BitVec 6) (o : FmtAM) (busy : Nat) (rounds : Bool) (f : RMode → Nat → FRes) : State :=
  s.fireV busy t [rd o.a o.ka] [o.d.toNat] fun vs s' =>
    (s'.putF o.d.toNat o.m.toNat vs fun k =>
      f (s.rmode k) ((nth default vs 0).lanes.get k).toNat).srAdvance rounds

/-- Two sources and D read and written. -/
def State.fpVAB (s : State) (t : BitVec 6) (o : FmtVBM) (f : RMode → Nat → Nat → Nat → FRes) : State :=
  s.fire t [rd o.a o.ka, rd o.b o.kb, rdV o.d] [] fun vs s' =>
    (s'.putF o.d.toNat o.m.toNat vs fun k =>
      f (s.rmode k) ((nth default vs 0).lanes.get k).toNat ((nth default vs 1).lanes.get k).toNat
        ((nth default vs 2).lanes.get k).toNat).srAdvance true

/-- R149: a floating-point compare into a predicate, which a trap does not poison. -/
def State.fcmpAB (s : State) (t : BitVec 6) (o : FmtPB) (f : Bool → Nat → Nat → Bool × Nat) : State :=
  s.fire t [rd o.a o.ka, rd o.b o.kb] [] fun vs s' =>
    let ftz := s.view.img.cfg.ftz
    let r := fun k => f ftz ((nth default vs 0).lanes.get k).toNat ((nth default vs 1).lanes.get k).toNat
    (s'.arith (anyPoison vs) 0xFFFF fun k => (r k).2).putP o.d.toNat (bits16 fun k => (r k).1)

end Sys2Proof.Machine
end

