-- ==== Sys2Proof/Machine/Integer.lean ====
section
/-! DEFINITION. The integer, address and lane instructions, majors 0x13 to 0x3E (R109 to R131). -/

namespace Sys2Proof.Machine

abbrev Res := Host.Outcome State Fault Refusal

/-! ## Lane functions -/

/-- R110: a signed number clamped to 32 bits. -/
def satS32 (n : Int) : W := BitVec.ofInt 32 (max (-2147483648) (min 2147483647 n))

/-- R122. -/
def clz32 (a : W) : W := if a = 0 then 32 else BitVec.ofNat 32 (31 - Nat.log2 a.toNat)
def popc32 (a : W) : W := BitVec.ofNat 32 ((List.range 32).foldl (fun acc i => acc + (tb a i).toNat) 0)

/-- R120: a shift by the low five bits; kind 0 left, 1 right logical, 2 right arithmetic. -/
def shiftLane (kind : Nat) (a : W) (n : Nat) : W :=
  match kind with
  | 0 => a <<< (n % 32)
  | 1 => a >>> (n % 32)
  | _ => a.sshiftRight (n % 32)

/-- R126: the effective width of a bit field control. -/
def bfWidth (c : Nat) : Nat := min (min (fld c 5 6) 32) (32 - c % 32)
/-- R126: BFX of one lane. -/
def bfxLane (a c : W) : W :=
  let w := bfWidth c.toNat
  let f := fld a.toNat (c.toNat % 32) w
  if w = 0 then 0 else if bitN c.toNat 11 then BitVec.ofInt 32 (sextN w f) else BitVec.ofNat 32 f
/-- R126: BFI of one lane. -/
def bfiLane (a c d : W) : W :=
  let m : W := BitVec.ofNat 32 (2 ^ bfWidth c.toNat - 1)
  let p := c.toNat % 32
  (d &&& ~~~(m <<< p)) ||| ((a &&& m) <<< p)

/-- R118. -/
def divuLane (a b : W) : W := if b = 0 then 0xFFFFFFFF else a / b
def remuLane (a b : W) : W := if b = 0 then a else a % b

/-- R128. -/
def permLanes (a x : Lanes) : Lanes :=
  Lanes.ofFn fun k => if tb (x.get k) 4 then 0 else a.get ((x.get k).toNat % 16)

/-- R129. -/
def slideLanes (sh : Int) (a : Lanes) : Lanes :=
  Lanes.ofFn fun k => let i := (k : Int) - sh; if 0 ≤ i ∧ i ≤ 15 then a.get i.toNat else 0

/-- R131. -/
def scanLanes (a : Lanes) : Lanes :=
  Lanes.ofFn fun k => (List.range (k + 1)).foldl (fun acc j => acc + a.get j) 0

/-- R130: a lane function folded over all sixteen lanes. -/
def redLanes (f : W → W → W) (a : Lanes) : Lanes :=
  Lanes.rep ((laneNums.drop 1).foldl (fun acc j => f acc (a.get j)) (a.get 0))

def sminW (a b : W) : W := if a.slt b then a else b
def smaxW (a b : W) : W := if a.slt b then b else a
def uminW (a b : W) : W := if a.ult b then a else b
def umaxW (a b : W) : W := if a.ult b then b else a

/-- R116: the high halves of the products. -/
def mulhLane (a b : W) : W := BitVec.ofInt 32 (a.toInt * b.toInt / 2 ^ 32)
def mulhuLane (a b : W) : W := BitVec.ofNat 32 (a.toNat * b.toNat / 2 ^ 32)

/-- R115: IMM8 sign-extended. -/
def imm8 (i : BitVec 8) : W := i.signExtend 32

/-- ADD (R115). -/
def execAdd (t : BitVec 6) (o : FmtABM) (s : State) : Res :=
  .next (s.laneAB t o 0 fun a b => a + b)

/-- SUB (R115). -/
def execSub (t : BitVec 6) (o : FmtABM) (s : State) : Res :=
  .next (s.laneAB t o 0 fun a b => a - b)

/-- ADDI (R115). -/
def execAddi (t : BitVec 6) (o : FmtI) (s : State) : Res :=
  .next (s.vecI t o.d o.a o.ka fun a => Lanes.ofFn fun k => a.get k + imm8 o.imm)

/-- ADDS (R115). -/
def execAdds (t : BitVec 6) (o : FmtABM) (s : State) : Res :=
  .next (s.laneAB t o 0 fun a b => satS32 (a.toInt + b.toInt))

/-- SUBS (R115). -/
def execSubs (t : BitVec 6) (o : FmtABM) (s : State) : Res :=
  .next (s.laneAB t o 0 fun a b => satS32 (a.toInt - b.toInt))

/-- MULL (R116). -/
def execMull (t : BitVec 6) (o : FmtABM) (s : State) : Res :=
  .next (s.laneAB t o 0 fun a b => a * b)

/-- MULH (R116). -/
def execMulh (t : BitVec 6) (o : FmtABM) (s : State) : Res :=
  .next (s.laneAB t o 0 mulhLane)

/-- MULHU (R116). -/
def execMulhu (t : BitVec 6) (o : FmtABM) (s : State) : Res :=
  .next (s.laneAB t o 0 mulhuLane)

/-- MAD (R117). -/
def execMad (t : BitVec 6) (o : FmtVBM) (s : State) : Res :=
  .next (s.vecVAB t o fun a b d => d + a * b)

/-- AND (R119). -/
def execAnd (t : BitVec 6) (o : FmtABM) (s : State) : Res :=
  .next (s.laneAB t o 0 fun a b => a &&& b)

/-- OR (R119). -/
def execOr (t : BitVec 6) (o : FmtABM) (s : State) : Res :=
  .next (s.laneAB t o 0 fun a b => a ||| b)

/-- XOR (R119). -/
def execXor (t : BitVec 6) (o : FmtABM) (s : State) : Res :=
  .next (s.laneAB t o 0 fun a b => a ^^^ b)

/-- ANDN (R119). -/
def execAndn (t : BitVec 6) (o : FmtABM) (s : State) : Res :=
  .next (s.laneAB t o 0 fun a b => a &&& ~~~b)

/-- SHL (R120). -/
def execShl (t : BitVec 6) (o : FmtABM) (s : State) : Res :=
  .next (s.laneAB t o 0 fun a b => shiftLane 0 a b.toNat)

/-- SHR (R120). -/
def execShr (t : BitVec 6) (o : FmtABM) (s : State) : Res :=
  .next (s.laneAB t o 0 fun a b => shiftLane 1 a b.toNat)

/-- SRA (R120). -/
def execSra (t : BitVec 6) (o : FmtABM) (s : State) : Res :=
  .next (s.laneAB t o 0 fun a b => shiftLane 2 a b.toNat)

/-- SHI (R120). -/
def execShi (t : BitVec 6) (o : FmtShi) (s : State) : Res :=
  .next (s.vecI t o.d o.a o.ka fun a => Lanes.ofFn fun k => shiftLane o.k.toNat (a.get k) o.n.toNat)

/-- MIN (R121). -/
def execMin (t : BitVec 6) (o : FmtABM) (s : State) : Res :=
  .next (s.laneAB t o 0 sminW)

/-- MAX (R121). -/
def execMax (t : BitVec 6) (o : FmtABM) (s : State) : Res :=
  .next (s.laneAB t o 0 smaxW)

/-- MINU (R121). -/
def execMinu (t : BitVec 6) (o : FmtABM) (s : State) : Res :=
  .next (s.laneAB t o 0 uminW)

/-- MAXU (R121). -/
def execMaxu (t : BitVec 6) (o : FmtABM) (s : State) : Res :=
  .next (s.laneAB t o 0 umaxW)

/-- ABS (R122). -/
def execAbs (t : BitVec 6) (o : FmtAM) (s : State) : Res :=
  .next (s.vecA t o 0 fun a => Lanes.ofFn fun k => (fun x => if x.slt 0 then -x else x) (a.get k))

/-- CLZ (R122). -/
def execClz (t : BitVec 6) (o : FmtAM) (s : State) : Res :=
  .next (s.vecA t o 0 fun a => Lanes.ofFn fun k => clz32 (a.get k))

/-- POPC (R122). -/
def execPopc (t : BitVec 6) (o : FmtAM) (s : State) : Res :=
  .next (s.vecA t o 0 fun a => Lanes.ofFn fun k => popc32 (a.get k))

/-- SEL (R124): the predicate chooses, and both operands are read. -/
def execSel (t : BitVec 6) (o : FmtSel) (s : State) : Res :=
  let p := s.view.predBits o.p.toNat
  .next (s.vecAB t ⟨o.d, o.a, o.b, o.ka, o.kb, 0⟩ 0 fun a b => Lanes.ofFn fun k => if tb p k then a.get k else b.get k)

/-- CMPEQ (R123). -/
def execCmpeq (t : BitVec 6) (o : FmtPB) (s : State) : Res :=
  .next (s.cmpAB t o fun a b => a == b)

/-- CMPNE (R123). -/
def execCmpne (t : BitVec 6) (o : FmtPB) (s : State) : Res :=
  .next (s.cmpAB t o fun a b => a != b)

/-- CMPLT (R123). -/
def execCmplt (t : BitVec 6) (o : FmtPB) (s : State) : Res :=
  .next (s.cmpAB t o fun a b => a.slt b)

/-- CMPLE (R123). -/
def execCmple (t : BitVec 6) (o : FmtPB) (s : State) : Res :=
  .next (s.cmpAB t o fun a b => a.sle b)

/-- CMPLTU (R123). -/
def execCmpltu (t : BitVec 6) (o : FmtPB) (s : State) : Res :=
  .next (s.cmpAB t o fun a b => a.ult b)

/-- CMPLEU (R123). -/
def execCmpleu (t : BitVec 6) (o : FmtPB) (s : State) : Res :=
  .next (s.cmpAB t o fun a b => a.ule b)

/-- LI (R125). -/
def execLi (t : BitVec 6) (d : BitVec 4) (imm : BitVec 14) (s : State) : Res :=
  .next (s.fire t [] [] fun _ s => s.putD d.toNat (Val.plain (Lanes.rep (imm.signExtend 32))) 0)

/-- LUI (R125). -/
def execLui (t : BitVec 6) (d : BitVec 4) (imm : BitVec 14) (s : State) : Res :=
  .next (s.fire t [] [] fun _ s => s.putD d.toNat (Val.plain (Lanes.rep (imm.setWidth 32 <<< 18))) 0)

/-- BFX (R126). -/
def execBfx (t : BitVec 6) (o : FmtABM) (s : State) : Res :=
  .next (s.laneAB t o 0 bfxLane)

/-- BFI (R126). -/
def execBfi (t : BitVec 6) (o : FmtVBM) (s : State) : Res :=
  .next (s.vecVAB t o bfiLane)

/-- DIVU (R118, R113). -/
def execDivu (t : BitVec 6) (o : FmtABM) (s : State) : Res :=
  .next (s.laneAB t o 7 divuLane)

/-- REMU (R118, R113). -/
def execRemu (t : BitVec 6) (o : FmtABM) (s : State) : Res :=
  .next (s.laneAB t o 7 remuLane)

/-- BCAST (R127). -/
def execBcast (t : BitVec 6) (o : FmtBcast) (s : State) : Res :=
  .next (s.vecI t o.d o.a o.ka fun a => Lanes.rep (a.get o.lane.toNat))

/-- PERM (R128). -/
def execPerm (t : BitVec 6) (o : FmtABM) (s : State) : Res :=
  .next (s.vecAB t o 0 permLanes)

/-- SLIDE (R129). -/
def execSlide (t : BitVec 6) (o : FmtI) (s : State) : Res :=
  .next (s.vecI t o.d o.a o.ka (slideLanes o.imm.toInt))

/-- REDADD (R130, R113). -/
def execRedadd (t : BitVec 6) (o : FmtAM) (s : State) : Res :=
  .next (s.vecA t o 1 (redLanes fun a b => a + b))

/-- REDMAX (R130, R113). -/
def execRedmax (t : BitVec 6) (o : FmtAM) (s : State) : Res :=
  .next (s.vecA t o 1 (redLanes smaxW))

/-- REDMIN (R130, R113). -/
def execRedmin (t : BitVec 6) (o : FmtAM) (s : State) : Res :=
  .next (s.vecA t o 1 (redLanes sminW))

/-- SCAN (R131, R113). -/
def execScan (t : BitVec 6) (o : FmtAM) (s : State) : Res :=
  .next (s.vecA t o 1 scanLanes)

end Sys2Proof.Machine
end

