-- ==== Sys2Proof/WellFormed.lean ====
section
/-! DEFINITION. Which instructions are well formed: the operand codes, keep bits, masks, types and reserved
fields that R25 to R30, the entries of the chapters and R50 to R54 allow. A rule word that fails is rejected
with CONFIG (R49); a dock word that fails halts its queue with BADDOCK (R52). -/

namespace Sys2Proof

/-- R25: a guard entry 0x00 to 0x1F, or the implicit guard 0x3E. -/
def selOk (t : BitVec 6) : Bool := decide (t.toNat < 0x20) || t == 0x3E

/-- R29: the code names an in-channel. -/
def isIn (a : BitVec 5) : Bool := decide (16 ≤ a.toNat ∧ a.toNat ≤ 19)

/-- R29: as a destination the code names an out-channel. -/
def isOut (d : BitVec 5) : Bool := decide (20 ≤ d.toNat ∧ d.toNat ≤ 23)

/-- R29: a v-register, an out-channel or the discard code. -/
def destOk (d : BitVec 5) : Bool := decide (d.toNat < 16) || isOut d || d == 28

/-- R222, R308: a v-register or an out-channel; discard is not allowed. -/
def replyOk (d : BitVec 5) : Bool := decide (d.toNat < 16) || isOut d

/-- R27: a keep bit needs an in-channel. -/
def keepOk (k : Bool) (a : BitVec 5) : Bool := !k || isIn a

/-- R27: a lane write-mask needs a v-register destination. -/
def maskOk (m : BitVec 2) (d : BitVec 5) : Bool := m == 0 || decide (d.toNat < 16)

/-- R138, R152: the targets whose SAT bit must be 1, the formats without infinity or NaN and the integers. -/
def needsSat (ty : BitVec 4) : Bool := decide (6 ≤ ty.toNat ∧ ty.toNat ≤ 8) || decide (10 ≤ ty.toNat)

/-- R152: one side is FP32 and the other a narrower float, E8M0 or an integer. -/
def cvtOk (f t : BitVec 4) (sat : Bool) : Bool :=
  ((f == 1 && decide (2 ≤ t.toNat ∧ t.toNat ≤ 14)) || (t == 1 && decide (2 ≤ f.toNat ∧ f.toNat ≤ 14)))
    && (!needsSat t || sat)

/-- R155: the types of FPACK and FUNPK and the parts each has. -/
def partOk (ty : BitVec 4) (part : BitVec 3) : Bool :=
  if ty == 2 || ty == 3 || ty == 12 then decide (part.toNat < 2)
  else if ty == 8 then true
  else if (4 ≤ ty.toNat && ty.toNat ≤ 7) || ty == 9 || ty == 10 || ty == 11 then decide (part.toNat < 4)
  else false

/-- R176, R185: the output types of ACCRD; INT32 needs SAT. -/
def accrdOk (ty : BitVec 4) (sat : Bool) : Bool :=
  ty == 1 || ty == 2 || ty == 3 || ty == 4 || ty == 5 || (ty == 13 && sat)

/-- R51: a semaphore name of a dock word. -/
def semArgOk (arg : BitVec 48) : Bool := decide (arg.toNat < 2 ^ 14) && decide (arg.toNat / 256 ≤ 39)

/-- R50 to R52, R335, R361: the operand of the dock word with this OP has its reserved bits 0 and its fields in
range. The second word of BALLOC has FORM 0b11 and [61:48] reserved (R343). -/
def dockArgOk (op : Nat) (arg : BitVec 48) (v : BitVec 64) : Bool :=
  let a := arg.toNat
  match op with
  | 0x01 => a % 64 == 0
  | 0x02 | 0x03 | 0x04 => semArgOk arg
  | 0x05 => a % 64 == 0
  | 0x06 => a % 8 == 0
  | 0x07 => a / 2 ^ 32 != 0
  | 0x08 => a / 2 ^ 13 == 0
  | 0x09 => decide (1 ≤ a ∧ a ≤ 6)
  | 0x0A => a / 4 == 0
  | 0x0B => a / 2 ^ 32 == 0 && v.toNat / 2 ^ 48 == 0
  | 0x0C => a / 2 ^ 40 == 0 && fld v.toNat 48 14 == 0 && fld v.toNat 62 2 != 3
  | 0x0D => a / 2 ^ 32 == 0
  | 0x0E | 0x0F | 0x10 => a % 16 == 0
  | 0x11 => a == 0
  | _ => false

/-- A dock word is well formed for any queue: no reserved bit set and its operand in range. -/
def DockW.ok (op : Nat) (w : DockW) (v : BitVec 64) : Bool := w.rsv == 0 && dockArgOk op w.arg v

/-- R53, R54: the custom instructions of a skerry, by opcode and FUNCT3, with the bits that each reserves. -/
def skerryForms : List (Nat × Nat × Nat) :=
  [(0x0B, 0, 0xFE000000), (0x0B, 1, 0xFE000000), (0x0B, 2, 0xFFF00000), (0x0B, 3, 0xFFF00000), (0x0B, 4, 0xFE000F80),
   (0x2B, 0, 0xFE000000), (0x2B, 1, 0xFFF00F80), (0x2B, 2, 0xFE000F80), (0x2B, 3, 0xFFF00000), (0x2B, 4, 0xFE000F80),
   (0x2B, 5, 0xFFF00000), (0x2B, 6, 0xFFF00000), (0x2B, 7, 0xFFF00000)]

/-- R54: a word of the custom opcodes that is no custom instruction. -/
def skerryIllegalWord (w : BitVec 32) : Bool :=
  (fld w.toNat 0 7 == 0x0B || fld w.toNat 0 7 == 0x2B) &&
  skerryForms.all fun f => !(fld w.toNat 0 7 == f.1 && fld w.toNat 12 3 == f.2.1 && (w.toNat &&& f.2.2) == 0)

/-- The instruction is one that its encoding table admits. Events have no encoding and are always well formed. -/
def Instr.wf : Instr → Bool
  | .nop t => selOk t
  | .mov t o => selOk t && destOk o.d
  | .drop t _ => selOk t
  | .null_ t _ => selOk t
  | .steer t o => selOk t && o.d != o.f && keepOk o.ka o.a
  | .merge t o => selOk t && o.a != o.b && destOk o.d && maskOk o.m o.d
  | .split4 t o => selOk t && o.mask != 0 && keepOk o.ka o.a && keepOk o.kb o.b
  | .pick4 t o => selOk t && o.mask != 0 && destOk o.d && keepOk o.ka o.a
  | .emit t d _ => selOk t && (isOut d || d == 28)
  | .cnt t _ _ => selOk t
  | .cntb t o => selOk t && keepOk o.ka o.a
  | .rep t o => selOk t && keepOk o.ka o.a && keepOk o.kb o.b
  | .seqt t o => selOk t && destOk o.d && keepOk o.ka o.a && keepOk o.kb o.b && maskOk o.m o.d
  | .reord t d _ => selOk t && destOk d
  | .sig t _ => selOk t
  | .gate t o => selOk t && destOk o.d
  | .plog t _ => selOk t
  | .pset t _ _ => selOk t
  | .slots t d => selOk t && destOk d
  | .add t o => selOk t && destOk o.d && keepOk o.ka o.a && keepOk o.kb o.b && maskOk o.m o.d
  | .sub t o => selOk t && destOk o.d && keepOk o.ka o.a && keepOk o.kb o.b && maskOk o.m o.d
  | .addi t o => selOk t && destOk o.d && keepOk o.ka o.a
  | .adds t o => selOk t && destOk o.d && keepOk o.ka o.a && keepOk o.kb o.b && maskOk o.m o.d
  | .subs t o => selOk t && destOk o.d && keepOk o.ka o.a && keepOk o.kb o.b && maskOk o.m o.d
  | .mull t o => selOk t && destOk o.d && keepOk o.ka o.a && keepOk o.kb o.b && maskOk o.m o.d
  | .mulh t o => selOk t && destOk o.d && keepOk o.ka o.a && keepOk o.kb o.b && maskOk o.m o.d
  | .mulhu t o => selOk t && destOk o.d && keepOk o.ka o.a && keepOk o.kb o.b && maskOk o.m o.d
  | .mad t o => selOk t && keepOk o.ka o.a && keepOk o.kb o.b
  | .and_ t o => selOk t && destOk o.d && keepOk o.ka o.a && keepOk o.kb o.b && maskOk o.m o.d
  | .or_ t o => selOk t && destOk o.d && keepOk o.ka o.a && keepOk o.kb o.b && maskOk o.m o.d
  | .xor_ t o => selOk t && destOk o.d && keepOk o.ka o.a && keepOk o.kb o.b && maskOk o.m o.d
  | .andn t o => selOk t && destOk o.d && keepOk o.ka o.a && keepOk o.kb o.b && maskOk o.m o.d
  | .shl t o => selOk t && destOk o.d && keepOk o.ka o.a && keepOk o.kb o.b && maskOk o.m o.d
  | .shr t o => selOk t && destOk o.d && keepOk o.ka o.a && keepOk o.kb o.b && maskOk o.m o.d
  | .sra t o => selOk t && destOk o.d && keepOk o.ka o.a && keepOk o.kb o.b && maskOk o.m o.d
  | .shi t o => selOk t && o.k != 3 && destOk o.d && keepOk o.ka o.a
  | .min_ t o => selOk t && destOk o.d && keepOk o.ka o.a && keepOk o.kb o.b && maskOk o.m o.d
  | .max_ t o => selOk t && destOk o.d && keepOk o.ka o.a && keepOk o.kb o.b && maskOk o.m o.d
  | .minu t o => selOk t && destOk o.d && keepOk o.ka o.a && keepOk o.kb o.b && maskOk o.m o.d
  | .maxu t o => selOk t && destOk o.d && keepOk o.ka o.a && keepOk o.kb o.b && maskOk o.m o.d
  | .abs_ t o => selOk t && destOk o.d && keepOk o.ka o.a && maskOk o.m o.d
  | .clz t o => selOk t && destOk o.d && keepOk o.ka o.a && maskOk o.m o.d
  | .popc t o => selOk t && destOk o.d && keepOk o.ka o.a && maskOk o.m o.d
  | .sel t o => selOk t && destOk o.d && keepOk o.ka o.a && keepOk o.kb o.b
  | .cmpeq t o => selOk t && keepOk o.ka o.a && keepOk o.kb o.b
  | .cmpne t o => selOk t && keepOk o.ka o.a && keepOk o.kb o.b
  | .cmplt t o => selOk t && keepOk o.ka o.a && keepOk o.kb o.b
  | .cmple t o => selOk t && keepOk o.ka o.a && keepOk o.kb o.b
  | .cmpltu t o => selOk t && keepOk o.ka o.a && keepOk o.kb o.b
  | .cmpleu t o => selOk t && keepOk o.ka o.a && keepOk o.kb o.b
  | .li t _ _ => selOk t
  | .lui t _ _ => selOk t
  | .bfx t o => selOk t && destOk o.d && keepOk o.ka o.a && keepOk o.kb o.b && maskOk o.m o.d
  | .bfi t o => selOk t && keepOk o.ka o.a && keepOk o.kb o.b
  | .divu t o => selOk t && destOk o.d && keepOk o.ka o.a && keepOk o.kb o.b && maskOk o.m o.d
  | .remu t o => selOk t && destOk o.d && keepOk o.ka o.a && keepOk o.kb o.b && maskOk o.m o.d
  | .bcast t o => selOk t && destOk o.d && keepOk o.ka o.a
  | .perm t o => selOk t && destOk o.d && keepOk o.ka o.a && keepOk o.kb o.b && maskOk o.m o.d
  | .slide t o => selOk t && destOk o.d && keepOk o.ka o.a && decide (-15 ≤ o.imm.toInt ∧ o.imm.toInt ≤ 15)
  | .redadd t o => selOk t && destOk o.d && keepOk o.ka o.a && maskOk o.m o.d
  | .redmax t o => selOk t && destOk o.d && keepOk o.ka o.a && maskOk o.m o.d
  | .redmin t o => selOk t && destOk o.d && keepOk o.ka o.a && maskOk o.m o.d
  | .scan t o => selOk t && destOk o.d && keepOk o.ka o.a && maskOk o.m o.d
  | .fadd t o => selOk t && destOk o.d && keepOk o.ka o.a && keepOk o.kb o.b && maskOk o.m o.d
  | .fsub t o => selOk t && destOk o.d && keepOk o.ka o.a && keepOk o.kb o.b && maskOk o.m o.d
  | .fmul t o => selOk t && destOk o.d && keepOk o.ka o.a && keepOk o.kb o.b && maskOk o.m o.d
  | .ffma t o => selOk t && keepOk o.ka o.a && keepOk o.kb o.b
  | .ffms t o => selOk t && keepOk o.ka o.a && keepOk o.kb o.b
  | .fnma t o => selOk t && keepOk o.ka o.a && keepOk o.kb o.b
  | .fmin t o => selOk t && destOk o.d && keepOk o.ka o.a && keepOk o.kb o.b && maskOk o.m o.d
  | .fmax t o => selOk t && destOk o.d && keepOk o.ka o.a && keepOk o.kb o.b && maskOk o.m o.d
  | .fabs t o => selOk t && destOk o.d && keepOk o.ka o.a && maskOk o.m o.d
  | .fneg t o => selOk t && destOk o.d && keepOk o.ka o.a && maskOk o.m o.d
  | .fcmpeq t o => selOk t && keepOk o.ka o.a && keepOk o.kb o.b
  | .fcmplt t o => selOk t && keepOk o.ka o.a && keepOk o.kb o.b
  | .fcmple t o => selOk t && keepOk o.ka o.a && keepOk o.kb o.b
  | .fcmpun t o => selOk t && keepOk o.ka o.a && keepOk o.kb o.b
  | .fdiv t o => selOk t && destOk o.d && keepOk o.ka o.a && keepOk o.kb o.b && maskOk o.m o.d
  | .fsqrt t o => selOk t && destOk o.d && keepOk o.ka o.a && maskOk o.m o.d
  | .frcp t o => selOk t && destOk o.d && keepOk o.ka o.a && maskOk o.m o.d
  | .frsq t o => selOk t && destOk o.d && keepOk o.ka o.a && maskOk o.m o.d
  | .fexp2 t o => selOk t && destOk o.d && keepOk o.ka o.a && maskOk o.m o.d
  | .flog2 t o => selOk t && destOk o.d && keepOk o.ka o.a && maskOk o.m o.d
  | .ftanh t o => selOk t && destOk o.d && keepOk o.ka o.a && maskOk o.m o.d
  | .fsigm t o => selOk t && destOk o.d && keepOk o.ka o.a && maskOk o.m o.d
  | .fclass t o => selOk t && destOk o.d && keepOk o.ka o.a && maskOk o.m o.d
  | .frnd t o => selOk t && destOk o.d && keepOk o.ka o.a && maskOk o.m o.d
  | .fscale t o => selOk t && destOk o.d && keepOk o.ka o.a && keepOk o.kb o.b && maskOk o.m o.d
  | .cvt t o => selOk t && destOk o.d && cvtOk o.from_ o.to_ o.sat
  | .cvtmx t o => selOk t && destOk o.d && decide (o.to_.toNat ≤ 4) && (o.sat || decide (o.to_.toNat ≤ 1))
  | .unpmx t o => selOk t && destOk o.d && decide (o.from_.toNat ≤ 4)
  | .fpack t o => selOk t && partOk o.to_ o.part
  | .funpk t o => selOk t && destOk o.d && partOk o.from_ o.part
  | .plw t _ => selOk t
  | .plws t o => selOk t && (o.sp == 1 || o.sp == 2)
  | .plclr t _ => selOk t
  | .scld t _ => selOk t
  | .mma t _ => selOk t
  | .mmas t _ => selOk t
  | .accrd t o => selOk t && accrdOk o.ty o.sat
  | .accwr t o => selOk t && (o.ty == 1 || o.ty == 2 || o.ty == 3)
  | .accclr t _ => selOk t
  | .mfwd t _ _ => selOk t
  | .ld t o => selOk t && keepOk o.ka o.a && replyOk o.d
  | .ldq t _ a _ _ _ ka => selOk t && keepOk ka a
  | .st t o => selOk t && keepOk o.ka o.a
  | .lds t o => selOk t && keepOk o.ka o.a && replyOk o.d
  | .stf t o => selOk t && keepOk o.ka o.a
  | .sto t o => selOk t && keepOk o.ka o.a
  | .sete t o => selOk t && keepOk o.ka o.a
  | .pfx t o => selOk t && keepOk o.ka o.a
  | .srd t o => selOk t && o.sz != 1 && replyOk o.d
  | .swr t o => selOk t && o.sz != 1
  | .agn t _ imm => selOk t && imm != 0
  | .fence t scope => selOk t && decide (1 ≤ scope.toNat ∧ scope.toNat ≤ 6)
  | .aadd t o => selOk t && (o.rpl || o.y == 0)
  | .amin t o => selOk t && (o.rpl || o.y == 0)
  | .amax t o => selOk t && (o.rpl || o.y == 0)
  | .aminu t o => selOk t && (o.rpl || o.y == 0)
  | .amaxu t o => selOk t && (o.rpl || o.y == 0)
  | .aand t o => selOk t && (o.rpl || o.y == 0)
  | .aor t o => selOk t && (o.rpl || o.y == 0)
  | .axor t o => selOk t && (o.rpl || o.y == 0)
  | .axchg t o => selOk t && (o.rpl || o.y == 0)
  | .acas t rpl y _ _ => selOk t && (rpl || y == 0)
  | .afadd t o => selOk t && (o.rpl || o.y == 0)
  | .afmin t o => selOk t && (o.rpl || o.y == 0)
  | .afmax t o => selOk t && (o.rpl || o.y == 0)
  | .aincw t o => selOk t && (o.rpl || o.y == 0)
  | .cpy1 t o => selOk t && destOk o.d
  | .cpy2 t o => selOk t && destOk o.d
  | .cpyg t o => selOk t && destOk o.d
  | .cpys t o => selOk t && destOk o.d
  | .cpyf t o => selOk t && destOk o.d
  | .cpyx t o => selOk t && destOk o.d
  | .binit t o => selOk t && destOk o.d
  | .barv t o => selOk t && destOk o.d
  | .bexp t o => selOk t && destOk o.d
  | .bwait t o => selOk t && destOk o.d
  | .ared t o => selOk t && destOk o.d
  | .rscat t o => selOk t && destOk o.d
  | .agath t o => selOk t && destOk o.d
  | .bcst t o => selOk t && destOk o.d
  | .a2a t o => selOk t && destOk o.d
  | .cwait t o => selOk t && destOk o.d
  | .cabrt t _ => selOk t
  | .vget t d => selOk t && replyOk d
  | .vack t _ => selOk t
  | .vjoin t => selOk t
  | .trap t _ => selOk t
  | .brk t => selOk t
  | .mark t _ => selOk t
  | .cyc t d => selOk t && destOk d
  | .perf t o => selOk t && destOk o.d
  | .halt t => selOk t
  | .mbxput _ _ _ => true
  | .mbxget _ _ _ => true
  | .mbxpoll _ _ => true
  | .futld _ _ => true
  | .futst _ _ => true
  | .epibeg _ _ _ => true
  | .epiend _ => true
  | .wdset _ _ => true
  | .frzrd _ _ => true
  | .frzwr _ _ => true
  | .segres _ _ => true
  | .segrpl _ _ => true
  | .segkill _ _ => true
  | .launch w => w.ok 0x01 0
  | .waitge w v => w.ok 0x02 v
  | .signal w v => w.ok 0x03 v
  | .semset w v => w.ok 0x04 v
  | .copyq w => w.ok 0x05 0
  | .jmp w => w.ok 0x06 0
  | .loop w => w.ok 0x07 0
  | .irq w => w.ok 0x08 0
  | .dfence w => w.ok 0x09 0
  | .prio w => w.ok 0x0A 0
  | .handoff w v => w.ok 0x0B v
  | .balloc w v => w.ok 0x0C v
  | .bfree w => w.ok 0x0D 0
  | .flushr w => w.ok 0x0E 0
  | .invr w => w.ok 0x0F 0
  | .fwdr w => w.ok 0x10 0
  | .dhalt w => w.ok 0x11 0
  | .doorbell _ => true
  | .qcfgWrite _ => true
  | .semaphoreWrite _ => true
  | .preemptRestore _ => true
  | .prqHeadWrite _ => true
  | .stateRestore _ => true
  | .cfgerrReload _ _ => true
  | .spareMismatch _ => true
  | .scrubLine _ => true
  | .relatchGo _ => true
  | .scanoutRestore _ => true
  | .promoteGo _ => true
  | .hpcHeadWrite _ => true
  | .hpcRelease _ => true
  | .copyBytesLand _ _ => true
  | .copyFault _ => true
  | .commWrite _ _ _ => true
  | .enclosureAbort _ _ _ => true
  | .ufstatusRet _ => true
  | .handlerInstall _ => true
  | .handlerHwerr _ => true
  | .tctlWrite _ => true
  | .dumpGo _ => true
  | .boot _ => true
  | .isleReset _ => true
  | .flitReceive _ _ => true
  | .hostAccess _ => true
  | .dmiAccess _ _ => true
  | .negotiateAlgorithms _ => true
  | .getCertificate _ _ _ => true
  | .finish _ _ _ => true
  | .spdmUnsupportedRequest _ => true
  | .accreset _ _ => true
  | .registerWrite _ _ _ _ => true
  | .linkPortUp _ _ _ => true
  | .hartLoadStore _ => true
  | .skerryIllegalInstruction w => skerryIllegalWord w
  | .unassignedDockOp _ op => decide (op.toNat = 0 ∨ 0x12 ≤ op.toNat)
  | .blockedWordResume  => true
  | .waitgeSatisfied  => true
  | .queueGo  => true
  | .queueStop  => true
  | .semaphoreMessageReceive  => true
  | .semaphoreAnswerReceive  => true
  | .semaphoreMessageTimeout  => true
  | .ringPlace  => true
  | .runDeal  => true
  | .taskComplete  => true
  | .edgeInvActions  => true
  | .edgeEndActions  => true
  | .preempt  => true
  | .markerGateFire  => true
  | .bStageIntake  => true
  | .mmaStart  => true
  | .mmaFoldLand  => true
  | .wharfRequestIssue  => true
  | .replyLand  => true
  | .ldsWake  => true
  | .wcLineDrain  => true
  | .atomicApply  => true
  | .repairReentry  => true
  | .inputPortDeliver  => true
  | .outputPortWrite  => true
  | .mbxActionWrite  => true
  | .mbxObservationDeliver  => true
  | .stagingConfigure  => true
  | .stripeResident  => true
  | .stripeEvict  => true
  | .statefulSave  => true
  | .passBufferReplay  => true
  | .configCacheFill  => true
  | .stall  => true
  | .freezeStop  => true
  | .handlerRecordWrite  => true
  | .commitStop  => true
  | .containmentSequence  => true
  | .spareMove  => true
  | .spareReplace  => true
  | .stripeDisable  => true
  | .healthThresholdCross  => true
  | .vholdExpire  => true
  | .relatchComplete  => true
  | .promoteComplete  => true
  | .copyResume  => true
  | .copyTimeout  => true
  | .bwaitWake  => true
  | .collFlitReceive  => true
  | .collComplete  => true
  | .cwaitWake  => true
  | .collAbortReceive  => true
  | .coltoutExpire  => true
  | .heartbeatSend  => true
  | .suspectTimeout  => true
  | .fatalReportReceive  => true
  | .suspectReceive  => true
  | .proposeReceive  => true
  | .ackReceive  => true
  | .proposeTimerExpire  => true
  | .preparedTimerExpire  => true
  | .commitReceive  => true
  | .joinSend  => true
  | .joinReceive  => true
  | .bindingPromote  => true
  | .watchdogCycleExpire  => true
  | .watchdogRoundtripExpire  => true
  | .abortRecordQueue  => true
  | .userTrap  => true
  | .futldWake  => true
  | .traceSample  => true
  | .cutRecord  => true
  | .dumpWrite  => true
  | .dumpFinish  => true
  | .powerLoss  => true
  | .thermalThrottle  => true
  | .thermalTrip  => true
  | .linkPortDown  => true
  | .mrExtend  => true
  | .getVersion  => true
  | .getCapabilities  => true
  | .getDigests  => true
  | .challenge  => true
  | .getMeasurements  => true
  | .keyExchange  => true
  | .endSession  => true
  | .accountingClear  => true
  | .heartbeatReceive  => true
  | .throtClear  => true
  | .mmaOccupancyEnd  => true

end Sys2Proof
end

