-- ==== Sys2Proof/Decode.lean ====
section
/-! DEFINITION. Decoding and encoding of the three encoded instruction sets: rule words (02 R24 to R40),
skerry custom words (R53, R54) and dock words (R50, R51). Each field is taken out here, once. -/

namespace Sys2Proof

/-- Why a 32-bit word is no rule (R25, R28, R40, R49): the names follow the causes of a CONFIG fault. -/
inductive DecodeErr where
  /-- T = 0x3F: the slot is empty (R25). -/
  | emptySlot
  /-- T = 0x20 to 0x3D (cause 0x06). -/
  | reservedSelector
  /-- Majors 0x79 to 0x7F (cause 0x03). -/
  | unassignedMajor
  /-- A family sub-code that R40 does not assign (cause 0x05). -/
  | unassignedSubcode
  /-- A field that the map marks 0 is not 0 (cause 0x04). -/
  | reservedField
  /-- An operand code or subfield illegal in its position (cause 0x07). -/
  | illegalOperand
  /-- A scope code of 0 or 7 (cause 0x0C). -/
  | scopeCode
  deriving DecidableEq, Repr

/-- Field `[lo + n - 1 : lo]` of a word as a bit vector. -/
def bv (w lo n : Nat) : BitVec n := BitVec.ofNat n (fld w lo n)

/-- A bit as a number. -/
def b2n (b : Bool) : Nat := if b then 1 else 0

/-- The fields of `FmtDA` in a word. -/
def FmtDA.dec (w : Nat) : FmtDA := ⟨bv w 14 5, bv w 9 5⟩

/-- The fields of `FmtDA` put in place. -/
def FmtDA.enc (o : FmtDA) : Nat := o.d.toNat * 2 ^ 14 + o.a.toNat * 2 ^ 9

/-- The fields of `FmtABM` in a word. -/
def FmtABM.dec (w : Nat) : FmtABM := ⟨bv w 14 5, bv w 9 5, bv w 4 5, bitN w 3, bitN w 2, bv w 0 2⟩

/-- The fields of `FmtABM` put in place. -/
def FmtABM.enc (o : FmtABM) : Nat := o.d.toNat * 2 ^ 14 + o.a.toNat * 2 ^ 9 + o.b.toNat * 2 ^ 4 + b2n o.ka * 2 ^ 3 + b2n o.kb * 2 ^ 2 + o.m.toNat * 2 ^ 0

/-- The fields of `FmtVBM` in a word. -/
def FmtVBM.dec (w : Nat) : FmtVBM := ⟨bv w 14 4, bv w 9 5, bv w 4 5, bitN w 3, bitN w 2, bv w 0 2⟩

/-- The fields of `FmtVBM` put in place. -/
def FmtVBM.enc (o : FmtVBM) : Nat := o.d.toNat * 2 ^ 14 + o.a.toNat * 2 ^ 9 + o.b.toNat * 2 ^ 4 + b2n o.ka * 2 ^ 3 + b2n o.kb * 2 ^ 2 + o.m.toNat * 2 ^ 0

/-- The fields of `FmtAM` in a word. -/
def FmtAM.dec (w : Nat) : FmtAM := ⟨bv w 14 5, bv w 9 5, bitN w 3, bv w 0 2⟩

/-- The fields of `FmtAM` put in place. -/
def FmtAM.enc (o : FmtAM) : Nat := o.d.toNat * 2 ^ 14 + o.a.toNat * 2 ^ 9 + b2n o.ka * 2 ^ 3 + o.m.toNat * 2 ^ 0

/-- The fields of `FmtPB` in a word. -/
def FmtPB.dec (w : Nat) : FmtPB := ⟨bv w 14 3, bv w 9 5, bv w 4 5, bitN w 3, bitN w 2⟩

/-- The fields of `FmtPB` put in place. -/
def FmtPB.enc (o : FmtPB) : Nat := o.d.toNat * 2 ^ 14 + o.a.toNat * 2 ^ 9 + o.b.toNat * 2 ^ 4 + b2n o.ka * 2 ^ 3 + b2n o.kb * 2 ^ 2

/-- The fields of `FmtI` in a word. -/
def FmtI.dec (w : Nat) : FmtI := ⟨bv w 14 5, bv w 9 5, bv w 1 8, bitN w 0⟩

/-- The fields of `FmtI` put in place. -/
def FmtI.enc (o : FmtI) : Nat := o.d.toNat * 2 ^ 14 + o.a.toNat * 2 ^ 9 + o.imm.toNat * 2 ^ 1 + b2n o.ka * 2 ^ 0

/-- The fields of `FmtM` in a word. -/
def FmtM.dec (w : Nat) : FmtM := ⟨bv w 14 5, bv w 9 5, bv w 7 2, bv w 3 4, bv w 1 2, bitN w 0⟩

/-- The fields of `FmtM` put in place. -/
def FmtM.enc (o : FmtM) : Nat := o.d.toNat * 2 ^ 14 + o.a.toNat * 2 ^ 9 + o.ch.toNat * 2 ^ 7 + o.pos.toNat * 2 ^ 3 + o.sz.toNat * 2 ^ 1 + b2n o.ka * 2 ^ 0

/-- The fields of `FmtML` in a word. -/
def FmtML.dec (w : Nat) : FmtML := ⟨bv w 9 5, bv w 7 2, bv w 3 4, bitN w 0⟩

/-- The fields of `FmtML` put in place. -/
def FmtML.enc (o : FmtML) : Nat := o.a.toNat * 2 ^ 9 + o.ch.toNat * 2 ^ 7 + o.pos.toNat * 2 ^ 3 + b2n o.ka * 2 ^ 0

/-- The fields of `FmtMG` in a word. -/
def FmtMG.dec (w : Nat) : FmtMG := ⟨bv w 14 5, bitN w 9, bv w 7 2, bv w 3 4, bv w 1 2⟩

/-- The fields of `FmtMG` put in place. -/
def FmtMG.enc (o : FmtMG) : Nat := o.d.toNat * 2 ^ 14 + b2n o.g * 2 ^ 9 + o.ch.toNat * 2 ^ 7 + o.pos.toNat * 2 ^ 3 + o.sz.toNat * 2 ^ 1

/-- The fields of `FmtAt` in a word. -/
def FmtAt.dec (w : Nat) : FmtAt := ⟨bitN w 18, bv w 15 3, bv w 9 5, bv w 4 5⟩

/-- The fields of `FmtAt` put in place. -/
def FmtAt.enc (o : FmtAt) : Nat := b2n o.rpl * 2 ^ 18 + o.y.toNat * 2 ^ 15 + o.a.toNat * 2 ^ 9 + o.b.toNat * 2 ^ 4

/-- The fields of `FmtCpy` in a word. -/
def FmtCpy.dec (w : Nat) : FmtCpy := ⟨bv w 14 5, bv w 9 4, bv w 4 5⟩

/-- The fields of `FmtCpy` put in place. -/
def FmtCpy.enc (o : FmtCpy) : Nat := o.d.toNat * 2 ^ 14 + o.a.toNat * 2 ^ 9 + o.b.toNat * 2 ^ 4

/-- The fields of `FmtDAB` in a word. -/
def FmtDAB.dec (w : Nat) : FmtDAB := ⟨bv w 14 5, bv w 9 5, bv w 4 5⟩

/-- The fields of `FmtDAB` put in place. -/
def FmtDAB.enc (o : FmtDAB) : Nat := o.d.toNat * 2 ^ 14 + o.a.toNat * 2 ^ 9 + o.b.toNat * 2 ^ 4

/-- The fields of `FmtColl` in a word. -/
def FmtColl.dec (w : Nat) : FmtColl := ⟨bv w 14 5, bv w 9 4⟩

/-- The fields of `FmtColl` put in place. -/
def FmtColl.enc (o : FmtColl) : Nat := o.d.toNat * 2 ^ 14 + o.a.toNat * 2 ^ 9

/-- The fields of `FmtMma` in a word. -/
def FmtMma.dec (w : Nat) : FmtMma := ⟨bv w 16 3, bv w 12 4, bv w 10 2, bitN w 4⟩

/-- The fields of `FmtMma` put in place. -/
def FmtMma.enc (o : FmtMma) : Nat := o.t.toNat * 2 ^ 16 + o.pl.toNat * 2 ^ 12 + o.ch.toNat * 2 ^ 10 + b2n o.zero * 2 ^ 4

/-- The fields of `FmtPlw` in a word. -/
def FmtPlw.dec (w : Nat) : FmtPlw := ⟨bv w 12 4, bv w 10 2, bv w 6 4, bitN w 3⟩

/-- The fields of `FmtPlw` put in place. -/
def FmtPlw.enc (o : FmtPlw) : Nat := o.pl.toNat * 2 ^ 12 + o.ch.toNat * 2 ^ 10 + o.row.toNat * 2 ^ 6 + b2n o.k * 2 ^ 3

/-- The fields of `FmtPlws` in a word. -/
def FmtPlws.dec (w : Nat) : FmtPlws := ⟨bv w 12 4, bv w 10 2, bv w 6 4, bv w 4 2, bitN w 3⟩

/-- The fields of `FmtPlws` put in place. -/
def FmtPlws.enc (o : FmtPlws) : Nat := o.pl.toNat * 2 ^ 12 + o.ch.toNat * 2 ^ 10 + o.row.toNat * 2 ^ 6 + o.sp.toNat * 2 ^ 4 + b2n o.k * 2 ^ 3

/-- The fields of `FmtScld` in a word. -/
def FmtScld.dec (w : Nat) : FmtScld := ⟨bv w 12 4, bv w 10 2, bitN w 4, bitN w 3⟩

/-- The fields of `FmtScld` put in place. -/
def FmtScld.enc (o : FmtScld) : Nat := o.pl.toNat * 2 ^ 12 + o.ch.toNat * 2 ^ 10 + b2n o.bsc * 2 ^ 4 + b2n o.k * 2 ^ 3

/-- The fields of `FmtAccrd` in a word. -/
def FmtAccrd.dec (w : Nat) : FmtAccrd := ⟨bv w 16 3, bv w 10 2, bv w 6 4, bitN w 5, bitN w 4⟩

/-- The fields of `FmtAccrd` put in place. -/
def FmtAccrd.enc (o : FmtAccrd) : Nat := o.t.toNat * 2 ^ 16 + o.ch.toNat * 2 ^ 10 + o.ty.toNat * 2 ^ 6 + b2n o.sat * 2 ^ 5 + b2n o.clr * 2 ^ 4

/-- The fields of `FmtAccwr` in a word. -/
def FmtAccwr.dec (w : Nat) : FmtAccwr := ⟨bv w 16 3, bv w 10 2, bv w 6 4, bitN w 3⟩

/-- The fields of `FmtAccwr` put in place. -/
def FmtAccwr.enc (o : FmtAccwr) : Nat := o.t.toNat * 2 ^ 16 + o.ch.toNat * 2 ^ 10 + o.ty.toNat * 2 ^ 6 + b2n o.k * 2 ^ 3

/-- The fields of `FmtSteer` in a word. -/
def FmtSteer.dec (w : Nat) : FmtSteer := ⟨bv w 14 2, bv w 9 5, bv w 7 2, bv w 4 3, bitN w 3⟩

/-- The fields of `FmtSteer` put in place. -/
def FmtSteer.enc (o : FmtSteer) : Nat := o.d.toNat * 2 ^ 14 + o.a.toNat * 2 ^ 9 + o.f.toNat * 2 ^ 7 + o.p.toNat * 2 ^ 4 + b2n o.ka * 2 ^ 3

/-- The fields of `FmtMerge` in a word. -/
def FmtMerge.dec (w : Nat) : FmtMerge := ⟨bv w 14 5, bv w 9 2, bv w 4 2, bv w 0 2⟩

/-- The fields of `FmtMerge` put in place. -/
def FmtMerge.enc (o : FmtMerge) : Nat := o.d.toNat * 2 ^ 14 + o.a.toNat * 2 ^ 9 + o.b.toNat * 2 ^ 4 + o.m.toNat * 2 ^ 0

/-- The fields of `FmtSplit` in a word. -/
def FmtSplit.dec (w : Nat) : FmtSplit := ⟨bitN w 18, bv w 14 4, bv w 9 5, bv w 4 5, bitN w 3, bitN w 2⟩

/-- The fields of `FmtSplit` put in place. -/
def FmtSplit.enc (o : FmtSplit) : Nat := b2n o.c * 2 ^ 18 + o.mask.toNat * 2 ^ 14 + o.a.toNat * 2 ^ 9 + o.b.toNat * 2 ^ 4 + b2n o.ka * 2 ^ 3 + b2n o.kb * 2 ^ 2

/-- The fields of `FmtPick` in a word. -/
def FmtPick.dec (w : Nat) : FmtPick := ⟨bv w 14 5, bv w 9 5, bv w 5 4, bitN w 3⟩

/-- The fields of `FmtPick` put in place. -/
def FmtPick.enc (o : FmtPick) : Nat := o.d.toNat * 2 ^ 14 + o.a.toNat * 2 ^ 9 + o.mask.toNat * 2 ^ 5 + b2n o.ka * 2 ^ 3

/-- The fields of `FmtCntb` in a word. -/
def FmtCntb.dec (w : Nat) : FmtCntb := ⟨bitN w 14, bv w 9 5, bitN w 4, bitN w 3⟩

/-- The fields of `FmtCntb` put in place. -/
def FmtCntb.enc (o : FmtCntb) : Nat := b2n o.k * 2 ^ 14 + o.a.toNat * 2 ^ 9 + b2n o.outer * 2 ^ 4 + b2n o.ka * 2 ^ 3

/-- The fields of `FmtRep` in a word. -/
def FmtRep.dec (w : Nat) : FmtRep := ⟨bv w 14 2, bv w 9 5, bv w 4 5, bitN w 3, bitN w 2⟩

/-- The fields of `FmtRep` put in place. -/
def FmtRep.enc (o : FmtRep) : Nat := o.d.toNat * 2 ^ 14 + o.a.toNat * 2 ^ 9 + o.b.toNat * 2 ^ 4 + b2n o.ka * 2 ^ 3 + b2n o.kb * 2 ^ 2

/-- The fields of `FmtPlog` in a word. -/
def FmtPlog.dec (w : Nat) : FmtPlog := ⟨bv w 14 3, bv w 9 3, bv w 4 3, bv w 0 4⟩

/-- The fields of `FmtPlog` put in place. -/
def FmtPlog.enc (o : FmtPlog) : Nat := o.d.toNat * 2 ^ 14 + o.a.toNat * 2 ^ 9 + o.b.toNat * 2 ^ 4 + o.f.toNat * 2 ^ 0

/-- The fields of `FmtShi` in a word. -/
def FmtShi.dec (w : Nat) : FmtShi := ⟨bv w 14 5, bv w 9 5, bv w 7 2, bv w 2 5, bitN w 0⟩

/-- The fields of `FmtShi` put in place. -/
def FmtShi.enc (o : FmtShi) : Nat := o.d.toNat * 2 ^ 14 + o.a.toNat * 2 ^ 9 + o.k.toNat * 2 ^ 7 + o.n.toNat * 2 ^ 2 + b2n o.ka * 2 ^ 0

/-- The fields of `FmtSel` in a word. -/
def FmtSel.dec (w : Nat) : FmtSel := ⟨bv w 14 5, bv w 9 5, bv w 4 5, bitN w 3, bitN w 2, bv w 0 2⟩

/-- The fields of `FmtSel` put in place. -/
def FmtSel.enc (o : FmtSel) : Nat := o.d.toNat * 2 ^ 14 + o.a.toNat * 2 ^ 9 + o.b.toNat * 2 ^ 4 + b2n o.ka * 2 ^ 3 + b2n o.kb * 2 ^ 2 + o.p.toNat * 2 ^ 0

/-- The fields of `FmtBcast` in a word. -/
def FmtBcast.dec (w : Nat) : FmtBcast := ⟨bv w 14 5, bv w 9 5, bv w 1 4, bitN w 0⟩

/-- The fields of `FmtBcast` put in place. -/
def FmtBcast.enc (o : FmtBcast) : Nat := o.d.toNat * 2 ^ 14 + o.a.toNat * 2 ^ 9 + o.lane.toNat * 2 ^ 1 + b2n o.ka * 2 ^ 0

/-- The fields of `FmtCvt` in a word. -/
def FmtCvt.dec (w : Nat) : FmtCvt := ⟨bv w 14 5, bv w 9 5, bv w 5 4, bv w 1 4, bitN w 0⟩

/-- The fields of `FmtCvt` put in place. -/
def FmtCvt.enc (o : FmtCvt) : Nat := o.d.toNat * 2 ^ 14 + o.a.toNat * 2 ^ 9 + o.from_.toNat * 2 ^ 5 + o.to_.toNat * 2 ^ 1 + b2n o.sat * 2 ^ 0

/-- The fields of `FmtCvtmx` in a word. -/
def FmtCvtmx.dec (w : Nat) : FmtCvtmx := ⟨bv w 14 5, bv w 9 5, bv w 4 5, bitN w 3, bv w 0 3⟩

/-- The fields of `FmtCvtmx` put in place. -/
def FmtCvtmx.enc (o : FmtCvtmx) : Nat := o.d.toNat * 2 ^ 14 + o.a.toNat * 2 ^ 9 + o.b.toNat * 2 ^ 4 + b2n o.sat * 2 ^ 3 + o.to_.toNat * 2 ^ 0

/-- The fields of `FmtUnpmx` in a word. -/
def FmtUnpmx.dec (w : Nat) : FmtUnpmx := ⟨bv w 14 5, bv w 9 5, bv w 4 5, bv w 0 3⟩

/-- The fields of `FmtUnpmx` put in place. -/
def FmtUnpmx.enc (o : FmtUnpmx) : Nat := o.d.toNat * 2 ^ 14 + o.a.toNat * 2 ^ 9 + o.b.toNat * 2 ^ 4 + o.from_.toNat * 2 ^ 0

/-- The fields of `FmtFpack` in a word. -/
def FmtFpack.dec (w : Nat) : FmtFpack := ⟨bv w 14 4, bv w 9 5, bv w 6 3, bv w 0 4⟩

/-- The fields of `FmtFpack` put in place. -/
def FmtFpack.enc (o : FmtFpack) : Nat := o.d.toNat * 2 ^ 14 + o.a.toNat * 2 ^ 9 + o.part.toNat * 2 ^ 6 + o.to_.toNat * 2 ^ 0

/-- The fields of `FmtFunpk` in a word. -/
def FmtFunpk.dec (w : Nat) : FmtFunpk := ⟨bv w 14 5, bv w 9 5, bv w 6 3, bv w 0 4⟩

/-- The fields of `FmtFunpk` put in place. -/
def FmtFunpk.enc (o : FmtFunpk) : Nat := o.d.toNat * 2 ^ 14 + o.a.toNat * 2 ^ 9 + o.part.toNat * 2 ^ 6 + o.from_.toNat * 2 ^ 0

/-- The instruction whose fields stand in a word of this major and sub-code, or why there is none: the fields
that the row marks 0 must be 0 (R28). -/
def rawRule (w : Nat) : Except DecodeErr Instr :=
  let t := bv w 26 6
  match fld w 19 7 with
  | 0x00 => if fld w 0 19 == 0 then .ok (.nop t ) else .error .reservedField
  | 0x01 => if fld w 0 9 == 0 then .ok (.mov t (.dec w)) else .error .reservedField
  | 0x02 => if fld w 0 9 == 0 && fld w 11 8 == 4 then .ok (.drop t (bv w 9 2)) else .error .reservedField
  | 0x03 => if fld w 0 14 == 0 && fld w 16 3 == 5 then .ok (.null_ t (bv w 14 2)) else .error .reservedField
  | 0x04 => if fld w 0 3 == 0 && fld w 16 3 == 5 then .ok (.steer t (.dec w)) else .error .reservedField
  | 0x05 => if fld w 2 2 == 0 && fld w 6 3 == 4 && fld w 11 3 == 4 then .ok (.merge t (.dec w)) else .error .reservedField
  | 0x06 => if fld w 0 2 == 0 then .ok (.split4 t (.dec w)) else .error .reservedField
  | 0x07 => if fld w 0 3 == 0 && fld w 4 1 == 0 then .ok (.pick4 t (.dec w)) else .error .reservedField
  | 0x08 => if fld w 1 13 == 1 then .ok (.emit t (bv w 14 5) (bitN w 0)) else .error .reservedField
  | 0x09 => if fld w 1 13 == 0 && fld w 15 4 == 0 then .ok (.cnt t (bitN w 14) (bitN w 0)) else .error .reservedField
  | 0x0A => if fld w 0 3 == 0 && fld w 5 4 == 0 && fld w 15 4 == 0 then .ok (.cntb t (.dec w)) else .error .reservedField
  | 0x0B => if fld w 0 2 == 0 && fld w 16 3 == 5 then .ok (.rep t (.dec w)) else .error .reservedField
  | 0x0C => .ok (.seqt t (.dec w))
  | 0x0D => if fld w 0 9 == 0 && fld w 11 3 == 4 then .ok (.reord t (bv w 14 5) (bv w 9 2)) else .error .reservedField
  | 0x0E => if fld w 1 18 == 0 then .ok (.sig t (bitN w 0)) else .error .reservedField
  | 0x0F => if fld w 0 9 == 0 then .ok (.gate t (.dec w)) else .error .reservedField
  | 0x10 => if fld w 7 2 == 0 && fld w 12 2 == 0 && fld w 17 2 == 0 then .ok (.plog t (.dec w)) else .error .reservedField
  | 0x11 => if fld w 0 9 == 0 && fld w 17 2 == 0 then .ok (.pset t (bv w 14 3) (bv w 9 5)) else .error .reservedField
  | 0x12 => if fld w 0 14 == 0 then .ok (.slots t (bv w 14 5)) else .error .reservedField
  | 0x13 => .ok (.add t (.dec w))
  | 0x14 => .ok (.sub t (.dec w))
  | 0x15 => .ok (.addi t (.dec w))
  | 0x16 => .ok (.adds t (.dec w))
  | 0x17 => .ok (.subs t (.dec w))
  | 0x18 => .ok (.mull t (.dec w))
  | 0x19 => .ok (.mulh t (.dec w))
  | 0x1A => .ok (.mulhu t (.dec w))
  | 0x1B => if fld w 18 1 == 0 then .ok (.mad t (.dec w)) else .error .reservedField
  | 0x1C => .ok (.and_ t (.dec w))
  | 0x1D => .ok (.or_ t (.dec w))
  | 0x1E => .ok (.xor_ t (.dec w))
  | 0x1F => .ok (.andn t (.dec w))
  | 0x20 => .ok (.shl t (.dec w))
  | 0x21 => .ok (.shr t (.dec w))
  | 0x22 => .ok (.sra t (.dec w))
  | 0x23 => if fld w 1 1 == 0 then .ok (.shi t (.dec w)) else .error .reservedField
  | 0x24 => .ok (.min_ t (.dec w))
  | 0x25 => .ok (.max_ t (.dec w))
  | 0x26 => .ok (.minu t (.dec w))
  | 0x27 => .ok (.maxu t (.dec w))
  | 0x28 => if fld w 2 1 == 0 && fld w 4 5 == 0 then .ok (.abs_ t (.dec w)) else .error .reservedField
  | 0x29 => if fld w 2 1 == 0 && fld w 4 5 == 0 then .ok (.clz t (.dec w)) else .error .reservedField
  | 0x2A => if fld w 2 1 == 0 && fld w 4 5 == 0 then .ok (.popc t (.dec w)) else .error .reservedField
  | 0x2B => .ok (.sel t (.dec w))
  | 0x2C => if fld w 0 2 == 0 && fld w 17 2 == 0 then .ok (.cmpeq t (.dec w)) else .error .reservedField
  | 0x2D => if fld w 0 2 == 0 && fld w 17 2 == 0 then .ok (.cmpne t (.dec w)) else .error .reservedField
  | 0x2E => if fld w 0 2 == 0 && fld w 17 2 == 0 then .ok (.cmplt t (.dec w)) else .error .reservedField
  | 0x2F => if fld w 0 2 == 0 && fld w 17 2 == 0 then .ok (.cmple t (.dec w)) else .error .reservedField
  | 0x30 => if fld w 0 2 == 0 && fld w 17 2 == 0 then .ok (.cmpltu t (.dec w)) else .error .reservedField
  | 0x31 => if fld w 0 2 == 0 && fld w 17 2 == 0 then .ok (.cmpleu t (.dec w)) else .error .reservedField
  | 0x32 => if fld w 18 1 == 0 then .ok (.li t (bv w 14 4) (bv w 0 14)) else .error .reservedField
  | 0x33 => if fld w 18 1 == 0 then .ok (.lui t (bv w 14 4) (bv w 0 14)) else .error .reservedField
  | 0x34 => .ok (.bfx t (.dec w))
  | 0x35 => if fld w 18 1 == 0 then .ok (.bfi t (.dec w)) else .error .reservedField
  | 0x36 => .ok (.divu t (.dec w))
  | 0x37 => .ok (.remu t (.dec w))
  | 0x38 => if fld w 5 4 == 0 then .ok (.bcast t (.dec w)) else .error .reservedField
  | 0x39 => .ok (.perm t (.dec w))
  | 0x3A => .ok (.slide t (.dec w))
  | 0x3B => if fld w 2 1 == 0 && fld w 4 5 == 0 then .ok (.redadd t (.dec w)) else .error .reservedField
  | 0x3C => if fld w 2 1 == 0 && fld w 4 5 == 0 then .ok (.redmax t (.dec w)) else .error .reservedField
  | 0x3D => if fld w 2 1 == 0 && fld w 4 5 == 0 then .ok (.redmin t (.dec w)) else .error .reservedField
  | 0x3E => if fld w 2 1 == 0 && fld w 4 5 == 0 then .ok (.scan t (.dec w)) else .error .reservedField
  | 0x3F => .ok (.fadd t (.dec w))
  | 0x40 => .ok (.fsub t (.dec w))
  | 0x41 => .ok (.fmul t (.dec w))
  | 0x42 => if fld w 18 1 == 0 then .ok (.ffma t (.dec w)) else .error .reservedField
  | 0x43 => if fld w 18 1 == 0 then .ok (.ffms t (.dec w)) else .error .reservedField
  | 0x44 => if fld w 18 1 == 0 then .ok (.fnma t (.dec w)) else .error .reservedField
  | 0x45 => .ok (.fmin t (.dec w))
  | 0x46 => .ok (.fmax t (.dec w))
  | 0x47 => if fld w 2 1 == 0 && fld w 4 5 == 0 then .ok (.fabs t (.dec w)) else .error .reservedField
  | 0x48 => if fld w 2 1 == 0 && fld w 4 5 == 0 then .ok (.fneg t (.dec w)) else .error .reservedField
  | 0x49 => if fld w 0 2 == 0 && fld w 17 2 == 0 then .ok (.fcmpeq t (.dec w)) else .error .reservedField
  | 0x4A => if fld w 0 2 == 0 && fld w 17 2 == 0 then .ok (.fcmplt t (.dec w)) else .error .reservedField
  | 0x4B => if fld w 0 2 == 0 && fld w 17 2 == 0 then .ok (.fcmple t (.dec w)) else .error .reservedField
  | 0x4C => if fld w 0 2 == 0 && fld w 17 2 == 0 then .ok (.fcmpun t (.dec w)) else .error .reservedField
  | 0x4D => .ok (.fdiv t (.dec w))
  | 0x4E => if fld w 2 1 == 0 && fld w 4 5 == 0 then .ok (.fsqrt t (.dec w)) else .error .reservedField
  | 0x4F => if fld w 2 1 == 0 && fld w 4 5 == 0 then .ok (.frcp t (.dec w)) else .error .reservedField
  | 0x50 => if fld w 2 1 == 0 && fld w 4 5 == 0 then .ok (.frsq t (.dec w)) else .error .reservedField
  | 0x51 => if fld w 2 1 == 0 && fld w 4 5 == 0 then .ok (.fexp2 t (.dec w)) else .error .reservedField
  | 0x52 => if fld w 2 1 == 0 && fld w 4 5 == 0 then .ok (.flog2 t (.dec w)) else .error .reservedField
  | 0x53 => if fld w 2 1 == 0 && fld w 4 5 == 0 then .ok (.ftanh t (.dec w)) else .error .reservedField
  | 0x54 => if fld w 2 1 == 0 && fld w 4 5 == 0 then .ok (.fsigm t (.dec w)) else .error .reservedField
  | 0x55 => if fld w 2 1 == 0 && fld w 4 5 == 0 then .ok (.fclass t (.dec w)) else .error .reservedField
  | 0x56 => if fld w 2 1 == 0 && fld w 4 5 == 0 then .ok (.frnd t (.dec w)) else .error .reservedField
  | 0x57 => .ok (.fscale t (.dec w))
  | 0x58 => .ok (.cvt t (.dec w))
  | 0x59 => .ok (.cvtmx t (.dec w))
  | 0x5A => if fld w 3 1 == 0 then .ok (.unpmx t (.dec w)) else .error .reservedField
  | 0x5B => if fld w 4 2 == 0 && fld w 18 1 == 0 then .ok (.fpack t (.dec w)) else .error .reservedField
  | 0x5C => if fld w 4 2 == 0 then .ok (.funpk t (.dec w)) else .error .reservedField
  | 0x5D => if fld w 0 3 == 0 && fld w 4 2 == 0 && fld w 16 3 == 0 then .ok (.plw t (.dec w)) else .error .reservedField
  | 0x5E => if fld w 0 3 == 0 && fld w 16 3 == 0 then .ok (.plws t (.dec w)) else .error .reservedField
  | 0x5F => if fld w 0 12 == 0 && fld w 16 3 == 0 then .ok (.plclr t (bv w 12 4)) else .error .reservedField
  | 0x60 => if fld w 0 3 == 0 && fld w 5 5 == 0 && fld w 16 3 == 0 then .ok (.scld t (.dec w)) else .error .reservedField
  | 0x61 => if fld w 0 4 == 0 && fld w 5 5 == 0 then .ok (.mma t (.dec w)) else .error .reservedField
  | 0x62 => if fld w 0 4 == 0 && fld w 5 5 == 0 then .ok (.mmas t (.dec w)) else .error .reservedField
  | 0x63 => if fld w 0 4 == 0 && fld w 12 4 == 0 then .ok (.accrd t (.dec w)) else .error .reservedField
  | 0x64 => if fld w 0 3 == 0 && fld w 4 2 == 0 && fld w 12 4 == 0 then .ok (.accwr t (.dec w)) else .error .reservedField
  | 0x65 => if fld w 0 16 == 0 then .ok (.accclr t (bv w 16 3)) else .error .reservedField
  | 0x66 => if fld w 0 4 == 0 && fld w 6 4 == 0 && fld w 12 7 == 0 then .ok (.mfwd t (bv w 10 2) (bv w 4 2)) else .error .reservedField
  | 0x67 => .ok (.ld t (.dec w))
  | 0x68 => if fld w 17 2 == 0 then .ok (.ldq t (bv w 14 3) (bv w 9 5) (bv w 7 2) (bv w 3 4) (bv w 1 2) (bitN w 0)) else .error .reservedField
  | 0x69 => .ok (.st t (.dec w))
  | 0x6A => .ok (.lds t (.dec w))
  | 0x6B => .ok (.stf t (.dec w))
  | 0x6C => .ok (.sto t (.dec w))
  | 0x6D => if fld w 1 2 == 0 && fld w 14 5 == 0 then .ok (.sete t (.dec w)) else .error .reservedField
  | 0x6E => if fld w 1 2 == 0 && fld w 14 5 == 0 then .ok (.pfx t (.dec w)) else .error .reservedField
  | 0x6F => if fld w 0 1 == 0 && fld w 10 4 == 0 then .ok (.srd t (.dec w)) else .error .reservedField
  | 0x70 => if fld w 0 1 == 0 && fld w 10 4 == 0 then .ok (.swr t (.dec w)) else .error .reservedField
  | 0x71 => if fld w 15 4 == 0 then .ok (.agn t (bitN w 14) (bv w 0 14)) else .error .reservedField
  | 0x72 => if fld w 3 16 == 0 then .ok (.fence t (bv w 0 3)) else .error .reservedField
  | 0x73 =>
    match fld w 0 4 with
    | 0x0 => if fld w 14 1 == 0 then .ok (.aadd t (.dec w)) else .error .reservedField
    | 0x1 => if fld w 14 1 == 0 then .ok (.amin t (.dec w)) else .error .reservedField
    | 0x2 => if fld w 14 1 == 0 then .ok (.amax t (.dec w)) else .error .reservedField
    | 0x3 => if fld w 14 1 == 0 then .ok (.aminu t (.dec w)) else .error .reservedField
    | 0x4 => if fld w 14 1 == 0 then .ok (.amaxu t (.dec w)) else .error .reservedField
    | 0x5 => if fld w 14 1 == 0 then .ok (.aand t (.dec w)) else .error .reservedField
    | 0x6 => if fld w 14 1 == 0 then .ok (.aor t (.dec w)) else .error .reservedField
    | 0x7 => if fld w 14 1 == 0 then .ok (.axor t (.dec w)) else .error .reservedField
    | 0x8 => if fld w 14 1 == 0 then .ok (.axchg t (.dec w)) else .error .reservedField
    | 0x9 => if fld w 4 1 == 0 && fld w 8 1 == 0 && fld w 14 1 == 0 then .ok (.acas t (bitN w 18) (bv w 15 3) (bv w 9 5) (bv w 5 3)) else .error .reservedField
    | 0xA => if fld w 14 1 == 0 then .ok (.afadd t (.dec w)) else .error .reservedField
    | 0xB => if fld w 14 1 == 0 then .ok (.afmin t (.dec w)) else .error .reservedField
    | 0xC => if fld w 14 1 == 0 then .ok (.afmax t (.dec w)) else .error .reservedField
    | 0xD => if fld w 14 1 == 0 then .ok (.aincw t (.dec w)) else .error .reservedField
    | _ => .error .unassignedSubcode
  | 0x74 =>
    match fld w 0 4 with
    | 0x0 => if fld w 13 1 == 0 then .ok (.cpy1 t (.dec w)) else .error .reservedField
    | 0x1 => if fld w 13 1 == 0 then .ok (.cpy2 t (.dec w)) else .error .reservedField
    | 0x2 => if fld w 13 1 == 0 then .ok (.cpyg t (.dec w)) else .error .reservedField
    | 0x3 => if fld w 13 1 == 0 then .ok (.cpys t (.dec w)) else .error .reservedField
    | 0x4 => if fld w 13 1 == 0 then .ok (.cpyf t (.dec w)) else .error .reservedField
    | 0x5 => if fld w 4 5 == 0 then .ok (.cpyx t (.dec w)) else .error .reservedField
    | _ => .error .unassignedSubcode
  | 0x75 =>
    match fld w 0 4 with
    | 0x0 => .ok (.binit t (.dec w))
    | 0x1 => if fld w 4 5 == 0 then .ok (.barv t (.dec w)) else .error .reservedField
    | 0x2 => .ok (.bexp t (.dec w))
    | 0x3 => if fld w 4 5 == 0 then .ok (.bwait t (.dec w)) else .error .reservedField
    | _ => .error .unassignedSubcode
  | 0x76 =>
    match fld w 0 4 with
    | 0x0 => if fld w 4 5 == 0 && fld w 13 1 == 0 then .ok (.ared t (.dec w)) else .error .reservedField
    | 0x1 => if fld w 4 5 == 0 && fld w 13 1 == 0 then .ok (.rscat t (.dec w)) else .error .reservedField
    | 0x2 => if fld w 4 5 == 0 && fld w 13 1 == 0 then .ok (.agath t (.dec w)) else .error .reservedField
    | 0x3 => if fld w 4 5 == 0 && fld w 13 1 == 0 then .ok (.bcst t (.dec w)) else .error .reservedField
    | 0x4 => if fld w 4 5 == 0 && fld w 13 1 == 0 then .ok (.a2a t (.dec w)) else .error .reservedField
    | 0x5 => if fld w 4 5 == 0 then .ok (.cwait t (.dec w)) else .error .reservedField
    | 0x6 => if fld w 4 5 == 0 && fld w 14 5 == 0 then .ok (.cabrt t (bv w 9 5)) else .error .reservedField
    | _ => .error .unassignedSubcode
  | 0x77 =>
    match fld w 0 4 with
    | 0x0 => if fld w 4 10 == 0 then .ok (.vget t (bv w 14 5)) else .error .reservedField
    | 0x1 => if fld w 4 5 == 0 && fld w 14 5 == 0 then .ok (.vack t (bv w 9 5)) else .error .reservedField
    | 0x2 => if fld w 0 19 == 2 then .ok (.vjoin t ) else .error .reservedField
    | _ => .error .unassignedSubcode
  | 0x78 =>
    match fld w 0 4 with
    | 0x0 => if fld w 4 5 == 0 && fld w 14 5 == 0 then .ok (.trap t (bv w 9 5)) else .error .reservedField
    | 0x1 => if fld w 0 19 == 1 then .ok (.brk t ) else .error .reservedField
    | 0x2 => if fld w 4 5 == 0 && fld w 14 5 == 0 then .ok (.mark t (bv w 9 5)) else .error .reservedField
    | 0x3 => if fld w 4 10 == 0 then .ok (.cyc t (bv w 14 5)) else .error .reservedField
    | 0x4 => if fld w 4 5 == 0 then .ok (.perf t (.dec w)) else .error .reservedField
    | 0x5 => if fld w 0 19 == 5 then .ok (.halt t ) else .error .reservedField
    | _ => .error .unassignedSubcode
  | _ => .error .unassignedMajor

/-- The bits below the opcode that the map marks 0 for a major (R28, R37, R38, R89, R114, R145, R179, R222, R250,
R308, R411). A field that a chapter holds to cause 0x07 is not among them. -/
def zeroBits (major : Nat) : Nat :=
  match major with
  | 0x00 => 0x7FFFF
  | 0x01 | 0x0D | 0x0F | 0x11 => 0x1FF
  | 0x02 => 0x7C1FF
  | 0x03 | 0x12 => 0x3FFF
  | 0x04 => 0x7
  | 0x05 => 0xC
  | 0x06 | 0x0B => 0x3
  | 0x07 => 0x17
  | 0x08 => 0x3FFC
  | 0x09 => 0x3FFE
  | 0x0A => 0x1E7
  | 0x0E => 0x7FFFE
  | 0x23 => 0x2
  | 0x28 | 0x29 | 0x2A | 0x3B | 0x3C | 0x3D | 0x3E | 0x47 | 0x48 | 0x4E | 0x4F | 0x50 | 0x51 | 0x52 | 0x53 | 0x54 | 0x55 | 0x56 => 0x1F4
  | 0x2C | 0x2D | 0x2E | 0x2F | 0x30 | 0x31 | 0x49 | 0x4A | 0x4B | 0x4C => 0x3
  | 0x38 => 0x1E0
  | 0x5A => 0x8
  | 0x5B | 0x5C => 0x30
  | 0x5D => 0x70037
  | 0x5E => 0x70007
  | 0x5F => 0x70FF7
  | 0x60 => 0x703E7
  | 0x61 | 0x62 => 0x3E7
  | 0x63 => 0xF007
  | 0x64 => 0xF037
  | 0x65 => 0xFFF7
  | 0x66 => 0x7F3C7
  | 0x72 => 0x7FFF8
  | 0x76 | 0x77 | 0x78 => 0x1F0
  | _ => 0

/-- R28, R49: why a word of an assigned opcode is no rule: a bit marked 0 is set, or a scope or an operand code is illegal. -/
def fieldErr (w : Nat) : DecodeErr :=
  if w &&& zeroBits (fld w 19 7) ≠ 0 then .reservedField
  else if fld w 19 7 = 0x72 then .scopeCode
  else .illegalOperand

/-- Decoding of a rule word (R24 to R40): total, and every word that is no rule is rejected by name. -/
def decodeRule (w : Nat) : Except DecodeErr Instr :=
  let t := fld w 26 6
  if t = 0x3F then .error .emptySlot
  else if 0x20 ≤ t ∧ t ≤ 0x3D then .error .reservedSelector
  else match rawRule w with
    | .error .reservedField => .error (fieldErr w)
    | .error e => .error e
    | .ok i => if i.wf then .ok i else .error (fieldErr w)

/-- Decoding of a skerry word (R53, R54): a custom instruction, an illegal encoding of the custom space, or
none where the word is no custom encoding. -/
def decodeSkerry (w : Nat) : Option Instr :=
  let rd := bv w 7 5
  let rs1 := bv w 15 5
  let rs2 := bv w 20 5
  let f7 := fld w 25 7 == 0
  let bad : Instr := .skerryIllegalInstruction (BitVec.ofNat 32 w)
  match fld w 0 7, fld w 12 3 with
  | 0x0B, 0 => some (if f7 then .mbxput rd rs1 rs2 else bad)
  | 0x0B, 1 => some (if f7 then .mbxget rd rs1 rs2 else bad)
  | 0x0B, 2 => some (if f7 && rs2 == 0 then .mbxpoll rd rs1 else bad)
  | 0x0B, 3 => some (if f7 && rs2 == 0 then .futld rd rs1 else bad)
  | 0x0B, 4 => some (if f7 && rd == 0 then .futst rs1 rs2 else bad)
  | 0x2B, 0 => some (if f7 then .epibeg rd rs1 rs2 else bad)
  | 0x2B, 1 => some (if f7 && rd == 0 && rs2 == 0 then .epiend rs1 else bad)
  | 0x2B, 2 => some (if f7 && rd == 0 then .wdset rs1 rs2 else bad)
  | 0x2B, 3 => some (if f7 && rs2 == 0 then .frzrd rd rs1 else bad)
  | 0x2B, 4 => some (if f7 && rd == 0 then .frzwr rs1 rs2 else bad)
  | 0x2B, 5 => some (if f7 && rs2 == 0 then .segres rd rs1 else bad)
  | 0x2B, 6 => some (if f7 && rs2 == 0 then .segrpl rd rs1 else bad)
  | 0x2B, 7 => some (if f7 && rs2 == 0 then .segkill rd rs1 else bad)
  | 0x0B, _ => some bad
  | _, _ => none

/-- Decoding of a dock word and the 64 bits that follow it (R50, R51): total. Fields are judged when the word
executes (R52). -/
def decodeDock (w v : Nat) : Instr :=
  let d : DockW := ⟨bv w 52 4, bv w 49 3, bitN w 48, bv w 0 48⟩
  let v := BitVec.ofNat 64 v
  match fld w 56 8 with
  | 0x01 => .launch d
  | 0x02 => .waitge d v
  | 0x03 => .signal d v
  | 0x04 => .semset d v
  | 0x05 => .copyq d
  | 0x06 => .jmp d
  | 0x07 => .loop d
  | 0x08 => .irq d
  | 0x09 => .dfence d
  | 0x0A => .prio d
  | 0x0B => .handoff d v
  | 0x0C => .balloc d v
  | 0x0D => .bfree d
  | 0x0E => .flushr d
  | 0x0F => .invr d
  | 0x10 => .fwdr d
  | 0x11 => .dhalt d
  | op => .unassignedDockOp d (BitVec.ofNat 8 op)

/-- What a word of the opcode table decodes to. A 32-bit word may be a rule word or a skerry word; the two sets
share encodings, and a legal custom word is taken first (log 9). 64 and 128 bits are dock words. -/
def decodeTableWord (nbits w : Nat) : Option Instr :=
  if nbits = 32 then
    let w := w % 2 ^ 32
    match decodeSkerry w with
    | some (.skerryIllegalInstruction x) =>
      match decodeRule w with
      | .ok i => some i
      | .error _ => some (.skerryIllegalInstruction x)
    | some i => some i
    | none => match decodeRule w with
      | .ok i => some i
      | .error _ => none
  else if nbits = 64 then some (decodeDock (w % 2 ^ 64) 0)
  else if nbits = 128 then some (decodeDock (w % 2 ^ 64) (w / 2 ^ 64 % 2 ^ 64))
  else none

/-- A rule word from its selector, major and operand field. -/
def ruleWord (t : BitVec 6) (maj x : Nat) : Nat := t.toNat * 2 ^ 26 + maj * 2 ^ 19 + x

/-- A skerry word from its fields (R53). -/
def skerryWord (op f3 : Nat) (rd rs1 rs2 : BitVec 5) : Nat :=
  rs2.toNat * 2 ^ 20 + rs1.toNat * 2 ^ 15 + f3 * 2 ^ 12 + rd.toNat * 2 ^ 7 + op

/-- The first word of a dock instruction (R50). -/
def DockW.enc (op : Nat) (d : DockW) : Nat :=
  op * 2 ^ 56 + d.queue.toNat * 2 ^ 52 + d.rsv.toNat * 2 ^ 49 + b2n d.sync * 2 ^ 48 + d.arg.toNat

/-- The encoding of an instruction: how many bits, and the words as one number, first word lowest. Events have
none; an illegal skerry word is its own encoding. -/
def encode : Instr → Option (Nat × Nat)
  | .nop t => some (32, ruleWord t 0x00 (0))
  | .mov t o => some (32, ruleWord t 0x01 (o.enc))
  | .drop t a => some (32, ruleWord t 0x02 (a.toNat * 2 ^ 9 + 0x2000))
  | .null_ t d => some (32, ruleWord t 0x03 (d.toNat * 2 ^ 14 + 0x50000))
  | .steer t o => some (32, ruleWord t 0x04 (o.enc + 0x50000))
  | .merge t o => some (32, ruleWord t 0x05 (o.enc + 0x2100))
  | .split4 t o => some (32, ruleWord t 0x06 (o.enc))
  | .pick4 t o => some (32, ruleWord t 0x07 (o.enc))
  | .emit t d end_ => some (32, ruleWord t 0x08 (d.toNat * 2 ^ 14 + b2n end_ * 2 ^ 0 + 0x2))
  | .cnt t k outer => some (32, ruleWord t 0x09 (b2n k * 2 ^ 14 + b2n outer * 2 ^ 0))
  | .cntb t o => some (32, ruleWord t 0x0A (o.enc))
  | .rep t o => some (32, ruleWord t 0x0B (o.enc + 0x50000))
  | .seqt t o => some (32, ruleWord t 0x0C (o.enc))
  | .reord t d a => some (32, ruleWord t 0x0D (d.toNat * 2 ^ 14 + a.toNat * 2 ^ 9 + 0x2000))
  | .sig t set => some (32, ruleWord t 0x0E (b2n set * 2 ^ 0))
  | .gate t o => some (32, ruleWord t 0x0F (o.enc))
  | .plog t o => some (32, ruleWord t 0x10 (o.enc))
  | .pset t d a => some (32, ruleWord t 0x11 (d.toNat * 2 ^ 14 + a.toNat * 2 ^ 9))
  | .slots t d => some (32, ruleWord t 0x12 (d.toNat * 2 ^ 14))
  | .add t o => some (32, ruleWord t 0x13 (o.enc))
  | .sub t o => some (32, ruleWord t 0x14 (o.enc))
  | .addi t o => some (32, ruleWord t 0x15 (o.enc))
  | .adds t o => some (32, ruleWord t 0x16 (o.enc))
  | .subs t o => some (32, ruleWord t 0x17 (o.enc))
  | .mull t o => some (32, ruleWord t 0x18 (o.enc))
  | .mulh t o => some (32, ruleWord t 0x19 (o.enc))
  | .mulhu t o => some (32, ruleWord t 0x1A (o.enc))
  | .mad t o => some (32, ruleWord t 0x1B (o.enc))
  | .and_ t o => some (32, ruleWord t 0x1C (o.enc))
  | .or_ t o => some (32, ruleWord t 0x1D (o.enc))
  | .xor_ t o => some (32, ruleWord t 0x1E (o.enc))
  | .andn t o => some (32, ruleWord t 0x1F (o.enc))
  | .shl t o => some (32, ruleWord t 0x20 (o.enc))
  | .shr t o => some (32, ruleWord t 0x21 (o.enc))
  | .sra t o => some (32, ruleWord t 0x22 (o.enc))
  | .shi t o => some (32, ruleWord t 0x23 (o.enc))
  | .min_ t o => some (32, ruleWord t 0x24 (o.enc))
  | .max_ t o => some (32, ruleWord t 0x25 (o.enc))
  | .minu t o => some (32, ruleWord t 0x26 (o.enc))
  | .maxu t o => some (32, ruleWord t 0x27 (o.enc))
  | .abs_ t o => some (32, ruleWord t 0x28 (o.enc))
  | .clz t o => some (32, ruleWord t 0x29 (o.enc))
  | .popc t o => some (32, ruleWord t 0x2A (o.enc))
  | .sel t o => some (32, ruleWord t 0x2B (o.enc))
  | .cmpeq t o => some (32, ruleWord t 0x2C (o.enc))
  | .cmpne t o => some (32, ruleWord t 0x2D (o.enc))
  | .cmplt t o => some (32, ruleWord t 0x2E (o.enc))
  | .cmple t o => some (32, ruleWord t 0x2F (o.enc))
  | .cmpltu t o => some (32, ruleWord t 0x30 (o.enc))
  | .cmpleu t o => some (32, ruleWord t 0x31 (o.enc))
  | .li t d imm => some (32, ruleWord t 0x32 (d.toNat * 2 ^ 14 + imm.toNat * 2 ^ 0))
  | .lui t d imm => some (32, ruleWord t 0x33 (d.toNat * 2 ^ 14 + imm.toNat * 2 ^ 0))
  | .bfx t o => some (32, ruleWord t 0x34 (o.enc))
  | .bfi t o => some (32, ruleWord t 0x35 (o.enc))
  | .divu t o => some (32, ruleWord t 0x36 (o.enc))
  | .remu t o => some (32, ruleWord t 0x37 (o.enc))
  | .bcast t o => some (32, ruleWord t 0x38 (o.enc))
  | .perm t o => some (32, ruleWord t 0x39 (o.enc))
  | .slide t o => some (32, ruleWord t 0x3A (o.enc))
  | .redadd t o => some (32, ruleWord t 0x3B (o.enc))
  | .redmax t o => some (32, ruleWord t 0x3C (o.enc))
  | .redmin t o => some (32, ruleWord t 0x3D (o.enc))
  | .scan t o => some (32, ruleWord t 0x3E (o.enc))
  | .fadd t o => some (32, ruleWord t 0x3F (o.enc))
  | .fsub t o => some (32, ruleWord t 0x40 (o.enc))
  | .fmul t o => some (32, ruleWord t 0x41 (o.enc))
  | .ffma t o => some (32, ruleWord t 0x42 (o.enc))
  | .ffms t o => some (32, ruleWord t 0x43 (o.enc))
  | .fnma t o => some (32, ruleWord t 0x44 (o.enc))
  | .fmin t o => some (32, ruleWord t 0x45 (o.enc))
  | .fmax t o => some (32, ruleWord t 0x46 (o.enc))
  | .fabs t o => some (32, ruleWord t 0x47 (o.enc))
  | .fneg t o => some (32, ruleWord t 0x48 (o.enc))
  | .fcmpeq t o => some (32, ruleWord t 0x49 (o.enc))
  | .fcmplt t o => some (32, ruleWord t 0x4A (o.enc))
  | .fcmple t o => some (32, ruleWord t 0x4B (o.enc))
  | .fcmpun t o => some (32, ruleWord t 0x4C (o.enc))
  | .fdiv t o => some (32, ruleWord t 0x4D (o.enc))
  | .fsqrt t o => some (32, ruleWord t 0x4E (o.enc))
  | .frcp t o => some (32, ruleWord t 0x4F (o.enc))
  | .frsq t o => some (32, ruleWord t 0x50 (o.enc))
  | .fexp2 t o => some (32, ruleWord t 0x51 (o.enc))
  | .flog2 t o => some (32, ruleWord t 0x52 (o.enc))
  | .ftanh t o => some (32, ruleWord t 0x53 (o.enc))
  | .fsigm t o => some (32, ruleWord t 0x54 (o.enc))
  | .fclass t o => some (32, ruleWord t 0x55 (o.enc))
  | .frnd t o => some (32, ruleWord t 0x56 (o.enc))
  | .fscale t o => some (32, ruleWord t 0x57 (o.enc))
  | .cvt t o => some (32, ruleWord t 0x58 (o.enc))
  | .cvtmx t o => some (32, ruleWord t 0x59 (o.enc))
  | .unpmx t o => some (32, ruleWord t 0x5A (o.enc))
  | .fpack t o => some (32, ruleWord t 0x5B (o.enc))
  | .funpk t o => some (32, ruleWord t 0x5C (o.enc))
  | .plw t o => some (32, ruleWord t 0x5D (o.enc))
  | .plws t o => some (32, ruleWord t 0x5E (o.enc))
  | .plclr t pl => some (32, ruleWord t 0x5F (pl.toNat * 2 ^ 12))
  | .scld t o => some (32, ruleWord t 0x60 (o.enc))
  | .mma t o => some (32, ruleWord t 0x61 (o.enc))
  | .mmas t o => some (32, ruleWord t 0x62 (o.enc))
  | .accrd t o => some (32, ruleWord t 0x63 (o.enc))
  | .accwr t o => some (32, ruleWord t 0x64 (o.enc))
  | .accclr t tile => some (32, ruleWord t 0x65 (tile.toNat * 2 ^ 16))
  | .mfwd t ch out => some (32, ruleWord t 0x66 (ch.toNat * 2 ^ 10 + out.toNat * 2 ^ 4))
  | .ld t o => some (32, ruleWord t 0x67 (o.enc))
  | .ldq t y a ch pos sz ka => some (32, ruleWord t 0x68 (y.toNat * 2 ^ 14 + a.toNat * 2 ^ 9 + ch.toNat * 2 ^ 7 + pos.toNat * 2 ^ 3 + sz.toNat * 2 ^ 1 + b2n ka * 2 ^ 0))
  | .st t o => some (32, ruleWord t 0x69 (o.enc))
  | .lds t o => some (32, ruleWord t 0x6A (o.enc))
  | .stf t o => some (32, ruleWord t 0x6B (o.enc))
  | .sto t o => some (32, ruleWord t 0x6C (o.enc))
  | .sete t o => some (32, ruleWord t 0x6D (o.enc))
  | .pfx t o => some (32, ruleWord t 0x6E (o.enc))
  | .srd t o => some (32, ruleWord t 0x6F (o.enc))
  | .swr t o => some (32, ruleWord t 0x70 (o.enc))
  | .agn t g imm => some (32, ruleWord t 0x71 (b2n g * 2 ^ 14 + imm.toNat * 2 ^ 0))
  | .fence t scope => some (32, ruleWord t 0x72 (scope.toNat * 2 ^ 0))
  | .aadd t o => some (32, ruleWord t 0x73 (o.enc))
  | .amin t o => some (32, ruleWord t 0x73 (o.enc + 0x1))
  | .amax t o => some (32, ruleWord t 0x73 (o.enc + 0x2))
  | .aminu t o => some (32, ruleWord t 0x73 (o.enc + 0x3))
  | .amaxu t o => some (32, ruleWord t 0x73 (o.enc + 0x4))
  | .aand t o => some (32, ruleWord t 0x73 (o.enc + 0x5))
  | .aor t o => some (32, ruleWord t 0x73 (o.enc + 0x6))
  | .axor t o => some (32, ruleWord t 0x73 (o.enc + 0x7))
  | .axchg t o => some (32, ruleWord t 0x73 (o.enc + 0x8))
  | .acas t rpl y a b => some (32, ruleWord t 0x73 (b2n rpl * 2 ^ 18 + y.toNat * 2 ^ 15 + a.toNat * 2 ^ 9 + b.toNat * 2 ^ 5 + 0x9))
  | .afadd t o => some (32, ruleWord t 0x73 (o.enc + 0xA))
  | .afmin t o => some (32, ruleWord t 0x73 (o.enc + 0xB))
  | .afmax t o => some (32, ruleWord t 0x73 (o.enc + 0xC))
  | .aincw t o => some (32, ruleWord t 0x73 (o.enc + 0xD))
  | .cpy1 t o => some (32, ruleWord t 0x74 (o.enc))
  | .cpy2 t o => some (32, ruleWord t 0x74 (o.enc + 0x1))
  | .cpyg t o => some (32, ruleWord t 0x74 (o.enc + 0x2))
  | .cpys t o => some (32, ruleWord t 0x74 (o.enc + 0x3))
  | .cpyf t o => some (32, ruleWord t 0x74 (o.enc + 0x4))
  | .cpyx t o => some (32, ruleWord t 0x74 (o.enc + 0x5))
  | .binit t o => some (32, ruleWord t 0x75 (o.enc))
  | .barv t o => some (32, ruleWord t 0x75 (o.enc + 0x1))
  | .bexp t o => some (32, ruleWord t 0x75 (o.enc + 0x2))
  | .bwait t o => some (32, ruleWord t 0x75 (o.enc + 0x3))
  | .ared t o => some (32, ruleWord t 0x76 (o.enc))
  | .rscat t o => some (32, ruleWord t 0x76 (o.enc + 0x1))
  | .agath t o => some (32, ruleWord t 0x76 (o.enc + 0x2))
  | .bcst t o => some (32, ruleWord t 0x76 (o.enc + 0x3))
  | .a2a t o => some (32, ruleWord t 0x76 (o.enc + 0x4))
  | .cwait t o => some (32, ruleWord t 0x76 (o.enc + 0x5))
  | .cabrt t a => some (32, ruleWord t 0x76 (a.toNat * 2 ^ 9 + 0x6))
  | .vget t d => some (32, ruleWord t 0x77 (d.toNat * 2 ^ 14))
  | .vack t a => some (32, ruleWord t 0x77 (a.toNat * 2 ^ 9 + 0x1))
  | .vjoin t => some (32, ruleWord t 0x77 (0x2))
  | .trap t a => some (32, ruleWord t 0x78 (a.toNat * 2 ^ 9))
  | .brk t => some (32, ruleWord t 0x78 (0x1))
  | .mark t a => some (32, ruleWord t 0x78 (a.toNat * 2 ^ 9 + 0x2))
  | .cyc t d => some (32, ruleWord t 0x78 (d.toNat * 2 ^ 14 + 0x3))
  | .perf t o => some (32, ruleWord t 0x78 (o.enc + 0x4))
  | .halt t => some (32, ruleWord t 0x78 (0x5))
  | .mbxput rd rs1 rs2 => some (32, skerryWord 0x0B 0 rd rs1 rs2)
  | .mbxget rd rs1 rs2 => some (32, skerryWord 0x0B 1 rd rs1 rs2)
  | .mbxpoll rd rs1 => some (32, skerryWord 0x0B 2 rd rs1 0)
  | .futld rd rs1 => some (32, skerryWord 0x0B 3 rd rs1 0)
  | .futst rs1 rs2 => some (32, skerryWord 0x0B 4 0 rs1 rs2)
  | .epibeg rd rs1 rs2 => some (32, skerryWord 0x2B 0 rd rs1 rs2)
  | .epiend rs1 => some (32, skerryWord 0x2B 1 0 rs1 0)
  | .wdset rs1 rs2 => some (32, skerryWord 0x2B 2 0 rs1 rs2)
  | .frzrd rd rs1 => some (32, skerryWord 0x2B 3 rd rs1 0)
  | .frzwr rs1 rs2 => some (32, skerryWord 0x2B 4 0 rs1 rs2)
  | .segres rd rs1 => some (32, skerryWord 0x2B 5 rd rs1 0)
  | .segrpl rd rs1 => some (32, skerryWord 0x2B 6 rd rs1 0)
  | .segkill rd rs1 => some (32, skerryWord 0x2B 7 rd rs1 0)
  | .launch w => some (64, w.enc 0x01)
  | .waitge w v => some (128, w.enc 0x02 + v.toNat * 2 ^ 64)
  | .signal w v => some (128, w.enc 0x03 + v.toNat * 2 ^ 64)
  | .semset w v => some (128, w.enc 0x04 + v.toNat * 2 ^ 64)
  | .copyq w => some (64, w.enc 0x05)
  | .jmp w => some (64, w.enc 0x06)
  | .loop w => some (64, w.enc 0x07)
  | .irq w => some (64, w.enc 0x08)
  | .dfence w => some (64, w.enc 0x09)
  | .prio w => some (64, w.enc 0x0A)
  | .handoff w v => some (128, w.enc 0x0B + v.toNat * 2 ^ 64)
  | .balloc w v => some (128, w.enc 0x0C + v.toNat * 2 ^ 64)
  | .bfree w => some (64, w.enc 0x0D)
  | .flushr w => some (64, w.enc 0x0E)
  | .invr w => some (64, w.enc 0x0F)
  | .fwdr w => some (64, w.enc 0x10)
  | .dhalt w => some (64, w.enc 0x11)
  | .doorbell _ => none
  | .qcfgWrite _ => none
  | .semaphoreWrite _ => none
  | .preemptRestore _ => none
  | .prqHeadWrite _ => none
  | .stateRestore _ => none
  | .cfgerrReload _ _ => none
  | .spareMismatch _ => none
  | .scrubLine _ => none
  | .relatchGo _ => none
  | .scanoutRestore _ => none
  | .promoteGo _ => none
  | .hpcHeadWrite _ => none
  | .hpcRelease _ => none
  | .copyBytesLand _ _ => none
  | .copyFault _ => none
  | .commWrite _ _ _ => none
  | .enclosureAbort _ _ _ => none
  | .ufstatusRet _ => none
  | .handlerInstall _ => none
  | .handlerHwerr _ => none
  | .tctlWrite _ => none
  | .dumpGo _ => none
  | .boot _ => none
  | .isleReset _ => none
  | .flitReceive _ _ => none
  | .hostAccess _ => none
  | .dmiAccess _ _ => none
  | .negotiateAlgorithms _ => none
  | .getCertificate _ _ _ => none
  | .finish _ _ _ => none
  | .spdmUnsupportedRequest _ => none
  | .accreset _ _ => none
  | .registerWrite _ _ _ _ => none
  | .linkPortUp _ _ _ => none
  | .hartLoadStore _ => none
  | .skerryIllegalInstruction w => some (32, w.toNat)
  | .unassignedDockOp w op => some (64, w.enc op.toNat)
  | .blockedWordResume  => none
  | .waitgeSatisfied  => none
  | .queueGo  => none
  | .queueStop  => none
  | .semaphoreMessageReceive  => none
  | .semaphoreAnswerReceive  => none
  | .semaphoreMessageTimeout  => none
  | .ringPlace  => none
  | .runDeal  => none
  | .taskComplete  => none
  | .edgeInvActions  => none
  | .edgeEndActions  => none
  | .preempt  => none
  | .markerGateFire  => none
  | .bStageIntake  => none
  | .mmaStart  => none
  | .mmaFoldLand  => none
  | .wharfRequestIssue  => none
  | .replyLand  => none
  | .ldsWake  => none
  | .wcLineDrain  => none
  | .atomicApply  => none
  | .repairReentry  => none
  | .inputPortDeliver  => none
  | .outputPortWrite  => none
  | .mbxActionWrite  => none
  | .mbxObservationDeliver  => none
  | .stagingConfigure  => none
  | .stripeResident  => none
  | .stripeEvict  => none
  | .statefulSave  => none
  | .passBufferReplay  => none
  | .configCacheFill  => none
  | .stall  => none
  | .freezeStop  => none
  | .handlerRecordWrite  => none
  | .commitStop  => none
  | .containmentSequence  => none
  | .spareMove  => none
  | .spareReplace  => none
  | .stripeDisable  => none
  | .healthThresholdCross  => none
  | .vholdExpire  => none
  | .relatchComplete  => none
  | .promoteComplete  => none
  | .copyResume  => none
  | .copyTimeout  => none
  | .bwaitWake  => none
  | .collFlitReceive  => none
  | .collComplete  => none
  | .cwaitWake  => none
  | .collAbortReceive  => none
  | .coltoutExpire  => none
  | .heartbeatSend  => none
  | .suspectTimeout  => none
  | .fatalReportReceive  => none
  | .suspectReceive  => none
  | .proposeReceive  => none
  | .ackReceive  => none
  | .proposeTimerExpire  => none
  | .preparedTimerExpire  => none
  | .commitReceive  => none
  | .joinSend  => none
  | .joinReceive  => none
  | .bindingPromote  => none
  | .watchdogCycleExpire  => none
  | .watchdogRoundtripExpire  => none
  | .abortRecordQueue  => none
  | .userTrap  => none
  | .futldWake  => none
  | .traceSample  => none
  | .cutRecord  => none
  | .dumpWrite  => none
  | .dumpFinish  => none
  | .powerLoss  => none
  | .thermalThrottle  => none
  | .thermalTrip  => none
  | .linkPortDown  => none
  | .mrExtend  => none
  | .getVersion  => none
  | .getCapabilities  => none
  | .getDigests  => none
  | .challenge  => none
  | .getMeasurements  => none
  | .keyExchange  => none
  | .endSession  => none
  | .accountingClear  => none
  | .heartbeatReceive  => none
  | .throtClear  => none
  | .mmaOccupancyEnd  => none

end Sys2Proof
end

