-- ==== Sys2Proof/Machine/Ready.lean ====
section
/-! DEFINITION. Which rules an element takes in a cycle: what each rule reads and writes, free slots and the pass
buffer's grants, guards, own conditions, null- and marker-readiness, the selection, and the marker gate
(R25, R31 to R36, R64 to R72, R83, R174, R177, R205, R223). -/

namespace Sys2Proof.Machine

/-- What selection and loading need to know of a rule: class (0 control, 1 vector, 2 matrix, 3 memory), guard
selector, source codes read, what it writes (0 v-register, 1 predicate, 2 out-channel, 3 accumulator tile, 4 plane
tile, 5 counter; out-channel 9 stands for every routed one), whether it is a replying rule (R205), the chain and
position it names, whether it takes them from FCHAIN (R39) or, a collective rule, from a lane of its operand (R296,
R298), the generators and counters it names, and the reply target (YT index) of an LDQ or atomic reply. -/
structure RuleInfo where
  cls : Nat
  sel : Nat
  srcs : List Nat
  wr : List (Nat × Nat)
  rep : Bool
  chain : Option (Nat × Nat)
  fch : Bool
  coll : Option (Nat × Nat)
  gens : List Nat
  ctrs : List Nat
  replyTo : Option Nat
  deriving DecidableEq, Repr

/-- What a destination code writes. -/
def wD (d : Nat) : List (Nat × Nat) := if d < 16 then [(0, d)] else if 20 ≤ d ∧ d < 24 then [(2, d - 20)] else []

/-- The channels of a four-bit mask. -/
def maskList (m : BitVec 4) : List Nat := [0, 1, 2, 3].filter fun k => tb m k

/-- The information of a rule word; other instructions have none. -/
def ruleInfo (i : Instr) : Option RuleInfo :=
  let base : RuleInfo := ⟨0, 0, [], [], false, none, false, none, [], [], none⟩
  match i with
  | .nop t => some { base with cls := 0, sel := t.toNat }
  | .mov t o => some { base with cls := 0, sel := t.toNat, srcs := [o.a.toNat], wr := wD o.d.toNat }
  | .drop t a => some { base with cls := 0, sel := t.toNat, srcs := [16 + a.toNat] }
  | .null_ t d => some { base with cls := 0, sel := t.toNat, wr := [(2, d.toNat)] }
  | .steer t o => some { base with cls := 0, sel := t.toNat, srcs := [o.a.toNat], wr := [(2, o.d.toNat), (2, o.f.toNat)] }
  | .merge t o => some { base with cls := 0, sel := t.toNat, srcs := [16 + o.a.toNat, 16 + o.b.toNat], wr := wD o.d.toNat }
  | .split4 t o => some { base with cls := 0, sel := t.toNat, srcs := [o.a.toNat, o.b.toNat], wr := (maskList o.mask).map fun k => (2, k) }
  | .pick4 t o => some { base with cls := 0, sel := t.toNat, srcs := ([o.a.toNat] ++ (maskList o.mask).map fun k => 16 + k), wr := wD o.d.toNat }
  | .emit t d _ => some { base with cls := 0, sel := t.toNat, wr := (if d.toNat = 28 then [(2, 9)] else wD d.toNat) }
  | .cnt t k _ => some { base with cls := 0, sel := t.toNat, wr := [(5, k.toNat), (1, 6), (1, 7)], ctrs := [k.toNat] }
  | .cntb t o => some { base with cls := 0, sel := t.toNat, srcs := [o.a.toNat], wr := [(5, o.k.toNat)], ctrs := [o.k.toNat] }
  | .rep t o => some { base with cls := 0, sel := t.toNat, srcs := [o.a.toNat, o.b.toNat], wr := [(2, o.d.toNat)] }
  | .seqt t o => some { base with cls := 0, sel := t.toNat, srcs := [o.a.toNat, o.b.toNat], wr := wD o.d.toNat }
  | .reord t d a => some { base with cls := 0, sel := t.toNat, srcs := [16 + a.toNat], wr := wD d.toNat }
  | .sig t _ => some { base with cls := 0, sel := t.toNat }
  | .gate t o => some { base with cls := 0, sel := t.toNat, srcs := [o.a.toNat], wr := wD o.d.toNat }
  | .plog t o => some { base with cls := 0, sel := t.toNat, wr := [(1, o.d.toNat)] }
  | .pset t d a => some { base with cls := 0, sel := t.toNat, srcs := [a.toNat], wr := [(1, d.toNat)] }
  | .slots t d => some { base with cls := 0, sel := t.toNat, wr := wD d.toNat }
  | .add t o => some { base with cls := 1, sel := t.toNat, srcs := [o.a.toNat, o.b.toNat], wr := wD o.d.toNat }
  | .sub t o => some { base with cls := 1, sel := t.toNat, srcs := [o.a.toNat, o.b.toNat], wr := wD o.d.toNat }
  | .addi t o => some { base with cls := 1, sel := t.toNat, srcs := [o.a.toNat], wr := wD o.d.toNat }
  | .adds t o => some { base with cls := 1, sel := t.toNat, srcs := [o.a.toNat, o.b.toNat], wr := wD o.d.toNat }
  | .subs t o => some { base with cls := 1, sel := t.toNat, srcs := [o.a.toNat, o.b.toNat], wr := wD o.d.toNat }
  | .mull t o => some { base with cls := 1, sel := t.toNat, srcs := [o.a.toNat, o.b.toNat], wr := wD o.d.toNat }
  | .mulh t o => some { base with cls := 1, sel := t.toNat, srcs := [o.a.toNat, o.b.toNat], wr := wD o.d.toNat }
  | .mulhu t o => some { base with cls := 1, sel := t.toNat, srcs := [o.a.toNat, o.b.toNat], wr := wD o.d.toNat }
  | .mad t o => some { base with cls := 1, sel := t.toNat, srcs := [o.a.toNat, o.b.toNat, o.d.toNat], wr := wD o.d.toNat }
  | .and_ t o => some { base with cls := 1, sel := t.toNat, srcs := [o.a.toNat, o.b.toNat], wr := wD o.d.toNat }
  | .or_ t o => some { base with cls := 1, sel := t.toNat, srcs := [o.a.toNat, o.b.toNat], wr := wD o.d.toNat }
  | .xor_ t o => some { base with cls := 1, sel := t.toNat, srcs := [o.a.toNat, o.b.toNat], wr := wD o.d.toNat }
  | .andn t o => some { base with cls := 1, sel := t.toNat, srcs := [o.a.toNat, o.b.toNat], wr := wD o.d.toNat }
  | .shl t o => some { base with cls := 1, sel := t.toNat, srcs := [o.a.toNat, o.b.toNat], wr := wD o.d.toNat }
  | .shr t o => some { base with cls := 1, sel := t.toNat, srcs := [o.a.toNat, o.b.toNat], wr := wD o.d.toNat }
  | .sra t o => some { base with cls := 1, sel := t.toNat, srcs := [o.a.toNat, o.b.toNat], wr := wD o.d.toNat }
  | .shi t o => some { base with cls := 1, sel := t.toNat, srcs := [o.a.toNat], wr := wD o.d.toNat }
  | .min_ t o => some { base with cls := 1, sel := t.toNat, srcs := [o.a.toNat, o.b.toNat], wr := wD o.d.toNat }
  | .max_ t o => some { base with cls := 1, sel := t.toNat, srcs := [o.a.toNat, o.b.toNat], wr := wD o.d.toNat }
  | .minu t o => some { base with cls := 1, sel := t.toNat, srcs := [o.a.toNat, o.b.toNat], wr := wD o.d.toNat }
  | .maxu t o => some { base with cls := 1, sel := t.toNat, srcs := [o.a.toNat, o.b.toNat], wr := wD o.d.toNat }
  | .abs_ t o => some { base with cls := 1, sel := t.toNat, srcs := [o.a.toNat], wr := wD o.d.toNat }
  | .clz t o => some { base with cls := 1, sel := t.toNat, srcs := [o.a.toNat], wr := wD o.d.toNat }
  | .popc t o => some { base with cls := 1, sel := t.toNat, srcs := [o.a.toNat], wr := wD o.d.toNat }
  | .sel t o => some { base with cls := 1, sel := t.toNat, srcs := [o.a.toNat, o.b.toNat], wr := wD o.d.toNat }
  | .cmpeq t o => some { base with cls := 1, sel := t.toNat, srcs := [o.a.toNat, o.b.toNat], wr := [(1, o.d.toNat)] }
  | .cmpne t o => some { base with cls := 1, sel := t.toNat, srcs := [o.a.toNat, o.b.toNat], wr := [(1, o.d.toNat)] }
  | .cmplt t o => some { base with cls := 1, sel := t.toNat, srcs := [o.a.toNat, o.b.toNat], wr := [(1, o.d.toNat)] }
  | .cmple t o => some { base with cls := 1, sel := t.toNat, srcs := [o.a.toNat, o.b.toNat], wr := [(1, o.d.toNat)] }
  | .cmpltu t o => some { base with cls := 1, sel := t.toNat, srcs := [o.a.toNat, o.b.toNat], wr := [(1, o.d.toNat)] }
  | .cmpleu t o => some { base with cls := 1, sel := t.toNat, srcs := [o.a.toNat, o.b.toNat], wr := [(1, o.d.toNat)] }
  | .li t d _ => some { base with cls := 1, sel := t.toNat, wr := wD d.toNat }
  | .lui t d _ => some { base with cls := 1, sel := t.toNat, wr := wD d.toNat }
  | .bfx t o => some { base with cls := 1, sel := t.toNat, srcs := [o.a.toNat, o.b.toNat], wr := wD o.d.toNat }
  | .bfi t o => some { base with cls := 1, sel := t.toNat, srcs := [o.a.toNat, o.b.toNat, o.d.toNat], wr := wD o.d.toNat }
  | .divu t o => some { base with cls := 1, sel := t.toNat, srcs := [o.a.toNat, o.b.toNat], wr := wD o.d.toNat }
  | .remu t o => some { base with cls := 1, sel := t.toNat, srcs := [o.a.toNat, o.b.toNat], wr := wD o.d.toNat }
  | .bcast t o => some { base with cls := 1, sel := t.toNat, srcs := [o.a.toNat], wr := wD o.d.toNat }
  | .perm t o => some { base with cls := 1, sel := t.toNat, srcs := [o.a.toNat, o.b.toNat], wr := wD o.d.toNat }
  | .slide t o => some { base with cls := 1, sel := t.toNat, srcs := [o.a.toNat], wr := wD o.d.toNat }
  | .redadd t o => some { base with cls := 1, sel := t.toNat, srcs := [o.a.toNat], wr := wD o.d.toNat }
  | .redmax t o => some { base with cls := 1, sel := t.toNat, srcs := [o.a.toNat], wr := wD o.d.toNat }
  | .redmin t o => some { base with cls := 1, sel := t.toNat, srcs := [o.a.toNat], wr := wD o.d.toNat }
  | .scan t o => some { base with cls := 1, sel := t.toNat, srcs := [o.a.toNat], wr := wD o.d.toNat }
  | .fadd t o => some { base with cls := 1, sel := t.toNat, srcs := [o.a.toNat, o.b.toNat], wr := wD o.d.toNat }
  | .fsub t o => some { base with cls := 1, sel := t.toNat, srcs := [o.a.toNat, o.b.toNat], wr := wD o.d.toNat }
  | .fmul t o => some { base with cls := 1, sel := t.toNat, srcs := [o.a.toNat, o.b.toNat], wr := wD o.d.toNat }
  | .ffma t o => some { base with cls := 1, sel := t.toNat, srcs := [o.a.toNat, o.b.toNat, o.d.toNat], wr := wD o.d.toNat }
  | .ffms t o => some { base with cls := 1, sel := t.toNat, srcs := [o.a.toNat, o.b.toNat, o.d.toNat], wr := wD o.d.toNat }
  | .fnma t o => some { base with cls := 1, sel := t.toNat, srcs := [o.a.toNat, o.b.toNat, o.d.toNat], wr := wD o.d.toNat }
  | .fmin t o => some { base with cls := 1, sel := t.toNat, srcs := [o.a.toNat, o.b.toNat], wr := wD o.d.toNat }
  | .fmax t o => some { base with cls := 1, sel := t.toNat, srcs := [o.a.toNat, o.b.toNat], wr := wD o.d.toNat }
  | .fabs t o => some { base with cls := 1, sel := t.toNat, srcs := [o.a.toNat], wr := wD o.d.toNat }
  | .fneg t o => some { base with cls := 1, sel := t.toNat, srcs := [o.a.toNat], wr := wD o.d.toNat }
  | .fcmpeq t o => some { base with cls := 1, sel := t.toNat, srcs := [o.a.toNat, o.b.toNat], wr := [(1, o.d.toNat)] }
  | .fcmplt t o => some { base with cls := 1, sel := t.toNat, srcs := [o.a.toNat, o.b.toNat], wr := [(1, o.d.toNat)] }
  | .fcmple t o => some { base with cls := 1, sel := t.toNat, srcs := [o.a.toNat, o.b.toNat], wr := [(1, o.d.toNat)] }
  | .fcmpun t o => some { base with cls := 1, sel := t.toNat, srcs := [o.a.toNat, o.b.toNat], wr := [(1, o.d.toNat)] }
  | .fdiv t o => some { base with cls := 1, sel := t.toNat, srcs := [o.a.toNat, o.b.toNat], wr := wD o.d.toNat }
  | .fsqrt t o => some { base with cls := 1, sel := t.toNat, srcs := [o.a.toNat], wr := wD o.d.toNat }
  | .frcp t o => some { base with cls := 1, sel := t.toNat, srcs := [o.a.toNat], wr := wD o.d.toNat }
  | .frsq t o => some { base with cls := 1, sel := t.toNat, srcs := [o.a.toNat], wr := wD o.d.toNat }
  | .fexp2 t o => some { base with cls := 1, sel := t.toNat, srcs := [o.a.toNat], wr := wD o.d.toNat }
  | .flog2 t o => some { base with cls := 1, sel := t.toNat, srcs := [o.a.toNat], wr := wD o.d.toNat }
  | .ftanh t o => some { base with cls := 1, sel := t.toNat, srcs := [o.a.toNat], wr := wD o.d.toNat }
  | .fsigm t o => some { base with cls := 1, sel := t.toNat, srcs := [o.a.toNat], wr := wD o.d.toNat }
  | .fclass t o => some { base with cls := 1, sel := t.toNat, srcs := [o.a.toNat], wr := wD o.d.toNat }
  | .frnd t o => some { base with cls := 1, sel := t.toNat, srcs := [o.a.toNat], wr := wD o.d.toNat }
  | .fscale t o => some { base with cls := 1, sel := t.toNat, srcs := [o.a.toNat, o.b.toNat], wr := wD o.d.toNat }
  | .cvt t o => some { base with cls := 1, sel := t.toNat, srcs := [o.a.toNat], wr := wD o.d.toNat }
  | .cvtmx t o => some { base with cls := 1, sel := t.toNat, srcs := [o.a.toNat, o.b.toNat], wr := wD o.d.toNat }
  | .unpmx t o => some { base with cls := 1, sel := t.toNat, srcs := [o.a.toNat, o.b.toNat], wr := wD o.d.toNat }
  | .fpack t o => some { base with cls := 1, sel := t.toNat, srcs := [o.a.toNat, o.d.toNat], wr := wD o.d.toNat }
  | .funpk t o => some { base with cls := 1, sel := t.toNat, srcs := [o.a.toNat], wr := wD o.d.toNat }
  | .plw t o => some { base with cls := 2, sel := t.toNat, srcs := [16 + o.ch.toNat], wr := [(4, o.pl.toNat)] }
  | .plws t o => some { base with cls := 2, sel := t.toNat, srcs := [16 + o.ch.toNat], wr := [(4, o.pl.toNat)] }
  | .plclr t pl => some { base with cls := 2, sel := t.toNat, wr := [(4, pl.toNat)] }
  | .scld t o => some { base with cls := 2, sel := t.toNat, srcs := [16 + o.ch.toNat], wr := [(4, o.pl.toNat)] }
  | .mma t o => some { base with cls := 2, sel := t.toNat, wr := [(3, o.t.toNat)] }
  | .mmas t o => some { base with cls := 2, sel := t.toNat, wr := [(3, o.t.toNat)] }
  | .accrd t o => some { base with cls := 2, sel := t.toNat, wr := [(2, o.ch.toNat), (3, o.t.toNat)] }
  | .accwr t o => some { base with cls := 2, sel := t.toNat, srcs := [16 + o.ch.toNat], wr := [(3, o.t.toNat)] }
  | .accclr t tile => some { base with cls := 2, sel := t.toNat, wr := [(3, tile.toNat)] }
  | .mfwd t _ out => some { base with cls := 2, sel := t.toNat, wr := [(2, out.toNat)] }
  | .ld t o => some { base with cls := 3, sel := t.toNat, srcs := [o.a.toNat], rep := true, wr := wD o.d.toNat, chain := some (o.ch.toNat, o.pos.toNat) }
  | .ldq t y a ch pos _ _ => some { base with cls := 3, sel := t.toNat, srcs := [a.toNat], chain := some (ch.toNat, pos.toNat), replyTo := some y.toNat }
  | .st t o => some { base with cls := 3, sel := t.toNat, srcs := [o.a.toNat, o.d.toNat], chain := some (o.ch.toNat, o.pos.toNat) }
  | .lds t o => some { base with cls := 3, sel := t.toNat, srcs := [o.a.toNat], rep := true, wr := wD o.d.toNat, chain := some (o.ch.toNat, o.pos.toNat) }
  | .stf t o => some { base with cls := 3, sel := t.toNat, srcs := [o.a.toNat, o.d.toNat], chain := some (o.ch.toNat, o.pos.toNat) }
  | .sto t o => some { base with cls := 3, sel := t.toNat, srcs := [o.a.toNat, o.d.toNat], chain := some (o.ch.toNat, o.pos.toNat) }
  | .sete t o => some { base with cls := 3, sel := t.toNat, srcs := [o.a.toNat], chain := some (o.ch.toNat, o.pos.toNat) }
  | .pfx t o => some { base with cls := 3, sel := t.toNat, srcs := [o.a.toNat], chain := some (o.ch.toNat, o.pos.toNat) }
  | .srd t o => some { base with cls := 3, sel := t.toNat, rep := true, wr := wD o.d.toNat, chain := some (o.ch.toNat, o.pos.toNat), gens := [o.g.toNat] }
  | .swr t o => some { base with cls := 3, sel := t.toNat, srcs := [o.d.toNat], chain := some (o.ch.toNat, o.pos.toNat), gens := [o.g.toNat] }
  | .agn t g _ => some { base with cls := 3, sel := t.toNat, gens := [g.toNat] }
  | .fence t _ => some { base with cls := 3, sel := t.toNat }
  | .aadd t o => some { base with cls := 3, sel := t.toNat, srcs := [o.a.toNat, o.b.toNat], fch := true, replyTo := if o.rpl then some o.y.toNat else none }
  | .amin t o => some { base with cls := 3, sel := t.toNat, srcs := [o.a.toNat, o.b.toNat], fch := true, replyTo := if o.rpl then some o.y.toNat else none }
  | .amax t o => some { base with cls := 3, sel := t.toNat, srcs := [o.a.toNat, o.b.toNat], fch := true, replyTo := if o.rpl then some o.y.toNat else none }
  | .aminu t o => some { base with cls := 3, sel := t.toNat, srcs := [o.a.toNat, o.b.toNat], fch := true, replyTo := if o.rpl then some o.y.toNat else none }
  | .amaxu t o => some { base with cls := 3, sel := t.toNat, srcs := [o.a.toNat, o.b.toNat], fch := true, replyTo := if o.rpl then some o.y.toNat else none }
  | .aand t o => some { base with cls := 3, sel := t.toNat, srcs := [o.a.toNat, o.b.toNat], fch := true, replyTo := if o.rpl then some o.y.toNat else none }
  | .aor t o => some { base with cls := 3, sel := t.toNat, srcs := [o.a.toNat, o.b.toNat], fch := true, replyTo := if o.rpl then some o.y.toNat else none }
  | .axor t o => some { base with cls := 3, sel := t.toNat, srcs := [o.a.toNat, o.b.toNat], fch := true, replyTo := if o.rpl then some o.y.toNat else none }
  | .axchg t o => some { base with cls := 3, sel := t.toNat, srcs := [o.a.toNat, o.b.toNat], fch := true, replyTo := if o.rpl then some o.y.toNat else none }
  | .acas t rpl y a b => some { base with cls := 3, sel := t.toNat, srcs := [a.toNat, 2 * b.toNat, 2 * b.toNat + 1], fch := true, replyTo := if rpl then some y.toNat else none }
  | .afadd t o => some { base with cls := 3, sel := t.toNat, srcs := [o.a.toNat, o.b.toNat], fch := true, replyTo := if o.rpl then some o.y.toNat else none }
  | .afmin t o => some { base with cls := 3, sel := t.toNat, srcs := [o.a.toNat, o.b.toNat], fch := true, replyTo := if o.rpl then some o.y.toNat else none }
  | .afmax t o => some { base with cls := 3, sel := t.toNat, srcs := [o.a.toNat, o.b.toNat], fch := true, replyTo := if o.rpl then some o.y.toNat else none }
  | .aincw t o => some { base with cls := 3, sel := t.toNat, srcs := [o.a.toNat, o.b.toNat], fch := true, replyTo := if o.rpl then some o.y.toNat else none }
  | .cpy1 t o => some { base with cls := 3, sel := t.toNat, srcs := [o.a.toNat, o.b.toNat], rep := true, wr := wD o.d.toNat, fch := true }
  | .cpy2 t o => some { base with cls := 3, sel := t.toNat, srcs := [o.a.toNat, o.b.toNat], rep := true, wr := wD o.d.toNat, fch := true }
  | .cpyg t o => some { base with cls := 3, sel := t.toNat, srcs := [o.a.toNat, o.b.toNat], rep := true, wr := wD o.d.toNat, fch := true }
  | .cpys t o => some { base with cls := 3, sel := t.toNat, srcs := [o.a.toNat, o.b.toNat], rep := true, wr := wD o.d.toNat, fch := true }
  | .cpyf t o => some { base with cls := 3, sel := t.toNat, srcs := [o.a.toNat, o.b.toNat], rep := true, wr := wD o.d.toNat, fch := true }
  | .cpyx t o => some { base with cls := 3, sel := t.toNat, srcs := [o.a.toNat], rep := true, wr := wD o.d.toNat, fch := true }
  | .binit t o => some { base with cls := 3, sel := t.toNat, srcs := [o.a.toNat, o.b.toNat], rep := true, wr := wD o.d.toNat, fch := true }
  | .barv t o => some { base with cls := 3, sel := t.toNat, srcs := [o.a.toNat], rep := true, wr := wD o.d.toNat, fch := true }
  | .bexp t o => some { base with cls := 3, sel := t.toNat, srcs := [o.a.toNat, o.b.toNat], rep := true, wr := wD o.d.toNat, fch := true }
  | .bwait t o => some { base with cls := 3, sel := t.toNat, srcs := [o.a.toNat], rep := true, wr := wD o.d.toNat, fch := true }
  | .ared t o => some { base with cls := 3, sel := t.toNat, srcs := [o.a.toNat], rep := true, wr := wD o.d.toNat, coll := some (o.a.toNat, 5) }
  | .rscat t o => some { base with cls := 3, sel := t.toNat, srcs := [o.a.toNat], rep := true, wr := wD o.d.toNat, coll := some (o.a.toNat, 5) }
  | .agath t o => some { base with cls := 3, sel := t.toNat, srcs := [o.a.toNat], rep := true, wr := wD o.d.toNat, coll := some (o.a.toNat, 5) }
  | .bcst t o => some { base with cls := 3, sel := t.toNat, srcs := [o.a.toNat], rep := true, wr := wD o.d.toNat, coll := some (o.a.toNat, 5) }
  | .a2a t o => some { base with cls := 3, sel := t.toNat, srcs := [o.a.toNat], rep := true, wr := wD o.d.toNat, coll := some (o.a.toNat, 5) }
  | .cwait t o => some { base with cls := 3, sel := t.toNat, srcs := [o.a.toNat], rep := true, wr := wD o.d.toNat, coll := some (o.a.toNat, 0) }
  | .cabrt t a => some { base with cls := 3, sel := t.toNat, srcs := [a.toNat], coll := some (a.toNat, 0) }
  | .vget t d => some { base with cls := 0, sel := t.toNat, wr := wD d.toNat }
  | .vack t a => some { base with cls := 0, sel := t.toNat, srcs := [a.toNat] }
  | .vjoin t => some { base with cls := 0, sel := t.toNat }
  | .trap t a => some { base with cls := 0, sel := t.toNat, srcs := [a.toNat] }
  | .brk t => some { base with cls := 0, sel := t.toNat }
  | .mark t a => some { base with cls := 0, sel := t.toNat, srcs := [a.toNat] }
  | .cyc t d => some { base with cls := 0, sel := t.toNat, wr := wD d.toNat }
  | .perf t o => some { base with cls := 0, sel := t.toNat, srcs := [o.a.toNat], wr := wD o.d.toNat }
  | .halt t => some { base with cls := 0, sel := t.toNat }
  | _ => none

/-! ## Channels -/

/-- The in-channels that a list of source codes reads. -/
def chansOf (srcs : List Nat) : List Nat := (srcs.filter fun c => decide (16 ≤ c) && decide (c < 20)).map (· - 16)

/-- R83: an arc toward the next virtual stripe whose successor is not resident, or that has parked tokens, and so
needs a place of the pass buffer. -/
def Seg.needsPark (_g : Seg) (c : Core) (p e k : Nat) : Bool :=
  let r := (c.elem p e).route k
  routeKind r == 2 &&
    match c.successor p with
    | none => true
    | some _ => match routeElem e r with
      | some e' => c.arcParked ((c.stripe p).vs + 1) e' (routeChan r)
      | none => false

/-- R83: the arcs that ask for a place, as (virtual stripe, element, out-channel, physical stripe). -/
def Seg.parkArcs (g : Seg) (c : Core) : List (Nat × Nat × Nat × Nat) :=
  (List.range c.stripes.length).flatMap fun p =>
    if (c.stripe p).res then
      (List.range 16).flatMap fun e =>
        if (c.elem p e).on then
          ([0, 1, 2, 3].filter fun k => g.needsPark c p e k).map fun k => ((c.stripe p).vs, e, k, p)
        else []
    else []

/-- R83: the order in which places are granted. -/
def arcBefore (a b : Nat × Nat × Nat × Nat) : Bool :=
  decide (a.1 < b.1) || (a.1 == b.1 && (decide (a.2.1 < b.2.1) || (a.2.1 == b.2.1 && decide (a.2.2.1 < b.2.2.1))))

/-- R83: whether the arc is granted a place in this cycle. -/
def Seg.granted (g : Seg) (c : Core) (p e k : Nat) : Bool :=
  let me := ((c.stripe p).vs, e, k, p)
  let before := ((g.parkArcs c).filter fun a => arcBefore a me).length
  decide (c.parkd.length + before < 32768)

/-- R64, R65, R83, R212: the free slots of out-channel `k` at the start of the cycle; 0 when it is not routed, or leads to a
mailbox whose action queue is full. -/
def Seg.freeOf (g : Seg) (p e k : Nat) : Nat :=
  let c := g.start
  let el := c.elem p e
  let r := el.route k
  if !g.routed el k then 0
  else
    match routeKind r with
    | 1 => match routeElem e r with
      | some e' => 4 - (nth [] (c.elem p e').inq (routeChan r)).length
      | none => 0
    | 2 =>
      if g.needsPark c p e k then (if g.granted c p e k then 1 else 0)
      else match c.successor p, routeElem e r with
        | some q, some e' => 4 - (nth [] (c.elem q e').inq (routeChan r)).length
        | _, _ => 0
    | 4 => if g.full.contains (routeIdx r) then 0 else 4 - (nth [] el.oq k).length
    | _ => 4 - (nth [] el.oq k).length

/-- R46, R206: whether route code `r` of element `e'` on the same or the previous virtual stripe reaches in-channel
`k` of element `e`. -/
def routeHits (kind r e' e k : Nat) : Bool := routeKind r == kind && routeElem e' r == some e && routeChan r == k

/-- The elements of a virtual stripe's image. -/
def Seg.stripeImg (g : Seg) (vs : Nat) : StripeImg := nth default g.image.stripes vs

/-- R206: an element image with a wharf marker path. -/
def ElemImg.markerPath (i : ElemImg) : Bool := i.cfg.route.any fun r => routeKind r.toNat == 3

/-- R72: in-channel `k` of element `e` of virtual stripe `vs` is fed by another element's out-channel, a stream port,
a crossing, or the wharf's marker path. -/
def Seg.gateRouted (g : Seg) (vs e k : Nat) : Bool :=
  let own := nth default (g.stripeImg vs).elems e
  let r := (nth 0 own.cfg.route k).toNat
  let port := (routeKind r == 4 && (nth default g.image.streams (routeIdx r)).dir == 0) ||
    (routeKind r == 5 && (nth default g.image.chans (routeIdx r)).dir == 0)
  let same := (List.range 16).any fun e' =>
    let i := nth default (g.stripeImg vs).elems e'
    (e' != e && i.cfg.route.any fun x => routeHits 1 x.toNat e' e k) ||
    (i.markerPath && i.cfg.yt.any fun x => routeHits 1 x.toNat e' e k)
  let prev := vs != 0 && (List.range 16).any fun e' =>
    let i := nth default (g.stripeImg (vs - 1)).elems e'
    (i.cfg.route.any fun x => routeHits 2 x.toNat e' e k) ||
    (i.markerPath && i.cfg.yt.any fun x => routeHits 2 x.toNat e' e k)
  port || same || prev

/-- The gate-routed in-channels of the element on stripe `p`. -/
def Seg.gateChans (g : Seg) (p e : Nat) : List Nat := [0, 1, 2, 3].filter fun k => g.gateRouted (g.start.stripe p).vs e k

/-! ## Guards (R25, R31, R32, R69 to R71) -/

/-- R32: the tests of a table guard that concern neither heads nor free slots. -/
def guardRest (el : Elem) (wire : Bool) (gd : Nat) : Bool :=
  ([0, 1, 2, 3, 4, 5, 6, 7].all fun k =>
    !bitN gd (16 + k) ||
      (let want := bitN gd (8 + k)
       let p := el.predBits k
       if bitN gd 7 then p == (if want then 0xFFFF else 0) else p != (if want then 0 else 0xFFFF))) &&
  (!bitN gd 4 || wire) && (guardVpres gd == 0 || (el.vreg (guardVpres gd)).pres)

/-- R32: the kind test of one INREQ head; `nulls` lets a null stand for data (R70). -/
def headFits (mode : Nat) (nulls : Bool) (h : Option Token) : Bool :=
  match h with
  | none => false
  | some t =>
    match mode with
    | 0 => t.kind == .data || (nulls && t.kind == .null)
    | 1 => t.kind.isMarker
    | 2 => t.kind == .null
    | _ => true

/-- The out-channels that a rule writes. -/
def Seg.outsOf (g : Seg) (el : Elem) (r : RuleInfo) : List Nat :=
  if r.wr.contains (2, 9) then [0, 1, 2, 3].filter fun k => g.routed el k
  else (r.wr.filter fun w => w.1 == 2).map (·.2)

/-- R69, R96: the out-channels that need a free slot. A compact SPLIT4 needs only the one selected. -/
def Seg.needOut (g : Seg) (el : Elem) (i : Instr) (r : RuleInfo) : List Nat :=
  match i with
  | .split4 _ o =>
    if o.c then
      let v := el.src o.b.toNat
      let ks := maskList o.mask
      if v.null || (el.src o.a.toNat).null then []
      else if v.pois then ks.take 1
      else ks.filter fun k => (v.lanes.get 0).toNat == k
    else maskList o.mask
  | _ => g.outsOf el r

/-- R33, R69: the OUTREQ channels that must have a free slot: under a compact SPLIT4 not those of its mask. -/
def outReq (i : Instr) (gd : Nat) : List Nat :=
  let all := [0, 1, 2, 3].filter fun k => bitN (guardOutreq gd) k
  match i with
  | .split4 _ o => if o.c then all.filter fun k => !tb o.mask k else all
  | _ => all

/-- R95: the rows of MERGE's table: 1 take both and put A, 2 take both and put B, 3 take both and put null, 4 take A,
5 take B, 6 pairing broken; 0 not ready, or both markers. -/
def mergeCase (a b : Option Token) : Nat :=
  let d := fun (h : Option Token) => match h with | some t => t.kind == .data | none => false
  let tagged := fun (h : Option Token) => match h with | some t => t.kind == .data && t.seqv | none => false
  if d a && headNull b then 1
  else if headNull a && d b then 2
  else if headNull a && headNull b then 3
  else if tagged a && (tagged b || b.isNone || headMarker b) then 4
  else if tagged b && (a.isNone || headMarker a) then 5
  else if d a && d b then 6
  else if (headTakable a && headMarker b) || (headMarker a && headTakable b) then 6
  else 0

/-- The register holding slot of the REORD window that matches NEXTSEQ (R103). -/
def Elem.reordMatch (e : Elem) : Option Token :=
  match nth none e.reord (e.nextSeq.toNat % 256) with
  | some t => if t.seq = e.nextSeq then some t else none
  | none => none

/-- R31: the table or implicit guard, or its replacement where R69 and R174 evaluate none. `nulls` asks whether it
would hold if the nulls at heads the rule reads were data. -/
def Seg.guardHolds (g : Seg) (p e : Nat) (el : Elem) (i : Instr) (r : RuleInfo) (nulls : Bool) : Bool :=
  let free := fun k => decide (0 < g.freeOf p e k)
  let chans := chansOf r.srcs
  let outs := (g.needOut el i r).all free
  let guard := fun (skipIn : Bool) =>
    if r.sel = 0x3E then outs && (skipIn || chans.all fun k => headFits 0 nulls (el.head k))
    else
      let gd := (nth 0 el.img.guards r.sel).toNat
      guardRest el (g.start.stripe p).wire gd && outs && (outReq i gd).all free &&
      [0, 1, 2, 3].all fun k => !bitN (guardInreq gd) k || headFits (guardHead gd) (nulls && chans.contains k) (el.head k)
  match i with
  | .rep _ o => if el.holdLeft != 0 then free o.d.toNat else guard false
  | .reord _ _ _ => if el.reordMatch.isSome then outs else guard false
  | .merge _ o => if r.sel = 0x3E then mergeCase (el.head o.a.toNat) (el.head o.b.toNat) != 0 && outs else guard false
  | .accrd _ o => if (nth default el.acc o.t.toNat).xfer = 1 then free o.ch.toNat else guard false
  | _ => guard false

/-! ## Own conditions (R69, R174, R223, R253, R259, R296) -/

/-- R165: the tokens of a dense or sparse B group. -/
def typeParts (ty : Nat) : Nat := partsPerLane (typeWidth ty)
def groupLen (ty : Nat) (sparse : Nat) : Nat :=
  if sparse = 0 then 32 / typeParts ty else 1 + (if sparse = 1 then 16 else 8) / typeParts ty

/-- The B-stage tokens that no MMA has taken. -/
def Elem.unassigned (e : Elem) : List Staged := e.stage.filter fun t => t.grp.isNone

/-- R173: MMAs that hold a place of the queue. -/
def Elem.mqUsed (e : Elem) : Nat := (e.mq.filter fun m => !m.ended).length

def Elem.plane (e : Elem) (n : Nat) : PlaneTile := nth default e.planes n
def Elem.accT (e : Elem) (n : Nat) : AccTile := nth default e.acc n

/-- R174: the condition of MMA and MMAS. -/
def Elem.mmaOk (e : Elem) (o : FmtMma) : Bool :=
  let pt := e.plane o.pl.toNat
  decide (groupLen pt.fmt.toNat pt.sparse.toNat ≤ e.unassigned.length) && decide (e.mqUsed < 4) && !pt.filling &&
  (e.accT o.t.toNat).xfer == 0

/-- The chain and position of a memory rule in slot `j`: its own fields, its FCHAIN entry, or a lane of its operand. -/
def Elem.chainPos (e : Elem) (r : RuleInfo) (j : Nat) : Option (Nat × Nat) :=
  match r.chain with
  | some cp => some cp
  | none =>
    if r.fch then let f := (nth 0 e.img.cfg.fchain j).toNat; some (f / 16, f % 16)
    else match r.coll with
      | some (a, 5) => let w := ((e.src a).lanes.get 5).toNat; some (fld w 16 2, fld w 12 4)
      | some (a, _) => let w := ((e.src a).lanes.get 0).toNat; some (fld w 14 2, fld w 10 4)
      | none => none

/-- R69, R174, R223, R253: the instruction's own condition. A chain's queue is judged as it stood at the cycle's start: rules of several
elements that fire into one chain in a cycle all enter it, and it may then hold more than 16 (the model's choice, log 41). -/
def Seg.ownOk (g : Seg) (p : Nat) (el : Elem) (i : Instr) (r : RuleInfo) (j : Nat) : Bool :=
  let queueOk := match el.chainPos r j with
    | some (c, _) => decide ((nth [] (g.start.stripe p).wharf.chains c).length < 16)
    | none => true
  queueOk &&
  match i with
  | .gate .. => (g.start.stripe p).wire
  | .cnt _ k outer =>
    let c := el.counter k.toNat
    if outer then c.to_ != 0 else c.ti != 0 && (c.ki.toNat + 1 != c.ti.toNat || c.to_ != 0)
  | .plw _ o => (el.plane o.pl.toNat).busy == 0
  | .plws _ o => (el.plane o.pl.toNat).busy == 0
  | .plclr _ pl => (el.plane pl.toNat).busy == 0
  | .mma _ o => el.mmaOk o
  | .mmas _ o => el.mmaOk o
  | .accrd _ o => (el.accT o.t.toNat).xfer == 1 || ((el.accT o.t.toNat).xfer == 0 && (el.accT o.t.toNat).pend == 0)
  | .accwr _ o => (el.accT o.t.toNat).pend == 0 && ((el.accT o.t.toNat).xfer == 0 || (el.accT o.t.toNat).xfer == 2)
  | .accclr _ t => (el.accT t.toNat).pend == 0
  | .mfwd .. => el.stage.any fun x => x.grp.isSome && !x.fwd
  | .fence .. => decide (el.fences < 4)
  | _ => true

/-- R71: the guard admits markers and one of the heads it requires is one. -/
def Elem.onMarker (el : Elem) (r : RuleInfo) : Bool :=
  r.sel != 0x3E &&
    (let gd := (nth 0 el.img.guards r.sel).toNat
     bitN (guardHead gd) 0 && [0, 1, 2, 3].any fun k => bitN (guardInreq gd) k && headMarker (el.head k))

/-- R69, R174: a hold, a window match or a read-out in progress, whose guard is not evaluated. -/
def Elem.continuing (el : Elem) (i : Instr) : Bool :=
  match i with
  | .rep .. => el.holdLeft != 0
  | .reord .. => el.reordMatch.isSome
  | .accrd _ o => (el.accT o.t.toNat).xfer == 1
  | _ => false

/-- R253: FENCE, which is never marker-ready. -/
def isFence (i : Instr) : Bool := match i with | .fence .. => true | _ => false

/-- R68: the rule of slot `j` is ready, null-ready or marker-ready. -/
def Seg.slotReady (g : Seg) (p e : Nat) (el : Elem) (i : Instr) (r : RuleInfo) (j : Nat) : Bool :=
  g.ownOk p el i r j &&
  (if el.onMarker r && !el.continuing i then
    !isFence i && g.guardHolds p e el i r false && !tb el.mdone j
  else g.guardHolds p e el i r false || g.guardHolds p e el i r true)

/-- The rule in a slot. -/
def Elem.ruleAt (e : Elem) (j : Nat) : Option Instr :=
  match decodeRule (nth 0 e.img.rules j).toNat with
  | .ok i => some i
  | .error _ => none

/-- R68: the multi-cycle units of the element that take no rule. -/
def unitBusy (el lv : Elem) (cls : Nat) : Bool :=
  (cls == 1 && decide (0 < el.vbusy)) || (cls == 3 && lv.cyc.applied)

/-- R34. -/
def Elem.conflict (e : Elem) (i j : Nat) : Bool :=
  tb (nth (0 : W) e.img.conf j) i || tb (nth (0 : W) e.img.conf i) j

/-- R68: the selection from slot `j` on: the slots taken with their classes. -/
def Seg.selectFrom (g : Seg) (p e : Nat) (el lv : Elem) : List Nat → List (Nat × Nat) → List (Nat × Nat)
  | [], acc => acc
  | j :: js, acc =>
    match el.ruleAt j with
    | none => g.selectFrom p e el lv js acc
    | some i =>
      match ruleInfo i with
      | none => g.selectFrom p e el lv js acc
      | some r =>
        if acc.any (fun x => x.2 == r.cls) || unitBusy el lv r.cls || acc.any (fun x => el.conflict x.1 j) then
          g.selectFrom p e el lv js acc
        else if g.slotReady p e el i r j then g.selectFrom p e el lv js (acc ++ [(j, r.cls)])
        else g.selectFrom p e el lv js acc

/-- The slots of an element that hold a rule. -/
def Elem.usedSlots (e : Elem) : List Nat := (List.range 32).filter fun j => fld (nth 0 e.img.rules j).toNat 26 6 != 0x3F

/-! ## Passing END (R81, R82, R427) -/

/-- R81: an element passes markers when it has a gate or an EMIT rule. -/
def Seg.passes (g : Seg) (p e : Nat) : Bool :=
  let el := g.start.elem p e
  !(g.gateChans p e).isEmpty || el.usedSlots.any fun j => fld (nth 0 el.img.rules j).toNat 19 7 == 0x08

/-- R81: every configured element of a stripe that passes markers has passed END of a run. -/
def Seg.passedEnd (g : Seg) (p run : Nat) : Bool :=
  (List.range 16).all fun e =>
    let el := g.start.elem p e
    !el.on || !g.passes p e || decide (run < el.erun)

/-- R81, R254: no request of the wharf is outstanding, and every fence has resolved. -/
def Wharf.idle (w : Wharf) : Bool :=
  w.chains.all (fun c => c.isEmpty) && w.fly.isEmpty && w.fences.isEmpty && w.parked.isEmpty && w.pend.isEmpty && w.atoms.isEmpty && w.rq.all Option.isNone

/-- R81: the places left of an in-channel once the cycle has taken its head, when `took` asks for that. -/
def Elem.after (el : Elem) (k : Nat) (took : Bool) : List Slot :=
  if took && el.cyc.taken.contains k then (nth [] el.inq k).drop 1 else nth [] el.inq k

/-- R81: every out-channel queue of stripe `p` is empty, whether its tokens stand at the producer or, on the routes of kinds 1
and 2, at their consumer; parked tokens are out of it. -/
def Core.outsEmpty (c : Core) (p : Nat) (took : Bool) : Bool :=
  (List.range 16).all fun e =>
    let el := c.elem p e
    !el.on || [0, 1, 2, 3].all fun k =>
      (nth [] el.oq k).isEmpty &&
      (let r := el.route k
       match routeElem e r with
       | some e' =>
         if routeKind r = 1 then ((c.elem p e').after (routeChan r) took).isEmpty
         else if routeKind r = 2 then (match c.successor p with
           | some q => ((c.elem q e').after (routeChan r) took).isEmpty
           | none => true)
         else true
       | none => true)

/-- R79: the segment scrolls when it has more virtual stripes than the window. -/
def Seg.scrolls (g : Seg) : Bool := decide (g.start.stripes.length ≤ g.image.nstripe)

/-- R82: the virtual stripe of `p` is stateful. -/
def Seg.isStateful (g : Seg) (p : Nat) : Bool := nth false g.image.stateful (g.start.stripe p).vs

/-- R81, R82, R427: the run whose state record stripe `p` owes: END has passed its elements, on a scrolling segment its
channels and wharf are empty too, and the record is not written. -/
def Seg.saveDue (g : Seg) (p : Nat) : Option Nat :=
  let st := g.start.stripe p
  if !st.res || !g.isStateful p then none
  else if g.scrolls then
    if g.passedEnd p st.run && g.start.outsEmpty p false && st.wharf.idle && !st.saved then some st.run
    else none
  else
    let runs := ((List.range 16).filter fun e => (st.elem e).on && g.passes p e).map fun e => (st.elem e).erun
    match runs with
    | [] => none
    | r0 :: rs =>
      let r := rs.foldl min r0
      if r = 0 ∨ (g.srecs.any fun x => x.vs == st.vs && x.run + 1 == r) then none else some (r - 1)

/-- R82, R427: the stripe takes no rule and passes no marker: a save or restore holds it, or a save is due. -/
def Seg.stripeHeld (g : Seg) (p : Nat) : Bool :=
  (g.start.stripe p).hold != 0 || (g.live.stripe p).hold != 0 || (g.saveDue p).isSome

/-- R68, R434, R436: the slots that the element takes in this cycle; none while the stripe is not resident or is held, a spare takes the
element's state, or its latches have failed. -/
def Seg.selected (g : Seg) (p e : Nat) : List Nat :=
  let st := g.start.stripe p
  let el := g.viewOf g.start p e
  let sp := (g.live.stripe p)
  if st.res && el.on && !g.stripeHeld p && el.hold == 0 && !(sp.elem e).cyc.noRules then (g.selectFrom p e el (sp.elem e) el.usedSlots []).map (·.1) else []

/-! ## The marker gate (R72, R177, R205) -/

/-- R203: an element has closed invocation `j` of a run. -/
def Elem.closed (el : Elem) (run j : Nat) : Bool := decide (run < el.erun) || (el.erun == run && decide (j < el.ord.toNat))

/-- The chain positions that an element's image fixes for its rules; those of collective rules come with their
operands (log 23). -/
def Elem.positions (el : Elem) (c : Nat) : List Nat :=
  el.usedSlots.filterMap fun j =>
    match el.ruleAt j with
    | none => none
    | some i =>
      match ruleInfo i with
      | none => none
      | some r =>
        if r.coll.isSome then none
        else match el.chainPos r j with
          | some (c', p') => if c' = c then some p' else none
          | none => none

/-- R203: a request that waits for the gate of its own element: the element holds a rule of the chain at a lower position and has
not closed the invocation. -/
def Elem.waitsOwnGate (el : Elem) (q : Req) : Bool :=
  !el.closed q.run q.ord && (el.positions q.chain).any fun x => decide (x < q.pos)

/-- R205: an LD, LDS or SRD of the element is outstanding. One that waits for the element's own gate does not hold that gate
(log 20). -/
def Wharf.readOut (w : Wharf) (e : Nat) (el : Elem) : Bool :=
  w.pend.any fun x => x.elem == e && x.read && !(w.chains.any fun c => c.any fun q => q.no == x.no && el.waitsOwnGate q)

/-- R177: the matrix work that holds the gate. -/
def Elem.matrixIdle (el : Elem) : Bool :=
  el.stage.isEmpty && el.mqUsed == 0 && (el.acc.all fun a => a.pend == 0 && a.xfer == 0) &&
  el.planes.all fun t => !t.filling

/-- R75 cause 0x6: the slot of a REORD whose A shows a marker while tokens are held and none matches NEXTSEQ. -/
def Elem.reordStuck (el : Elem) : Option Nat :=
  if el.reordMatch.isNone && el.reord.any Option.isSome then
    el.usedSlots.find? fun j => match el.ruleAt j with
      | some (.reord _ _ a) => headMarker (el.head a.toNat)
      | _ => false
  else none

/-- R72, R101, R177, R205: the kind of marker that the gate may pass; none while a REP hold is active. A marker that a REORD finds fault with stays (R75, log 21). -/
def Seg.gateReady (g : Seg) (p e : Nat) : Option Kind :=
  let st := g.start.stripe p
  let el := g.viewOf g.start p e
  let ks := g.gateChans p e
  let kinds := ks.map fun k => match el.head k with | some t => if t.kind.isMarker then some t.kind else none | none => none
  match kinds with
  | some k :: _ =>
    if st.res && el.on && !g.stripeHeld p && kinds.all (· == some k) && el.matrixIdle && !st.wharf.readOut e el && el.reordStuck.isNone && el.holdLeft == 0 &&
      ([0, 1, 2, 3].all fun o => !g.routed el o || decide (0 < g.freeOf p e o)) then some k else none
  | _ => none

/-! ## Stops (R398, R400) -/

/-- Whether run `no` has invocation `j`; a run that the segment no longer lists is taken to have it. -/
def Seg.hasInv (g : Seg) (no j : Nat) : Bool :=
  match g.runs.find? fun r => r.no == no with
  | some r => decide (j < r.count)
  | none => true

/-- The invocation of one arm comes before that of another. -/
def Arm.before (a b : Arm) : Bool := decide (a.run < b.run) || (a.run == b.run && decide (a.ord < b.ord))

/-- R400: the arm of a stripe whose last configured element has forwarded the EOI that closes its invocation. An END closes no
invocation (log 34). -/
def Seg.commitDue (g : Seg) (p : Nat) : Option Arm :=
  match (g.start.stripe p).arm with
  | some a =>
    if (g.start.stripe p).res && g.hasInv a.run a.ord && ((List.range 16).all fun e =>
        let el := g.start.elem p e
        !el.on || !g.passes p e || decide (a.run < el.erun) || (el.erun == a.run && decide (a.ord < el.ord.toNat))) then some a
    else none
  | none => none

/-- The physical stripe at which a commit stop is due. -/
def Seg.commitAt (g : Seg) : Option Nat := (List.range g.start.stripes.length).find? fun p => (g.commitDue p).isSome

/-- R330, R398, R400, R452: the clock does not run: the segment is stopped, or a stop falls before this cycle. -/
def Seg.clockHeld (g : Seg) : Bool :=
  g.stopped || g.halt == .saving || g.halt == .cut || (match g.frz with | some d => decide (d + 9 ≤ g.sck) | none => false) || g.commitAt.isSome

end Sys2Proof.Machine
end

