-- ==== Sys2Proof/Machine/Token.lean ====
section
/-! DEFINITION. The token-control instructions, majors 0x00 to 0x12 (R89 to R108), the marker faults they raise
(R75, R395), the counter steps (R78) and the gate's actions (R73). -/

namespace Sys2Proof.Machine

/-! ## Faults of the token flow -/

/-- R395: DETAIL0 of a MARKER record: the heads, NEXTSEQ and the sequence tag of the offending token. -/
def markerDetail (el : Elem) (off : Option Val) : Nat :=
  let heads := [0, 1, 2, 3].foldl (fun acc k => match el.head k with
    | some t => acc + t.kind.code * 4 ^ k + 2 ^ (8 + k)
    | none => acc) 0
  let o := match off with
    | some v => if v.seqv then v.seq.toNat * 2 ^ 28 + 2 ^ 44 else 0
    | none => 0
  heads + el.nextSeq.toNat * 2 ^ 12 + o

/-- The slot counted as fired with none of its effect (log 21) but the checks of the heads it read (R419). -/
def State.markFired (s : State) (rds : List Rd) : State :=
  let st := s.view
  s.onCurElem fun lv => { lv with cyc := { lv.cyc with
    fired := lv.cyc.fired ++ [s.cur.j], badchk := dedup (lv.cyc.badchk ++ st.badHeads rds) } }

/-- R75: a MARKER fault of the firing rule, which does nothing else. -/
def State.markerFault (s : State) (rds : List Rd) (cause : Nat) (off : Option Val) : State :=
  (s.markFired rds).faultRule { s.ruleRec 4 cause with
    pois := (match off with | some v => v.pois | none => false), d0 := markerDetail s.view off }

/-- R395, R426: the segment's poison origin as DETAIL0 of a CONTAIN record. -/
def Seg.origin0 (g : Seg) : Nat := g.origin

/-- A CONTAIN of the firing rule, which does nothing else. -/
def State.containRule (s : State) (rds : List Rd) (cause : Nat) : State :=
  (s.markFired rds).faultRule { s.ruleRec 7 cause with pois := true, d0 := (s.segD s.cur.n s.cur.k).origin0 }

/-! ## Counter steps (R78) -/

/-- The outer step: `(counter, full wrap)`. -/
def Counter.outerStep (c : Counter) : Counter × Bool :=
  if c.ko.toNat + 1 = c.to_.toNat then
    ({ c with ki := 0, ko := 0, to_ := c.pto.getD c.to_, pto := none }, true)
  else ({ c with ki := 0, ko := c.ko + 1 }, false)

/-- The inner step: `(counter, inner wrap, full wrap)`. -/
def Counter.innerStep (c : Counter) : Counter × Bool × Bool :=
  if c.ki.toNat + 1 = c.ti.toNat then
    let (c, full) := { c with ti := c.pti.getD c.ti, pti := none }.outerStep
    (c, true, full)
  else ({ c with ki := c.ki + 1 }, false, false)

/-- R100: a trip count bound at once when the level is unbound, pending otherwise. -/
def Counter.bind (c : Counter) (outer : Bool) (t : W16) : Counter :=
  if outer then (if c.to_ = 0 then { c with to_ := t } else { c with pto := some t })
  else (if c.ti = 0 then { c with ti := t } else { c with pti := some t })

/-! ## The gate's actions on the element (R73, R139, R177) -/

/-- R73: what MRESET names, reset. -/
def Elem.mreset (el : Elem) : Elem :=
  let m := el.img.cfg.mreset
  { el with
    v := (List.range 16).map fun k => if tb m k then { el.vreg k with lanes := Lanes.zero, pres := false, pois := false,
                                                                       seqv := false, seq := 0 } else el.vreg k
    acc := (List.range 8).map fun k => if tb m (16 + k) then
        { el.accT k with vals := List.replicate 256 0, xfer := 0, cur := 0, poison := false } else el.accT k
    ctr := [0, 1].map fun k => if tb m (24 + k) then
        { el.counter k with ki := 0, ko := 0, pti := none, pto := none } else el.counter k
    pred := if tb m 26 then List.replicate 8 0 else el.pred }

/-- R73, R139: the gate's actions for a marker kind; the new seeds take effect at the end of the cycle. `argix` is the argument
index of the invocation that begins. Under EMIT with D = 28 (R98) another rule of the cycle may write what MRESET names or set
its MDONE bit: the later slot's write then stands, which the spec does not settle (the model's choice, log 40). -/
def Elem.gateActions (el : Elem) (kind : Kind) (seed argix vs e : Nat) : Elem :=
  let el := { el.mreset with mdone := 0 }
  match kind with
  | .eoi =>
    { el with
      ord := el.ord + 1
      cyc := { el.cyc with newSr := some (srSeeds seed argix vs e) }
      ctr := el.ctr.map fun c => if c.reload then { c with ti := c.ti0, to_ := c.to0 } else c }
  | .fin => { el with ord := 0, nextSeq := 0, erun := el.erun + 1, ends := 0, lastPace := none }
  | _ => el

/-- The gate's actions on the element of the step. -/
def State.gateActs (s : State) (kind : Kind) : State :=
  let g := s.segD s.cur.n s.cur.k
  let a := g.argix s.curElem.erun (s.curElem.ord.toNat + 1)
  s.onCurElem fun lv => lv.gateActions kind g.image.seed a (g.vsAt s.cur.p) s.cur.e

/-- R206: a marker on the wharf's marker path: it goes to every in-channel that the element's reply targets name, behind the
replies due there. -/
def State.markPath (s : State) (kind : Kind) : State :=
  let yt := s.curElem.img.cfg.yt
  ((List.range yt.length).filter fun y => routeKind (nth 0 yt y).toNat != 0).foldl (fun s y => s.onCurSeg fun g =>
    { g.onWharf s.cur.p fun w => { w with pend := w.pend ++ [⟨g.no, s.cur.e, .reply y, false, false, some (markerTok kind 0, g.wck)⟩] } with
      no := g.no + 1 }) s

/-- R73, R98: a marker written to every routed out-channel. -/
def State.putMarkers (s : State) (kind : Kind) : State :=
  let g := s.segD s.cur.n s.cur.k
  ([0, 1, 2, 3].filter fun k => g.routed s.view k).foldl
    (fun s k => if routeKind (s.curElem.route k) = 3 then s.markPath kind else s.putTok k kind (Val.plain Lanes.zero)) s

/-! ## The instructions -/

/-- NOP (R90). -/
def execNop (t : BitVec 6) (s : State) : Res := .next (s.fire t [] [] fun _ s => s)

/-- The value moved with its tag and poison. -/
def State.moveTo (s : State) (t : BitVec 6) (d a : BitVec 5) : State :=
  s.fire t [rd a false] [d.toNat] fun vs s => s.putD d.toNat (resultOf vs (nth default vs 0).lanes) 0

/-- MOV (R91). -/
def execMov (t : BitVec 6) (o : FmtDA) (s : State) : Res := .next (s.moveTo t o.d o.a)

/-- DROP (R92). -/
def execDrop (t : BitVec 6) (a : BitVec 2) (s : State) : Res := .next (s.fire t [rdIn a false] [] fun _ s => s)

/-- NULL (R93). -/
def execNull (t : BitVec 6) (d : BitVec 2) (s : State) : Res :=
  .next (s.fire t [] [] fun _ s => s.putNull d.toNat [])

/-- STEER (R94): lane 0 of the predicate decides, and the null carries the tag of the token. -/
def execSteer (t : BitVec 6) (o : FmtSteer) (s : State) : Res :=
  let yes := tb (s.view.predBits o.p.toNat) 0
  .next (s.fire t [rd o.a o.ka] [20 + o.d.toNat, 20 + o.f.toNat] fun vs s =>
    let (dst, other) := if yes then (o.d.toNat, o.f.toNat) else (o.f.toNat, o.d.toNat)
    (s.putD (20 + dst) (resultOf vs (nth default vs 0).lanes) 0).putNullLike other vs)

/-- MERGE (R95). -/
def execMerge (t : BitVec 6) (o : FmtMerge) (s : State) : Res :=
  let el := s.view
  let ra := rdIn o.a false
  let rb := rdIn o.b false
  let va := el.src ra.code
  let vb := el.src rb.code
  let give := fun (rds : List Rd) (v : Val) =>
    (s.begin t rds).putD o.d.toNat (resultOf (rds.map fun r => el.src r.code) v.lanes) o.m.toNat
  match mergeCase (el.head o.a.toNat) (el.head o.b.toNat) with
  | 1 => .next (give [ra, rb] va)
  | 2 => .next (give [ra, rb] vb)
  | 3 => .next (s.nullFire t [ra, rb] [o.d.toNat])
  | 4 => .next (give [ra] va)
  | 5 => .next (give [rb] vb)
  | 6 =>
    let bad : Option Token → Bool := fun h => match h with
      | some x => !x.kind.isMarker && !(x.kind == .data && x.seqv)
      | none => false
    .next (s.markerFault [ra, rb] 2 (some (if bad (el.head o.a.toNat) then va else vb)))
  | _ => .next (s.begin t [])

/-- R96: the channel of a mask that a selector value picks: `none` when it lies outside; a poisoned one picks the
lowest. -/
def pickChan (mask : BitVec 4) (sel : Val) : Option Nat :=
  if sel.pois then (maskList mask).head?
  else let v := (sel.lanes.get 0).toNat; if v < 4 ∧ tb mask v then some v else none

/-- SPLIT4 (R96): the selector check comes before the tag check of a compact split (log 21). -/
def execSplit4 (t : BitVec 6) (o : FmtSplit) (s : State) : Res :=
  let va := s.view.src o.a.toNat
  let vb := s.view.src o.b.toNat
  let rds := [rd o.a o.ka, rd o.b o.kb]
  let ks := maskList o.mask
  if va.null || vb.null then .next (s.nullFire t rds (if o.c then [] else ks.map (20 + ·)))
  else
    match pickChan o.mask vb with
    | none => .next (s.markerFault rds 3 (some vb))
    | some k =>
      if o.c && !va.seqv then .next (s.markerFault rds 4 (some va))
      else
        let s := (s.begin t rds).putD (20 + k) (resultOf [va, vb] va.lanes) 0
        .next (if o.c then s else (ks.filter (· != k)).foldl (fun s j => s.putNullLike j [va]) s)

/-- PICK4 (R97). The output is that of the selector and the selected head; the other heads it takes are no operands of the output,
and of a null selector only the selector is (log 40). -/
def execPick4 (t : BitVec 6) (o : FmtPick) (s : State) : Res :=
  let el := s.view
  let sel := el.src o.a.toNat
  let ks := maskList o.mask
  let rds := rd o.a o.ka :: ks.map fun k => ⟨16 + k, false⟩
  if sel.null then .next ((s.begin t rds).putNulls [o.d.toNat] [sel])
  else
    match pickChan o.mask sel with
    | none => .next (s.markerFault rds 3 (some sel))
    | some k =>
      match ks.find? fun j => j != k && (match el.head j with | some h => h.kind == .data | none => false) with
      | some j => .next (s.markerFault rds 2 (some (el.src (16 + j))))
      | none =>
        let v := el.src (16 + k)
        if v.null then .next ((s.begin t rds).putNulls [o.d.toNat] [sel, v])
        else .next ((s.begin t rds).putD o.d.toNat (resultOf [sel, v] v.lanes) 0)

/-- R81: an END sent to out-channel `k` of an element without a gate; once END has gone to each of the routed channels, the element
has passed END. -/
def Elem.endTo (el : Elem) (routed : List Nat) (k : Nat) : Elem :=
  let m := el.ends ||| (1 <<< k)
  if routed.all fun j => tb m j then { el with ends := 0, erun := el.erun + 1 } else { el with ends := m }

/-- R81: what an END to one out-channel is for the element of the step; an element with a gate passes END through that. -/
def State.noteEnd (s : State) (k : Nat) : State :=
  let g := s.segD s.cur.n s.cur.k
  if (g.gateChans s.cur.p s.cur.e).isEmpty then
    s.onCurElem fun lv => lv.endTo ([0, 1, 2, 3].filter fun j => g.routed s.view j) k
  else s

/-- EMIT (R98): one marker, or one to every routed out-channel with the gate's actions. -/
def execEmit (t : BitVec 6) (d : BitVec 5) (end_ : Bool) (s : State) : Res :=
  let kind := if end_ then Kind.fin else .eoi
  let s := s.begin t []
  if d = 28 then .next ((s.putMarkers kind).gateActs kind)
  else
    let u := s.putTok (d.toNat - 20) kind (Val.plain Lanes.zero)
    .next (if end_ then u.noteEnd (d.toNat - 20) else u)

/-- CNT (R99): a step of a counter, with p6 and p7 as the wraps. -/
def execCnt (t : BitVec 6) (k outer : Bool) (s : State) : Res :=
  let c := s.view.counter k.toNat
  let (c', inner, full) := if outer then (c.outerStep.1, false, c.outerStep.2) else c.innerStep
  let s := (s.begin t []).onCurElem fun lv => { lv with ctr := upd (fun _ => c') lv.ctr k.toNat }
  .next ((s.putP 6 (if inner then 0xFFFF else 0)).putP 7 (if full then 0xFFFF else 0))

/-- CNTB (R100). -/
def execCntb (t : BitVec 6) (o : FmtCntb) (s : State) : Res :=
  let v := s.view.src o.a.toNat
  let n := (v.lanes.get 0).toNat
  if v.null then .next (s.nullFire t [rd o.a o.ka] [])
  else if v.pois then .next (s.containRule [rd o.a o.ka] 5)
  else if n = 0 ∨ 65535 < n then .next (s.markerFault [rd o.a o.ka] 7 none)
  else .next ((s.begin t [rd o.a o.ka]).onCurElem fun lv =>
    { lv with ctr := upd (fun c => c.bind o.outer (BitVec.ofNat 16 n)) lv.ctr o.k.toNat })

/-- REP (R101): a hold in progress emits without reading. -/
def execRep (t : BitVec 6) (o : FmtRep) (s : State) : Res :=
  let el := s.view
  if el.holdLeft != 0 then
    .next (((s.begin 0x3E []).putTok o.d.toNat .data el.holdTok.val).onCurElem fun lv =>
      { lv with holdLeft := lv.holdLeft - 1 })
  else
    let va := el.src o.a.toNat
    let vb := el.src o.b.toNat
    let rds := [rd o.a o.ka, rd o.b o.kb]
    let n := vb.lanes.get 0
    if va.null || vb.null then .next (s.nullFire t rds [20 + o.d.toNat])
    else if vb.pois then .next (s.containRule rds 5)
    else if n = 0 then .next (s.begin t rds)
    else
      let v := resultOf [va, vb] va.lanes
      let tok : Token := ⟨v.lanes, .data, el.outType o.d.toNat, v.pois, v.seqv, v.seq, 0⟩
      .next (((s.begin t rds).putTok o.d.toNat .data v).onCurElem fun lv =>
        { lv with holdTok := tok.sealed, holdLeft := n - 1 })

/-- SEQT (R102): the tag is always written, the lanes under the mask. -/
def execSeqt (t : BitVec 6) (o : FmtABM) (s : State) : Res :=
  .next (s.fire t [rd o.a o.ka, rd o.b o.kb] [o.d.toNat] fun vs s =>
    s.putD o.d.toNat { resultOf vs (nth default vs 0).lanes with
      seqv := true, seq := ((nth default vs 1).lanes.get 0).setWidth 16 } o.m.toNat)

/-- REORD (R103). A null put to a v-register D has the null effect: it writes no register (R70; the model's reading, log 40). A
marker that a guard with HEAD 01 or 11 admits reads as zeros with SEQV 0 (R71), which is MARKER 0x5. -/
def execReord (t : BitVec 6) (d : BitVec 5) (a : BitVec 2) (s : State) : Res :=
  let el := s.view
  let r := rdIn a false
  match el.reordMatch with
  | some h =>
    .next (((s.begin 0x3E []).putD d.toNat h.val 0).onCurElem fun lv =>
      { lv with reord := upd (fun _ => none) lv.reord (el.nextSeq.toNat % 256), nextSeq := lv.nextSeq + 1 })
  | none =>
    match el.head a.toNat with
    | none => .next (s.begin t [])
    | some h =>
      let v := h.val
      let dist := (v.seq - el.nextSeq).toNat
      let place := v.seq.toNat % 256
      if v.null then .next (s.nullFire t [r] [d.toNat])
      else if !v.seqv || decide (255 < dist) then .next (s.markerFault [r] 5 (some v))
      else if dist = 0 then
        .next (((s.begin t [r]).putD d.toNat (resultOf [v] v.lanes) 0).onCurElem fun lv =>
          { lv with nextSeq := lv.nextSeq + 1 })
      else if (nth none el.reord place).isSome then .next (s.markerFault [r] 5 (some v))
      else .next ((s.begin t [r]).onCurElem fun lv =>
        { lv with reord := upd (fun _ => some { h with poison := v.pois }.sealed) lv.reord place })

/-- R76: whether a SIG set has fired in this cycle on the stripe. -/
def Stripe.sigSet (t : Stripe) : Bool :=
  t.elems.any fun e => e.cyc.fired.any fun j =>
    let w := (nth 0 e.img.rules j).toNat
    fld w 19 7 == 0x0E && bitN w 0

/-- SIG (R104, R76): a set of the cycle outweighs every clear. -/
def execSig (t : BitVec 6) (set : Bool) (s : State) : Res :=
  .next ((s.begin t []).onCurSeg fun g => g.onLive fun c => c.onStripe s.cur.p fun st =>
    { st with wire := set || st.sigSet })

/-- GATE (R105). -/
def execGate (t : BitVec 6) (o : FmtDA) (s : State) : Res := .next (s.moveTo t o.d o.a)

/-- PLOG (R106): bit `2a + b` of the table, lane by lane. -/
def execPlog (t : BitVec 6) (o : FmtPlog) (s : State) : Res :=
  let a := s.view.predBits o.a.toNat
  let b := s.view.predBits o.b.toNat
  .next (s.fire t [] [] fun _ s =>
    s.putP o.d.toNat (bits16 fun k => tb o.f (2 * (tb a k).toNat + (tb b k).toNat)))

/-- PSET (R107). -/
def execPset (t : BitVec 6) (d : BitVec 3) (a : BitVec 5) (s : State) : Res :=
  .next (s.fire t [rd a false] [] fun vs s => s.putP d.toNat (bits16 fun k => (nth default vs 0).lanes.get k != 0))

/-- A filled place. -/
def Slot.isTok (x : Slot) : Bool := match x with | .tok _ => true | .rsv _ => false

/-- R108: the tokens waiting in a queue; reserved places are none. -/
def waiting (q : List Slot) : Nat := (q.filter Slot.isTok).length

/-- R108: the tokens parked on the arc of an out-channel. -/
def Seg.parkedOn (g : Seg) (p e k : Nat) : Nat :=
  let c := g.start
  let r := (c.elem p e).route k
  match routeKind r, routeElem e r with
  | 2, some e' => (c.parkd.filter fun x => x.vs == (c.stripe p).vs + 1 && x.elem == e' && x.ch == routeChan r && x.slot.isTok).length
  | _, _ => 0

/-- SLOTS (R108). -/
def execSlots (t : BitVec 6) (d : BitVec 5) (s : State) : Res :=
  let g := s.segD s.cur.n s.cur.k
  let el := s.view
  let lane := fun k =>
    if k < 4 then (if g.routed el k then min 4 (g.freeOf s.cur.p s.cur.e k) else 0)
    else if k < 8 then waiting (nth [] el.inq (k - 4))
    else if k < 12 then g.parkedOn s.cur.p s.cur.e (k - 8)
    else 0
  .next (s.fire t [] [] fun _ s => s.putD d.toNat (Val.plain (Lanes.ofFn fun k => BitVec.ofNat 32 (lane k))) 0)

end Sys2Proof.Machine
end

