-- ==== Sys2Proof/Machine/Matrix.lean ====
section
/-! DEFINITION. The matrix instructions, majors 0x5D to 0x66, the B stage, the plane array's queue and the fold into
an accumulator tile (R158 to R189). -/

namespace Sys2Proof.Machine

/-! ## Block sums (R164 to R170) -/

/-- The value of a matrix operand code. -/
def matVal (ty w : Nat) : FVal :=
  if ty = 10 then let v := sextN 8 w; .fin (decide (v < 0)) v.natAbs 0 else (formatOf ty).decode w

/-- Bits set below place `k`. -/
def bitsBelow (w k : Nat) : Nat := (List.range k).foldl (fun acc i => acc + (bitN w i).toNat) 0

/-- R165: the present values in each byte of a mask: 4 of 8 or 2 of 8. -/
def sparseN (sp : Nat) : Nat := if sp = 1 then 4 else 2

/-- R165, R170: a mask that is not well-formed. -/
def maskBad (sp mask : Nat) : Bool := [0, 8, 16, 24].any fun b => bitsBelow (fld mask b 8) 8 != sparseN sp

/-- The K-mask of column `j`: of the group's mask token, or all ones for a dense group. -/
def groupMask (sp : Nat) (grp : List Token) (j : Nat) : Nat :=
  if sp = 0 then 2 ^ 32 - 1 else ((nth Token.blank grp 0).lanes.get j).toNat

/-- R164, R165: `b(k, j)` of a group, or none where it is not kept. -/
def bCode (ty sp : Nat) (grp : List Token) (j k : Nat) : Option Nat :=
  let w := typeWidth ty
  let q := partsPerLane w
  let mask := groupMask sp grp j
  let i := bitsBelow mask k
  let base := if sp = 0 then 0 else 1
  if bitN mask k then some (packedGet w (nth Token.blank grp (base + i / q)).lanes (q * j + i % q)) else none

/-- R168, R170: an exact product: a quiet NaN for a NaN factor, a signalling one for 0 times infinity. -/
def prodV (a b : FVal) : FVal :=
  match a, b with
  | .fin na ma ea, .fin nb mb eb => .fin (na != nb) (ma * mb) (ea + eb)
  | .inf na, .fin nb m _ => if m = 0 then .nan true false 0 else .inf (na != nb)
  | .fin na m _, .inf nb => if m = 0 then .nan true false 0 else .inf (na != nb)
  | .inf na, .inf nb => .inf (na != nb)
  | _, _ => .nan false false 0

/-- The kept products of an output: row `i` of A and column `j` of the group. -/
def keptProds (ty : Nat) (row : List W16) (col : List (Option Nat)) : List FVal :=
  (row.zip col).filterMap fun x => x.2.map fun b => prodV (matVal ty x.1.toNat) (matVal ty b)

/-- A kept non-zero finite product: sign, significand, exponent. -/
def nonzeroProds (ps : List FVal) : List (Bool × Nat × Int) :=
  ps.filterMap fun p => match p with
    | .fin n m e => if m = 0 then none else some (n, m, e)
    | _ => none

/-- R168: the exponent that every term is brought to: 47 below the anchor for BF16 and FP16, else the least. -/
def sumUnit (trunc : Bool) (ts : List (Bool × Nat × Int)) : Int :=
  match ts with
  | [] => 0
  | t :: r =>
    if trunc then r.foldl (fun acc x => max acc ((Nat.log2 x.2.1 : Int) + x.2.2)) ((Nat.log2 t.2.1 : Int) + t.2.2) - 47
    else r.foldl (fun acc x => min acc x.2.2) t.2.2

/-- R168: a term as a multiple of `2^u`, truncated toward zero. -/
def termAt (u : Int) (t : Bool × Nat × Int) : Int :=
  let m : Nat := if u ≤ t.2.2 then t.2.1 * 2 ^ (t.2.2 - u).toNat else t.2.1 / 2 ^ (u - t.2.2).toNat
  if t.1 then -(m : Int) else m

/-- R168: the block sum, as a multiple of `2^u`, and `u`. -/
def blockSum (trunc : Bool) (ps : List FVal) : Int × Int :=
  let ts := nonzeroProds ps
  let u := sumUnit trunc ts
  (ts.foldl (fun acc t => acc + termAt u t) 0, u)

/-- R169: `base + S * 2^e` rounded once. -/
def foldRne (nb : Bool) (mb : Nat) (eb : Int) (s e : Int) : FRes :=
  let lo := min eb e
  let b : Int := (mb * 2 ^ (eb - lo).toNat : Nat)
  let v := (if nb then -b else b) + s * (2 ^ (e - lo).toNat : Nat)
  if v = 0 then (0, 0)
  else let r := round32 rmRNE (decide (v < 0)) ⟨v.natAbs, lo, false⟩; (r.1, r.2 &&& flOF)

/-- R170: one output of an MMA. -/
def foldCell (ty : Nat) (bad : Bool) (xa xb : Nat) (ps : List FVal) (base : Nat) : FRes :=
  let b := fp32.decode base
  let pos := ps.contains (.inf false)
  let neg := ps.contains (.inf true)
  if bad then (nan32, flNV)
  else if (ps.any fun p => p.isNan && !p.isSnan) || xa == 255 || xb == 255 || b.isNan then (nan32, 0)
  else if ps.any FVal.isSnan || (pos && neg) then (nan32, flNV)
  else if pos || neg then (if b = .inf pos then (nan32, flNV) else (inf32 neg, 0))
  else
    match b with
    | .fin n m e =>
      let (s, u) := blockSum (ty == 2 || ty == 3) ps
      foldRne n m e s (u + ((xa : Int) - 127) + ((xb : Int) - 127))
    | _ => (base, 0)

/-! ## Plane tiles (R161, R182, R183) -/

/-- R161: a token filled into a tile. -/
def PlaneTile.fill (t : PlaneTile) (frow : Nat) (v : Val) : PlaneTile :=
  let w := typeWidth t.fmt.toNat
  let h := partsPerLane w / 2
  let f := if t.filling then t.fc.toNat else frow
  let n := 32 * h
  { t with
    vals := (t.vals.take (32 * f) ++ (List.range n).map (fun i => BitVec.ofNat 16 (packedGet w v.lanes i)) ++
      t.vals.drop (32 * f + n)).take 512
    prow := bits16 fun i => if f ≤ i ∧ i < f + h then v.pois else tb t.prow i
    fc := if f + h = 16 then 0 else BitVec.ofNat 4 (f + h)
    filling := f + h != 16 }

/-- R182: a tile cleared. -/
def PlaneTile.clear (t : PlaneTile) : PlaneTile :=
  { t with vals := List.replicate 512 0, fc := 0, filling := false, prow := 0, apois := false, bpois := false,
           ascale := List.replicate 16 0x7F, bscale := List.replicate 16 0x7F }

/-- R183: scales loaded. -/
def PlaneTile.loadScales (t : PlaneTile) (b : Bool) (v : Val) : PlaneTile :=
  let xs : List Byte := (List.range 16).map fun i => BitVec.ofNat 8 (packedGet 8 v.lanes i)
  if b then { t with bscale := xs, bpois := v.pois } else { t with ascale := xs, apois := v.pois }

def Elem.onPlane (el : Elem) (n : Nat) (f : PlaneTile → PlaneTile) : Elem := { el with planes := upd f el.planes n }
def Elem.onAcc (el : Elem) (n : Nat) (f : AccTile → AccTile) : Elem := { el with acc := upd f el.acc n }

/-- R181: a rule of one in-channel that does nothing more on a marker head. -/
def State.takeHead (s : State) (t : BitVec 6) (ch : BitVec 2) (keep : Bool) (eff : Val → State → State) : State :=
  let mk := headMarker (s.view.head ch.toNat)
  s.fire t [rdIn ch keep] [] fun vs s => if mk then s else eff (nth default vs 0) s

/-- PLW (R181). -/
def execPlw (t : BitVec 6) (o : FmtPlw) (s : State) : Res :=
  .next (s.takeHead t o.ch o.k fun v s =>
    s.onCurElem fun lv => lv.onPlane o.pl.toNat fun p => p.fill o.row.toNat v)

/-- PLWS (R181). -/
def execPlws (t : BitVec 6) (o : FmtPlws) (s : State) : Res :=
  .next (s.takeHead t o.ch o.k fun v s =>
    s.onCurElem fun lv => lv.onPlane o.pl.toNat fun p => p.fill o.row.toNat v)

/-- PLCLR (R182). -/
def execPlclr (t : BitVec 6) (pl : BitVec 4) (s : State) : Res :=
  .next ((s.begin t []).onCurElem fun lv => lv.onPlane pl.toNat PlaneTile.clear)

/-- SCLD (R183). -/
def execScld (t : BitVec 6) (o : FmtScld) (s : State) : Res :=
  .next (s.takeHead t o.ch o.k fun v s =>
    s.onCurElem fun lv => lv.onPlane o.pl.toNat fun p => p.loadScales o.bsc v)

/-! ## The B stage and the queue (R163, R173, R184) -/

/-- R162: an element with an MFWD rule. -/
def Elem.hasMfwd (el : Elem) : Bool := el.img.rules.any fun w => fld w.toNat 26 6 != 0x3F && fld w.toNat 19 7 == 0x66

/-- R163: the groups whose slots are free again. -/
def Elem.releaseStage (el : Elem) : Elem :=
  let held := fun (x : Staged) => !x.done || (el.hasMfwd && el.stage.any fun y => y.grp == x.grp && !y.fwd)
  { el with stage := el.stage.filter held }

/-- R163: the first `n` unassigned tokens given to MMA `id`; `done` for a null group. -/
def assignStage (id : Nat) (done : Bool) : Nat → List Staged → List Staged
  | 0, l => l
  | _ + 1, [] => []
  | n + 1, x :: r =>
    if x.grp.isNone then { x with grp := some id, done := done } :: assignStage id done n r
    else x :: assignStage id done (n + 1) r

/-- R158, R173: the occupancy of an MMA. -/
def matDur (ty sp : Nat) : Nat :=
  let p := if ty = 2 || ty = 10 then 8 else if ty = 3 then 12 else if ty = 8 then 2 else 4
  if sp = 0 then 4 * p else 4 * p * sparseN sp / 8

/-- R184: an MMA assigned its group and queued, in segment cycle `sck`. -/
def Elem.queueMma (el : Elem) (slot : Nat) (o : FmtMma) (sck : Nat) : Elem :=
  let pt := el.plane o.pl.toNat
  let n := groupLen pt.fmt.toNat pt.sparse.toNat
  let grp := (el.unassigned.take n).map (·.tok)
  let null := grp.any fun x => x.kind == .null
  let el' := { el with stage := assignStage el.mmaNo null n el.stage, mmaNo := el.mmaNo + 1 }
  if null then el'.releaseStage
  else
    let m : Mma :=
      { id := el.mmaNo, slot := slot, acc := o.t.toNat, plane := o.pl.toNat, zero := o.zero, sparse := pt.sparse != 0,
        group := grp, ascale := pt.ascale, bscale := pt.bscale,
        pois := grp.any (·.poison) || pt.apois || pt.bpois, fired := sck, dur := matDur pt.fmt.toNat pt.sparse.toNat,
        start := none, ended := false, ord := el.ord.toNat, a := [], fmt := pt.fmt.toNat, sp := pt.sparse.toNat }
    ({ el' with mq := el'.mq ++ [m] }.onPlane o.pl.toNat fun t => { t with busy := t.busy + 1 }).onAcc o.t.toNat
      fun a => { a with pend := a.pend + 1 }

/-- R492: the counter that the multiplies of a type add to, and what one MMA adds. -/
def macCounter (ty : Nat) : Nat := if ty = 8 then 1 else if ty = 10 then 3 else if ty = 2 || ty = 3 then 4 else 2
def macAmount (sp : Nat) : Nat := if sp = 0 then 8192 else 8192 * sparseN sp / 8

/-- R184, R492: an MMA or MMAS fired: queued and charged, a null group excepted. -/
def State.fireMma (s : State) (t : BitVec 6) (o : FmtMma) : State :=
  let g := s.segD s.cur.n s.cur.k
  let el := s.liveElem
  let pt := el.plane o.pl.toNat
  let null := (el.unassigned.take (groupLen pt.fmt.toNat pt.sparse.toNat)).any fun x => x.tok.kind == .null
  let s := (s.begin t []).onCurElem fun lv => lv.queueMma s.cur.j o g.sck
  if null then s else s.charge s.cur.n g.tenant (macCounter pt.fmt.toNat) (macAmount pt.sparse.toNat)

/-- MMA (R184). -/
def execMma (t : BitVec 6) (o : FmtMma) (s : State) : Res := .next (s.fireMma t o)

/-- MMAS (R184). -/
def execMmas (t : BitVec 6) (o : FmtMma) (s : State) : Res := .next (s.fireMma t o)

/-- R188: the first unforwarded token of an assigned group, marked forwarded. -/
def forwardStage : List Staged → Option (Token × List Staged)
  | [] => none
  | x :: r =>
    if x.grp.isSome && !x.fwd then some (x.tok, { x with fwd := true } :: r)
    else (forwardStage r).map fun y => (y.1, x :: y.2)

/-- MFWD (R188): lanes and tag unchanged. -/
def execMfwd (t : BitVec 6) (_ch out : BitVec 2) (s : State) : Res :=
  let s' := s.begin t []
  match forwardStage s'.liveElem.stage with
  | some (tok, stage) =>
    .next ((s'.onCurElem fun lv => { lv with stage := stage }.releaseStage).onCurSeg fun g =>
      g.put s.cur.p s.cur.e out.toNat (.tok tok))
  | none => .next s'

/-! ## Accumulator tiles (R176, R185 to R187) -/

/-- R176: the rows per token and the tokens of a tile. -/
def accRows (ty : Nat) : Nat := partsPerLane (typeWidth ty)
def accTokens (ty : Nat) : Nat := 16 / accRows ty

/-- R139, R185: the SR number of the value that a lane carries in part `p`. -/
def srPart (x : W) : Nat → W
  | 0 => srNext x
  | p + 1 => srNext (srPart x p)

/-- R185: the conversion of packed value `v` of a token. -/
def accOut (c : Cfg) (sr : List W) (tile : AccTile) (ty : Nat) (sat : Bool) (tokNo v : Nat) : FRes :=
  let w := (nth (0 : W) tile.vals (16 * (accRows ty * tokNo + v / 16) + v % 16)).toNat
  let lane := v / accRows ty
  if ty = 1 then (w, 0)
  else fromFp32 ⟨c.frm, c.ftz, (srPart (nth 0 sr lane) (v % accRows ty)).toNat % 2 ^ 16⟩ ty sat w

/-- R185: a tile after the read-out of one token. -/
def AccTile.readStep (a : AccTile) (ty : Nat) (clr : Bool) : AccTile :=
  let cur := if a.xfer = 0 then 0 else a.cur.toNat
  if cur + 1 = accTokens ty then
    if clr then { a with xfer := 0, cur := 0, vals := List.replicate 256 0, poison := false }
    else { a with xfer := 0, cur := 0 }
  else { a with xfer := 1, cur := BitVec.ofNat 4 (cur + 1) }

/-- ACCRD (R185): a read that has begun continues without its guard. -/
def execAccrd (t : BitVec 6) (o : FmtAccrd) (s : State) : Res :=
  let el := s.view
  let tile := el.accT o.t.toNat
  let ty := o.ty.toNat
  let cur := if tile.xfer = 0 then 0 else tile.cur.toNat
  let rows := accRows ty
  let res := fun v => accOut el.img.cfg el.sr tile ty o.sat cur v
  let laneFl := fun k => (List.range rows).foldl (fun acc p => acc ||| (res (rows * k + p)).2) 0
  let v : Val := ⟨packLanes (typeWidth ty) fun v => (res v).1, false,
    tile.poison || s.traps tile.poison 0xFFFF laneFl, false, 0⟩
  let s := s.begin (if tile.xfer = 1 then 0x3E else t) []
  let s := (s.arith tile.poison 0xFFFF laneFl).putTok o.ch.toNat .data v
  let s := s.onCurElem fun lv => lv.onAcc o.t.toNat fun a => a.readStep ty o.clr
  .next ((List.range rows).foldl (fun s _ => s.srAdvance (ty != 1)) s)

/-- R186: a tile after one token written. -/
def AccTile.writeStep (a : AccTile) (ty : Nat) (vals : Nat → Nat) (pois : Bool) : AccTile :=
  let cur := a.cur.toNat
  let n := 16 * accRows ty
  let last := cur + 1 == accTokens ty
  { vals := a.vals.take (n * cur) ++ (List.range n).map (fun v => BitVec.ofNat 32 (vals v)) ++ a.vals.drop (n * cur + n)
    xfer := if last then 0 else 2
    cur := if last then 0 else BitVec.ofNat 4 (cur + 1)
    pend := a.pend
    poison := pois || (cur != 0 && a.poison) }

/-- ACCWR (R186): widened exactly, with the operand treatment that CVT has (R152): FMODE.FTZ reads a subnormal BF16 value as a
zero, as R142 has it for the element's operands (the model's reading, log 45). -/
def execAccwr (t : BitVec 6) (o : FmtAccwr) (s : State) : Res :=
  let ty := o.ty.toNat
  let rows := accRows ty
  let ftz := s.view.img.cfg.ftz
  .next (s.takeHead t o.ch o.k fun v s =>
    let res := fun i => if ty = 1 then (packedGet 32 v.lanes i, 0)
      else toFp32 ⟨0, ftz, 0⟩ ty (packedGet (typeWidth ty) v.lanes i)
    let laneFl := fun k => (List.range rows).foldl (fun acc p => acc ||| (res (rows * k + p)).2) 0
    let bad := v.pois || s.traps v.pois 0xFFFF laneFl
    (s.arith v.pois 0xFFFF laneFl).onCurElem fun lv => lv.onAcc o.t.toNat fun a =>
      a.writeStep ty (fun i => (res i).1) bad)

/-- ACCCLR (R187). -/
def execAccclr (t : BitVec 6) (tile : BitVec 3) (s : State) : Res :=
  .next ((s.begin t []).onCurElem fun lv => lv.onAcc tile.toNat fun a =>
    { a with vals := List.replicate 256 0, xfer := 0, cur := 0, poison := false })

/-! ## Steps of the plane array -/

/-- R162: the B channel of an element: that of its first MMA or MMAS rule. -/
def Elem.bChan (el : Elem) : Option Nat :=
  (el.img.rules.find? fun w => fld w.toNat 26 6 != 0x3F && (fld w.toNat 19 7 == 0x61 || fld w.toNat 19 7 == 0x62)).map
    fun w => fld w.toNat 10 2

/-- R163: the head that the intake takes in this cycle. -/
def Elem.intakeReady (st lv : Elem) : Option (Nat × Token) :=
  match st.bChan with
  | some k =>
    match st.head k with
    | some t => if !t.kind.isMarker && decide (st.stage.length < 32) && !lv.cyc.intake then some (k, t) else none
    | none => none
  | none => none

/-- The segment of the step runs its clock. -/
def State.clockOn (s : State) : Bool :=
  match s.seg s.cur.n s.cur.k with
  | some g => !g.clockHeld && (g.live.stripe s.cur.p).res && (g.start.elem s.cur.p s.cur.e).on
  | none => false

/-- B_STAGE_INTAKE (R163): a token that fails its check is staged poisoned (R419). -/
def execBStageIntake (s : State) : Res :=
  match s.view.intakeReady s.liveElem with
  | some (k, t) =>
    if s.clockOn then
      .next (s.onCurElem fun lv =>
        { lv with
          stage := lv.stage ++ [⟨{ t with poison := t.pois }.sealed, none, false, false⟩]
          cyc := { lv.cyc with intake := true, taken := dedup (lv.cyc.taken ++ [k])
                               badchk := if t.chkOk then lv.cyc.badchk else dedup (lv.cyc.badchk ++ [k]) } })
    else .next s
  | none => .next s

/-- R173: the MMA that starts in segment cycle `sck`. -/
def Elem.startDue (el : Elem) (sck : Nat) : Option Mma :=
  match el.mq.find? fun m => m.start.isNone with
  | some m =>
    if m.fired < sck && el.mq.all (fun x => match x.start with | some b => decide (b + x.dur ≤ sck) | none => true) then some m
    else none
  | none => none

/-- R173: the MMA whose last occupied cycle is `sck`. -/
def Elem.endDue (el : Elem) (sck : Nat) : Option Mma :=
  el.mq.find? fun m => !m.ended && (match m.start with | some b => decide (b + m.dur ≤ sck + 1) | none => false)

/-- R173: the MMA whose fold lands at the end of cycle `sck`. -/
def Elem.foldDue (el : Elem) (sck : Nat) : Option Mma :=
  el.mq.find? fun m => m.ended && (match m.start with | some b => decide (b + m.dur < sck) | none => false)

def Elem.onMma (el : Elem) (id : Nat) (f : Mma → Mma) : Elem :=
  { el with mq := el.mq.map fun m => if m.id = id then f m else m }

/-- MMA_START (R173). -/
def execMmaStart (s : State) : Res :=
  let sck := (s.segD s.cur.n s.cur.k).sck
  match s.liveElem.startDue sck with
  | some m => if s.clockOn then .next (s.onCurElem fun lv => lv.onMma m.id fun x => { x with start := some sck }) else .next s
  | none => .next s

/-- MMA_OCCUPANCY_END (R173): the tile has been read; BUSY, the queue entry and the group's slots are released. -/
def execMmaOccupancyEnd (s : State) : Res :=
  match s.liveElem.endDue (s.segD s.cur.n s.cur.k).sck with
  | some m =>
    if s.clockOn then
      .next (s.onCurElem fun lv =>
        let pt := lv.plane m.plane
        let lv := lv.onMma m.id fun x => { x with ended := true, a := pt.vals, pois := x.pois || pt.prow != 0 }
        let lv := lv.onPlane m.plane fun t => { t with busy := t.busy - 1 }
        { lv with stage := lv.stage.map fun (x : Staged) => if x.grp = some m.id then { x with done := true } else x }.releaseStage)
    else .next s
  | none => .next s

/-- R184: the 256 results of an MMA over an accumulator tile. -/
def Mma.results (m : Mma) (acc : List W) : List FRes :=
  let ty := m.fmt
  let sp := if m.sparse then m.sp else 0
  let cols := laneNums.map fun j => (List.range 32).map fun k => bCode ty sp m.group j k
  let bad := laneNums.map fun j => m.sparse && maskBad sp (groupMask sp m.group j)
  laneNums.flatMap fun i =>
    let row := (m.a.drop (32 * i)).take 32
    laneNums.map fun j =>
      foldCell ty (nth false bad j) (nth 0 m.ascale i).toNat (nth 0 m.bscale j).toNat
        (keptProds ty row (nth [] cols j)) (if m.zero then 0 else (nth (0 : W) acc (16 * i + j)).toNat)

/-- MMA_FOLD_LAND (R172, R184). -/
def execMmaFoldLand (s : State) : Res :=
  let el := s.liveElem
  match el.foldDue (s.segD s.cur.n s.cur.k).sck with
  | some m =>
    if s.clockOn then
      let tile := el.accT m.acc
      let rs := m.results tile.vals
      let colFl := fun j => laneNums.foldl (fun acc i => acc ||| (nth (0, 0) rs (16 * i + j)).2) 0
      let lm := if m.pois then 0 else trapMask el.img.cfg.ten 0xFFFF colFl
      let all := if m.pois then 0 else orFlags 0xFFFF colFl
      let s := s.raiseFlags all
      let s := s.onCurElem fun lv =>
        { lv with mq := lv.mq.filter fun x => x.id != m.id }.onAcc m.acc fun a =>
          { a with vals := rs.map (fun (r : FRes) => BitVec.ofNat 32 r.1), pend := a.pend - 1
                   poison := (!m.zero && a.poison) || m.pois || lm != 0 }
      let g := s.segD s.cur.n s.cur.k
      if lm = 0 then .next s
      else .next (s.faultRule { s.ruleRec 6 0 with
        slot := m.slot, ord := m.ord, argix := g.argix el.erun m.ord,
        flags := BitVec.ofNat 6 all &&& el.img.cfg.ten, lmask := lm })
    else .next s
  | none => .next s

end Sys2Proof.Machine
end

