-- ==== Sys2Proof/Machine/Wharf.lean ====
section
/-! DEFINITION. The wharf: the accesses of a request, their checks and translation, reading through the write-combine
buffer, sending a request, replies, and when a request may issue (R194 to R208, R218, R235, R241, R251, R252). -/

namespace Sys2Proof.Machine

/-! ## Accesses (R198, R226, R258, R280) -/

/-- One access of a request: the lane it belongs to, its region and byte offset, and its size. -/
structure Acc where
  lane : Nat
  reg : Nat
  off : Nat
  size : Nat
  deriving DecidableEq, Repr, Inhabited

/-- R198: the unit of a size code. -/
def unitOf (sz : Nat) : Nat := if sz = 0 then 64 else if sz = 1 then 4 else if sz = 2 then 2 else 1

/-- R198: the skipped lane's code. -/
def skipLane : W := 0xFFFFFFFF

/-- R198: the access of an address lane, none for a skipped one. -/
def laneAcc (u k : Nat) (x : W) : List Acc :=
  if x = skipLane then [] else [⟨k, fld x.toNat 26 6, fld x.toNat 0 26 * u, u⟩]

/-- Operations on barrier objects, which address 32 B units (R280). -/
def ReqOp.isBarrier : ReqOp → Bool
  | .binit => true
  | .barv => true
  | .bexp => true
  | .bwait => true
  | _ => false

def ReqOp.isCopy : ReqOp → Bool
  | .cpy _ => true
  | _ => false

def ReqOp.isAtom : ReqOp → Bool
  | .atom _ => true
  | _ => false

def ReqOp.isColl : ReqOp → Bool
  | .coll _ => true
  | .cwait => true
  | .cabrt => true
  | _ => false

/-- R201: ST, SWR, STF, STO and SETE. -/
def ReqOp.isStore : ReqOp → Bool
  | .st => true
  | .swr => true
  | .stf => true
  | .sto => true
  | .sete => true
  | _ => false

/-- R241: the releases of an element chain. -/
def ReqOp.isRelease : ReqOp → Bool
  | .stf => true
  | .sto => true
  | .cpy _ => true
  | .coll _ => true
  | .binit => true
  | .barv => true
  | .bexp => true
  | _ => false

/-- R205, R208: LD, LDS and SRD hold the gate while outstanding. -/
def ReqOp.isRead : ReqOp → Bool
  | .ld => true
  | .lds => true
  | .srd => true
  | _ => false

/-- The accesses of a request. A generator request carries its region in `gen` and its cursor in `off`. -/
def Req.accesses (q : Req) : List Acc :=
  match q.op with
  | .srd | .swr =>
    if q.sz = 0 then [⟨0, q.gen, q.off, 64⟩]
    else laneNums.map fun k => ⟨k, q.gen, q.off + k * unitOf q.sz, unitOf q.sz⟩
  | .atom _ => laneNums.flatMap fun k => laneAcc 4 k (q.addr.get k)
  | .binit | .barv | .bexp | .bwait | .cpy _ => laneAcc 32 0 (q.addr.get 0)
  | .cpyx | .coll _ | .cwait | .cabrt => []
  | .sete | .pfx => laneAcc 64 0 (q.addr.get 0)
  | _ => if q.sz = 0 then laneAcc 64 0 (q.addr.get 0) else laneNums.flatMap fun k => laneAcc (unitOf q.sz) k (q.addr.get k)

/-! ## Translation (R196, R197, R218) -/

/-- The extent that holds a region offset. -/
def Seg.extentOf (g : Seg) (reg off : Nat) : Option Extent :=
  g.extents.find? fun x => x.region == reg && decide (x.roff ≤ off) && decide (off < x.roff + x.len * 65536)

/-- R218: stored blocks of a compressed image below block `b`. -/
def State.blocksBelow (s : State) (img b : Nat) : Nat :=
  (List.range b).foldl (fun acc i => acc + (tb (s.byte (img + i / 8)) (i % 8)).toNat) 0

/-- R218: where byte `o` of a compressed page stands, or none in an unstored block. -/
def State.cmpByte (s : State) (img o : Nat) : Option Nat :=
  if tb (s.byte (img + o / 4096 / 8)) (o / 4096 % 8) then some (img + 0x1000 + 4096 * s.blocksBelow img (o / 4096) + o % 4096)
  else none

/-- The physical address of byte `off` of an extent's region; none in an unstored block of a compressed page, whose
PBASE is that of its image. -/
def State.extByte (s : State) (g : Seg) (n : Nat) (x : Extent) (off : Nat) : Option Nat :=
  let base := paOf n x.pbase
  if x.cmp then s.cmpByte base (((nth default g.regions x.region).base + off) % 2 ^ 21) else some (base + (off - x.roff))

/-- The physical address of an access's first byte, in an extent without compression. -/
def Seg.accPa (g : Seg) (n : Nat) (a : Acc) : Option Nat :=
  (g.extentOf a.reg a.off).map fun x => paOf n x.pbase + (a.off - x.roff)

/-! ## Checks (R199, R200, R258, R280) -/

/-- R199, R258: the MODE that an operation needs. -/
def modeOk (op : ReqOp) (mode : Nat) : Bool :=
  if op.isAtom || op.isBarrier || op.isCopy then bitN mode 2 || (bitN mode 0 && bitN mode 1)
  else if op.isStore then bitN mode 1 else bitN mode 0

/-- R200: operations that may not touch the home stack. -/
def ReqOp.lagoonOnly (op : ReqOp) : Bool :=
  op.isBarrier || op.isCopy || op == .lds || op == .stf || op == .sto || op == .sete

/-- R199, R200: the UNDECLARED cause of an access, 0 when it passes. -/
def Seg.checkAcc (g : Seg) (n : Nat) (q : Req) (a : Acc) : Nat :=
  let r := nth default g.regions a.reg
  if g.regions.length ≤ a.reg then 1
  else if r.extent < a.off + a.size then 2
  else if !modeOk q.op r.mode then 3
  else if q.op.lagoonOnly && (match g.accPa n a with | some pa => paStack pa | none => false) then 4
  else if (q.op == .srd || q.op == .swr) && q.off % unitOf q.sz != 0 then 6
  else 0

/-- R199: the failing accesses of a request with their causes. A prefetch never faults (R233). -/
def Seg.failing (g : Seg) (n : Nat) (q : Req) : List (Acc × Nat) :=
  if q.op == .pfx then [] else (q.accesses.map fun a => (a, g.checkAcc n q a)).filter fun x => x.2 != 0

/-- The lanes of a list of accesses. -/
def accLanes (l : List Acc) : W16 := bits16 fun k => l.any fun a => a.lane == k

/-- R198, R200, R396: the address operand that a record shows: for a generator request the region and the offset of each access
in the form of R198, its offset rounded down to the access size (log 16). -/
def Req.recAddr (q : Req) : Lanes :=
  match q.op with
  | .srd | .swr => Lanes.ofFn fun k => match q.accesses.find? fun a => a.lane == k with
      | some a => BitVec.ofNat 32 (a.reg % 64 * 2 ^ 26 + a.off / a.size % 2 ^ 26)
      | none => skipLane
  | _ => q.addr

/-- R200, R395, R396: the record of a wharf fault. -/
def Seg.reqRec (g : Seg) (pt p kind cause : Nat) (q : Req) (lm : W16) : Rec :=
  { Rec.blank with
    kind := kind, cause := cause, pt := pt, vs := (g.live.stripe p).vs, elem := q.elem, slot := q.slot, ord := q.ord,
    argix := g.argix q.run q.ord, lmask := lm, chain := q.chain, sz := q.sz, addr := q.recAddr,
    cont := kind == 1 || kind == 2 }

/-! ## Reading (R194, R201, R238) -/

/-- The byte that a wharf's write-combine buffer holds for an address; the newest line wins. -/
def Wharf.wcByte (w : Wharf) (pa : Nat) : Option Byte :=
  w.wc.foldl (fun acc l => if l.pa = pa / 64 * 64 then (match lookupN (pa % 64) l.bytes with | some b => some b | none => acc) else acc) none

/-- A byte read by a wharf: buffered, or at the bank. -/
def State.wharfByte (s : State) (w : Wharf) (pa : Option Nat) : Byte :=
  match pa with
  | none => 0
  | some a => (w.wcByte a).getD (s.byte a)

/-- The byte addresses of an access. -/
def State.accBytes (s : State) (g : Seg) (n : Nat) (a : Acc) : List (Option Nat) :=
  match g.extentOf a.reg a.off with
  | some x => (List.range a.size).map fun i => s.extByte g n x (a.off + i)
  | none => []

/-- The first poisoned unit among byte addresses that a wharf reads from memory (R201, R426). -/
def State.firstPois (s : State) (w : Wharf) (as : List (Option Nat)) : Option Nat :=
  (as.filterMap id).find? fun a => s.isPois a && (w.wcByte a).isNone

/-- R224, R226: the lanes a load returns, its bytes read by `rd`. -/
def State.lanesBy (s : State) (g : Seg) (n : Nat) (q : Req) (rd : Option Nat → Byte) : Lanes :=
  let val := fun (a : Acc) => ofLe ((s.accBytes g n a).map rd)
  if q.sz = 0 then
    match q.accesses with
    | a :: _ => lanesOfBytes ((s.accBytes g n a).map rd)
    | [] => Lanes.zero
  else Lanes.ofFn fun k => match q.accesses.find? fun a => a.lane == k with
    | some a => BitVec.ofNat 32 (val a)
    | none => 0

/-- R224, R226: the lanes of a load whose bytes are all read at once. -/
def State.loadLanes (s : State) (g : Seg) (w : Wharf) (n : Nat) (q : Req) : Lanes := s.lanesBy g n q (s.wharfByte w)

/-- All byte addresses of a request. -/
def State.reqBytes (s : State) (g : Seg) (n : Nat) (q : Req) : List (Option Nat) := q.accesses.flatMap fun a => s.accBytes g n a

/-- R233: the lines that a PFX fetches: those that lie in the region and in the home stack. In a compressed page they are the lines
of the stored blocks (R218). -/
def State.pfxLines (s : State) (g : Seg) (n : Nat) (q : Req) : List Nat :=
  match q.accesses with
  | a :: _ =>
    dedup ((List.range (min (max (q.addr.get 1).toNat 1) 256)).filterMap fun i =>
      let b : Acc := { a with off := a.off + 64 * i }
      if g.checkAcc n q b = 0 then
        (match s.accBytes g n b with
         | some pa :: _ => if paStack pa then some (pa / 64) else none
         | _ => none)
      else none)
  | [] => []

/-- The 64 B lines that a request touches, in the order in which they issue. The spec gives no order among the lines of one request;
the model issues them in lane order, and those of a PFX in ascending order, one in each cycle (log 41). -/
def State.reqLines (s : State) (g : Seg) (n : Nat) (q : Req) : List Nat :=
  if q.op == .pfx then s.pfxLines g n q else dedup (((s.reqBytes g n q).filterMap id).map fun a => a / 64)

/-- The lines that a request issues: none when it is null or its address is poisoned (R201, R204). -/
def State.issueLines (s : State) (g : Seg) (n : Nat) (q : Req) : List Nat := if q.null || q.apois then [] else s.reqLines g n q

/-! ## Stores (R194, R227, R228) -/

/-- The bytes that a store writes, in lane order. -/
def State.storeCells (s : State) (g : Seg) (n : Nat) (q : Req) : List Host.Cell :=
  let put := fun (a : Acc) (bs : List Byte) =>
    ((s.accBytes g n a).zip bs).filterMap fun x => x.1.map fun pa => (pa, x.2)
  q.accesses.flatMap fun a =>
    if q.sz = 0 then put a (laneBytes q.data) else put a (leBytes a.size (q.data.get a.lane).toNat)

/-- A write-combine line performed at its controller. -/
def State.drainLine (s : State) (l : WcLine) : State :=
  (s.perform (l.bytes.map fun b => (l.pa + b.1, b.2))).chargeMem l.tenant l.pa l.bytes.length

/-- Lines performed in their order. -/
def State.drainLines (s : State) (ls : List WcLine) : State := ls.foldl State.drainLine s

/-- The live wharf of stripe `p` of the ring of the step. -/
def State.wharf (s : State) (p : Nat) : Wharf := ((s.segD s.cur.n s.cur.k).live.stripe p).wharf
def State.onWharf (s : State) (p : Nat) (f : Wharf → Wharf) : State := s.onCurSeg fun g => g.onWharf p f

/-- R194: the whole buffer of a wharf drained, oldest first. -/
def State.drainWharf (s : State) (p : Nat) : State :=
  (s.drainLines (s.wharf p).wc).onWharf p fun w => { w with wc := [] }

/-- One byte entered into a line. -/
def WcLine.put (l : WcLine) (who : Issuer) (o : Nat) (b : Byte) : WcLine :=
  { l with bytes := insertN o b l.bytes, who := if l.who.contains who then l.who else l.who ++ [who] }

/-- R251: a request as a fence sees it. -/
def Req.issuer (q : Req) : Issuer := ⟨q.elem, q.ck, q.ahead⟩

/-- R194: one stack byte stored into the buffer; a store that needs a line drains the oldest of a full buffer, and a
line with all its bytes written drains. -/
def State.wcStore (s : State) (p tenant : Nat) (who : Issuer) (c : Host.Cell) : State :=
  let line := c.1 / 64 * 64
  let w := s.wharf p
  let s := if w.wc.any (fun l => l.pa == line) then s
    else
      let s := if 16 ≤ w.wc.length then
          (s.drainLines (w.wc.take 1)).onWharf p fun w => { w with wc := w.wc.drop 1 }
        else s
      s.onWharf p fun w => { w with wc := w.wc ++ [⟨line, [], tenant, []⟩] }
  let s := s.onWharf p fun w => { w with wc := w.wc.map fun l => if l.pa = line then l.put who (c.1 % 64) c.2 else l }
  let full := (s.wharf p).wc.filter fun l => l.pa == line && l.bytes.length == 64
  (s.drainLines full).onWharf p fun w => { w with wc := w.wc.filter fun l => !(l.pa == line && l.bytes.length == 64) }

/-- R194, R237: a store performed: lagoon bytes at their banks, stack bytes into the buffer. -/
def State.storeAll (s : State) (p tenant : Nat) (who : Issuer) (cells : List Host.Cell) : State :=
  let lag := cells.filter fun c => paLagoon c.1
  let s := s.perform lag
  let s := match lag with | c :: _ => s.chargeMem tenant c.1 lag.length | [] => s
  (cells.filter fun c => !paLagoon c.1).foldl (fun s c => s.wcStore p tenant who c) s

/-- The granules of a set of cells that a write leaves undiscarded (R230). -/
def State.fillable (s : State) (cells : List Host.Cell) : List Nat :=
  let bad := s.badUnits cells
  (granulesOf (cells.map (·.1))).filter fun g => !bad.contains (g * 8)

/-! ## Latency (R235) -/

/-- The latency of a line at a latency for the own slice and for another; the home stack has no lower bound. -/
def lineLat (k own other line : Nat) : Nat :=
  if paLagoon (line * 64) then (if line * 64 / 2 ^ 24 % 8 = k then own else other) else 0

/-- R235: the cycle from which a reply to lines issued from cycle `t` on, one in each cycle, may land. -/
def replyDue (k own other t : Nat) (lines : List Nat) : Nat :=
  (List.range lines.length).foldl (fun acc i => max acc (t + i + lineLat k own other (nth 0 lines i))) t

/-- R235: the issue ports that lines need: the lagoon's and the home stack's. -/
def needsL (lines : List Nat) : Bool := lines.any fun x => paLagoon (x * 64)
def needsS (lines : List Nat) : Bool := lines.any fun x => !paLagoon (x * 64)

/-- R235: the wharf has issue capacity for lines in cycle `t`. -/
def Wharf.canIssue (w : Wharf) (t : Nat) (lines : List Nat) : Bool :=
  (!needsL lines || decide (w.freeL ≤ t)) && (!needsS lines || decide (w.freeS ≤ t))

/-- R235: the wharf's issue capacity used by lines, one in each cycle. A request with lines of both kinds keeps both ports for all
its cycles (log 41). -/
def Wharf.useLines (w : Wharf) (t : Nat) (lines : List Nat) : Wharf :=
  { w with freeL := if needsL lines then t + lines.length else w.freeL
           freeS := if needsS lines then t + lines.length else w.freeS }

/-! ## Replies (R205) -/

/-- The reply of request `no` known, to land from fabric cycle `due` on. -/
def State.giveReply (s : State) (p no : Nat) (tok : Token) (due : Nat) : State :=
  s.onWharf p fun w => { w with pend := w.pend.map fun x => if x.no = no then { x with got := some (tok, due) } else x }

/-- A data reply with a tag. -/
def dataTok (l : Lanes) (pois seqv : Bool) (seq : W16) : Token := ⟨l, .data, 0, pois, seqv, seq, 0⟩
def nullTok (q : Req) : Token := ⟨Lanes.zero, .null, 0, false, q.seqv, q.seq, 0⟩

/-- R426: the first poisoned address a segment reads. -/
def Seg.noteOrigin (g : Seg) (pa : Nat) : Seg := if g.origin = 0 then { g with origin := pa } else g

/-- A load performed and its reply known. -/
def State.performLoad (s : State) (p : Nat) (q : Req) : State :=
  let n := s.cur.n
  let g := s.segD n s.cur.k
  let w := s.wharf p
  let as := s.reqBytes g n q
  let lines := s.reqLines g n q
  let pois := s.firstPois w as
  let tok := dataTok (s.loadLanes g w n q) pois.isSome q.seqv q.seq
  let s := match pois with | some a => s.onCurSeg fun g => g.noteOrigin (poisonUnit a) | none => s
  let s := lines.foldl (fun s l => s.scTouch (l * 64) false) s
  let s := match (as.filterMap id) with | a :: r => s.chargeMem g.tenant a (r.length + 1) | [] => s
  s.giveReply p q.no tok (replyDue s.cur.k 12 20 q.iss lines)

/-! ## Sending (R202, R204, R205, R223) -/

/-- R205: the place of a reply kept when its rule fires. A null reply to a register leaves it as it is (R204). -/
def State.reserve (s : State) (d : Dest) (null : Bool) (no : Nat) : State :=
  match d with
  | .vreg n => if null then s else s.onCurElem fun lv => { lv with v := upd (fun v => { v with pres := false }) lv.v n }
  | .out k => s.onCurSeg fun g => g.put s.cur.p s.cur.e k (.rsv no)
  | _ => s

/-- A blank request of the firing rule. -/
def State.newReq (s : State) (op : ReqOp) (chain pos : Nat) : Req :=
  let g := s.segD s.cur.n s.cur.k
  let el := s.curElem
  { no := g.no, ck := g.sck, op := op, chain := chain, pos := pos, run := el.erun, ord := el.ord.toNat, elem := s.cur.e,
    slot := s.cur.j, sz := 0, addr := Lanes.zero, data := Lanes.zero, swap := Lanes.zero, apois := false, dpois := false,
    null := false, dest := .none, rpl := false, seqv := false, seq := 0, gen := 0, off := 0, lanes := 0, held := false, iss := 0, ahead := [] }

/-- A request entered into its chain, with its reply's place. -/
def State.send (s : State) (q : Req) : State :=
  let s := s.reserve q.dest q.null q.no
  let s := s.onWharf s.cur.p fun w =>
    { w with
      chains := upd (fun l => l ++ [q]) w.chains q.chain
      pend := if q.dest = .none then w.pend else w.pend ++ [⟨q.no, q.elem, q.dest, q.op.isRead, q.null, none⟩] }
  s.onCurSeg fun g => { g with no := g.no + 1 }

/-- Where a destination code sends a reply; 28 discards it. -/
def destOf (d : Nat) : Dest := if d < 16 then .vreg d else if 20 ≤ d ∧ d < 24 then .out (d - 20) else .none

/-! ## When a request may issue (R203, R208, R241, R251, R252, R266) -/

/-- The order of a chain: run, invocation, position, firing. -/
def Req.before (a b : Req) : Bool :=
  if a.run != b.run then decide (a.run < b.run)
  else if a.ord != b.ord then decide (a.ord < b.ord)
  else if a.pos != b.pos then decide (a.pos < b.pos)
  else decide (a.no < b.no)

/-- The first request of a chain. -/
def firstReq : List Req → Option Req
  | [] => none
  | q :: r => match firstReq r with
    | none => some q
    | some x => if x.before q then some x else some q

/-- R203: the conditions on the elements of the stripe. -/
def Stripe.orderOk (st : Stripe) (q : Req) : Bool :=
  st.elems.all fun el =>
    !el.on ||
      (let ps := el.positions q.chain
       (!(ps.any fun x => decide (x < q.pos)) || el.closed q.run q.ord) &&
       (ps.isEmpty || q.ord == 0 || el.closed q.run (q.ord - 1)))

/-- R266, R208, R241, R268: work of a chain that holds its later requests: a diverted request, one that has re-entered and is
not yet applied, an acquire that is not performed. -/
def Wharf.chainHeld (w : Wharf) (c : Nat) : Bool :=
  (nth none w.rq c).isSome || w.parked.any (fun x => x.chain == c) || w.fly.any (fun x => x.req.op == .lds && x.req.chain == c) ||
  w.atoms.any fun a => a.req.chain == c && a.req.held

/-- R192: the bank or controller of an address. -/
def bankOf (pa : Nat) : Nat := if paLagoon pa then 4 + pa / 2 ^ 24 % 8 * 16 + pa / 64 % 16 else pa / 2 ^ 21 % 4

/-- The loads and stores whose lines may be performed after their issue and apart from each other. SETE and PFX are not among
them. -/
def ReqOp.flies (op : ReqOp) : Bool :=
  match op with
  | .ld => true
  | .ldq => true
  | .srd => true
  | .st => true
  | .swr => true
  | .stf => true
  | .sto => true
  | .lds => true
  | _ => false

/-- R203: lines of requests of a chain on their way to a bank or controller of `lines`. -/
def Wharf.flyAt (w : Wharf) (chain : Nat) (lines : List Nat) : Bool :=
  w.fly.any fun x => x.req.chain == chain && x.left.any fun m => lines.any fun l => bankOf (l * 64) == bankOf (m * 64)

/-- R203, R236: updates of the chain that have issued and not been applied at a bank where the request would arrive, and, for a request
that is performed as it issues, loads and stores on their way there. A release waits for all of them (R241). -/
def State.atomsAhead (s : State) (g : Seg) (w : Wharf) (n : Nat) (q : Req) : Bool :=
  let lines := s.issueLines g n q
  let mine := lines.map fun l => bankOf (l * 64)
  (q.op.isRelease && w.fly.any fun x => x.req.chain == q.chain) || (!q.op.flies && !q.op.isAtom && w.flyAt q.chain lines) ||
  w.atoms.any fun a => a.req.chain == q.chain &&
    (q.op.isRelease || (s.reqLines g n a.req).any fun l => mine.contains (bankOf (l * 64)))

/-- R251: whether a fence's issuer set holds an element of a stripe: scope 1 its own, 2 its stripe, else the ring. -/
def Fence.covers (f : Fence) (fp p e : Nat) : Bool := f.scope != 1 && (f.scope != 2 || fp == p) || (fp == p && f.elem == e)

/-- The unresolved fences of a segment with their stripes. -/
def Core.allFences (c : Core) : List (Nat × Fence) :=
  (List.range c.stripes.length).flatMap fun p => (c.stripe p).wharf.fences.map fun f => (p, f)

/-- R252: chain order places a request before one that is ahead of a fence. -/
def Core.precedes (c : Core) (p : Nat) (q : Req) (x : Nat × Fence) : Bool :=
  (nth [] (c.stripe p).wharf.chains q.chain).any fun r => x.2.covers x.1 p r.elem && decide (r.ck ≤ x.2.ck) && q.before r

/-- R251, R252: a request behind a fence waits, unless its chain holds behind it a request ahead of the fence. -/
def Core.fenced (c : Core) (p : Nat) (q : Req) : Bool :=
  c.allFences.any fun x => x.2.covers x.1 p q.elem && decide (x.2.ck < q.ck) && !c.precedes p q x

/-- R252: the fences behind which a request fired and which treat it as ahead, by number. -/
def Core.aheadOf (c : Core) (p : Nat) (q : Req) : List Nat :=
  (c.allFences.filter fun x => x.2.covers x.1 p q.elem && decide (x.2.ck < q.ck) && c.precedes p q x).map (·.2.no)

/-- R203: the request of chain `c` of stripe `p` that may issue in this cycle. It stood first at the start of the cycle,
so a chain issues one request in a cycle. -/
def State.issuable (s : State) (p c : Nat) : Option Req :=
  let n := s.cur.n
  let g := s.segD n s.cur.k
  let st := g.start.stripe p
  let lv := (g.live.stripe p).wharf
  match firstReq (nth [] st.wharf.chains c) with
  | none => none
  | some q =>
    if !g.clockHeld && (g.live.stripe p).res && (nth [] lv.chains c).any (fun x => x.no == q.no && !x.held) && st.orderOk q &&
        !st.wharf.chainHeld c && !lv.chainHeld c && !s.atomsAhead g lv n q && !g.start.fenced p q &&
        lv.canIssue g.wck (s.issueLines g n q) then
      (nth [] lv.chains c).find? fun x => x.no == q.no
    else none

/-- A request taken out of its chain. -/
def Wharf.unchain (w : Wharf) (q : Req) : Wharf :=
  { w with chains := upd (fun l => l.filter fun x => x.no != q.no) w.chains q.chain }

/-- R199: a request marked as held at the head of its chain. -/
def Wharf.hold (w : Wharf) (q : Req) : Wharf :=
  { w with chains := upd (fun l => l.map fun x => if x.no = q.no then { x with held := true } else x) w.chains q.chain }

end Sys2Proof.Machine
end

