-- ==== Sys2Proof/Machine/Memory.lean ====
section
/-! DEFINITION. The memory instructions at their firing, majors 0x67 to 0x72 (R222 to R234, R250 to R253), and what a
request does when it is performed at the banks and controllers (R227 to R233). -/

namespace Sys2Proof.Machine

/-! ## Firing -/

/-- A memory rule's firing: its operands read, and a request, null when an operand is null (R204), with the tag that R63
gives its reply, entered into the chain. The reply of an update carries none (R263). -/
def State.fireReq (s : State) (t : BitVec 6) (rds : List Rd) (op : ReqOp) (chain pos : Nat)
    (mk : List Val → Req → Req) : State :=
  let vs := rds.map fun r => s.view.src r.code
  let q := mk vs (s.newReq op chain pos)
  (s.begin t rds).send { q with null := q.null || vs.any (·.null), seqv := !op.isAtom && (outTag vs).1
                                seq := if op.isAtom then 0 else (outTag vs).2 }

/-- R224, R229: a load at an address operand. -/
def State.fireLoad (s : State) (t : BitVec 6) (op : ReqOp) (o : FmtM) : State :=
  s.fireReq t [rd o.a o.ka] op o.ch.toNat o.pos.toNat fun vs q =>
    { q with sz := o.sz.toNat, addr := (nth default vs 0).lanes, apois := (nth default vs 0).pois,
             dest := destOf o.d.toNat }

/-- R227, R230, R231: a store; the data operand is always consumed. -/
def State.fireStore (s : State) (t : BitVec 6) (op : ReqOp) (o : FmtM) : State :=
  s.fireReq t [rd o.a o.ka, rd o.d false] op o.ch.toNat o.pos.toNat fun vs q =>
    { q with sz := o.sz.toNat, addr := (nth default vs 0).lanes, apois := (nth default vs 0).pois,
             data := (nth default vs 1).lanes, dpois := (nth default vs 1).pois }

/-- R232, R233: a request with an address only. -/
def State.fireLine (s : State) (t : BitVec 6) (op : ReqOp) (o : FmtML) : State :=
  s.fireReq t [rd o.a o.ka] op o.ch.toNat o.pos.toNat fun vs q =>
    { q with addr := (nth default vs 0).lanes, apois := (nth default vs 0).pois }

/-- LD (R224). -/
def execLd (t : BitVec 6) (o : FmtM) (s : State) : Res := .next (s.fireLoad t .ld o)

/-- LDQ (R225). -/
def execLdq (t : BitVec 6) (y : BitVec 3) (a : BitVec 5) (ch : BitVec 2) (pos : BitVec 4) (sz : BitVec 2) (ka : Bool)
    (s : State) : Res :=
  .next (s.fireReq t [rd a ka] .ldq ch.toNat pos.toNat fun vs q =>
    { q with sz := sz.toNat, addr := (nth default vs 0).lanes, apois := (nth default vs 0).pois, dest := .reply y.toNat })

/-- LDS (R229). -/
def execLds (t : BitVec 6) (o : FmtM) (s : State) : Res := .next (s.fireLoad t .lds o)

/-- ST (R227). -/
def execSt (t : BitVec 6) (o : FmtM) (s : State) : Res := .next (s.fireStore t .st o)

/-- STF (R230). -/
def execStf (t : BitVec 6) (o : FmtM) (s : State) : Res := .next (s.fireStore t .stf o)

/-- STO (R231). -/
def execSto (t : BitVec 6) (o : FmtM) (s : State) : Res := .next (s.fireStore t .sto o)

/-- SETE (R232). -/
def execSete (t : BitVec 6) (o : FmtML) (s : State) : Res := .next (s.fireLine t .sete o)

/-- PFX (R233). -/
def execPfx (t : BitVec 6) (o : FmtML) (s : State) : Res := .next (s.fireLine t .pfx o)

/-- The stride of a generator, signed. -/
def Gen.step (g : Gen) : BitVec 40 := g.stride.signExtend 40

/-- R226, R234: a cursor moved by a number of strides from where it stood at the start of the cycle. -/
def State.stepGen (s : State) (k : Nat) (by_ : BitVec 40) : State :=
  let g := nth default s.curElem.gen k
  s.onCurElem fun lv => { lv with gen := upd (fun x => { x with cursor := g.cursor + by_ * g.step }) lv.gen k }

/-- R70, R204, R226: a rule that reads no head has the null effect when its guard, with HEAD 10 or 11, was met by a null: the
only way in which an SRD is null (log 41). -/
def Elem.nullGuard (el : Elem) (t : BitVec 6) : Bool :=
  let g := el.guardOf t
  bitN (guardHead g) 1 && [0, 1, 2, 3].any fun k => bitN (guardInreq g) k && headNull (el.head k)

/-- SRD (R226). -/
def execSrd (t : BitVec 6) (o : FmtMG) (s : State) : Res :=
  let g := nth default s.curElem.gen o.g.toNat
  .next ((s.fireReq t [] .srd o.ch.toNat o.pos.toNat fun _ q =>
    { q with null := s.view.nullGuard t, sz := o.sz.toNat, gen := g.region, off := g.cursor.toNat, dest := destOf o.d.toNat }).stepGen o.g.toNat 1)

/-- SWR (R228). -/
def execSwr (t : BitVec 6) (o : FmtMG) (s : State) : Res :=
  let g := nth default s.curElem.gen o.g.toNat
  .next ((s.fireReq t [rd o.d false] .swr o.ch.toNat o.pos.toNat fun vs q =>
    { q with sz := o.sz.toNat, gen := g.region, off := g.cursor.toNat, data := (nth default vs 0).lanes,
             dpois := (nth default vs 0).pois }).stepGen o.g.toNat 1)

/-- AGN (R234). -/
def execAgn (t : BitVec 6) (g : Bool) (imm : BitVec 14) (s : State) : Res :=
  .next ((s.begin t []).stepGen g.toNat (imm.signExtend 40))

/-- R251: the stripes whose buffers drain when a fence of a scope fires. -/
def fenceStripes (scope p n : Nat) : List Nat := if scope ≤ 2 then [p] else List.range n

/-- FENCE (R251, R253). -/
def execFence (t : BitVec 6) (scope : BitVec 3) (s : State) : Res :=
  let g := s.segD s.cur.n s.cur.k
  let s := s.begin t []
  let s := (fenceStripes scope.toNat s.cur.p g.live.stripes.length).foldl State.drainWharf s
  let s := s.onWharf s.cur.p fun w => { w with fences := w.fences ++ [⟨s.cur.e, scope.toNat, g.sck, g.no⟩] }
  .next ((s.onCurSeg fun g => { g with no := g.no + 1 }).onCurElem fun lv => { lv with fences := lv.fences + 1 })

/-! ## Performing at the banks and controllers -/

/-- The writes of a store with the data lane that each comes from. -/
def State.laneCells (s : State) (g : Seg) (n : Nat) (q : Req) : List (Nat × Host.Cell) :=
  q.accesses.flatMap fun a =>
    let as := s.accBytes g n a
    if q.sz = 0 then
      ((as.zip (laneBytes q.data)).zip (List.range 64)).filterMap fun x => x.1.1.map fun pa => (x.2 / 4, (pa, x.1.2))
    else (as.zip (leBytes a.size (q.data.get a.lane).toNat)).filterMap fun x => x.1.map fun pa => (a.lane, (pa, x.2))

/-- R230, R231: writes that set their granules full, but those whose write R424 discards. -/
def State.storeFull (s : State) (p tenant : Nat) (who : Issuer) (cells : List Host.Cell) : State :=
  let gs := s.fillable cells
  gs.foldl State.setFull ((s.drainWharf p).storeAll p tenant who cells)

/-- R231: STO: the lanes of a full granule are not performed and raise FILLTWICE. -/
def State.performSto (s : State) (p : Nat) (q : Req) : State :=
  let n := s.cur.n
  let g := s.segD n s.cur.k
  let cs := s.laneCells g n q
  let bad := (cs.filter fun c => s.isFull c.2.1).map (·.1)
  let s' := s.storeFull p g.tenant q.issuer ((cs.filter fun c => !bad.contains c.1).map (·.2))
  if bad.isEmpty then s'
  else s'.onCurSeg fun x => x.detect (g.reqRec s.pt p 2 1 q (bits16 fun k => bad.contains k))

/-- R233: PFX: the lines that it fetches enter the stack cache. -/
def State.performPfx (s : State) (q : Req) : State :=
  (s.pfxLines (s.segD s.cur.n s.cur.k) s.cur.n q).foldl (fun s l => s.scTouch (l * 64) false) s

/-- R229: every granule that an LDS touches is full. -/
def State.ldsReady (s : State) (g : Seg) (n : Nat) (q : Req) : Bool :=
  (granulesOf ((s.reqBytes g n q).filterMap id)).all fun x => s.full.contains x

/-- R224 to R233: a load, store or presence request performed. -/
def State.performMem (s : State) (p : Nat) (q : Req) : State :=
  let n := s.cur.n
  let g := s.segD n s.cur.k
  match q.op with
  | .st | .swr => s.storeAll p g.tenant q.issuer (s.storeCells g n q)
  | .stf => s.storeFull p g.tenant q.issuer (s.storeCells g n q)
  | .sto => s.performSto p q
  | .sete => (granulesOf ((s.reqBytes g n q).filterMap id)).foldl State.setEmpty s
  | .pfx => s.performPfx q
  | .lds => if s.ldsReady g n q then s.performLoad p q else s.onWharf p fun w => { w with parked := w.parked ++ [q] }
  | _ => s.performLoad p q

/-! ## Lines in flight (R203, R235 to R238) -/

/-- A request of `lines` performed as it issues: a request of one line may be when nothing of its chain is on its way to the bank, and
the step's choice `cur.x` leaves it in flight otherwise (R236, log 16). -/
def State.atOnce (s : State) (p : Nat) (q : Req) (lines : List Nat) : Bool :=
  !q.op.flies || (decide (lines.length ≤ 1) && s.cur.x == 0 && !(s.wharf p).flyAt q.chain lines)

/-- R203: requests of the chain that issued before `f` have performed their lines at the bank of line `l`. -/
def Wharf.lineFirst (w : Wharf) (f : Fly) (l : Nat) : Bool :=
  w.fly.all fun x => x.req.chain != f.req.chain || decide (f.req.iss ≤ x.req.iss) ||
    x.left.all fun m => bankOf (m * 64) != bankOf (l * 64)

/-- R235: line `l` of a request in flight has issued by fabric cycle `t`. -/
def Fly.issued (f : Fly) (t l : Nat) : Bool :=
  match findIdx (fun x => x == l) f.lines with
  | some i => decide (f.req.iss + i ≤ t)
  | none => false

def inLine (l a : Nat) : Bool := a / 64 == l

/-- R194, R201, R224: a load's bytes of one line read. -/
def State.readLine (s : State) (p : Nat) (f : Fly) (l : Nat) : State × Fly :=
  let n := s.cur.n
  let g := s.segD n s.cur.k
  let w := s.wharf p
  let as := ((s.reqBytes g n f.req).filterMap id).filter (inLine l)
  let pois := s.firstPois w (as.map some)
  let s := match pois with | some a => s.onCurSeg fun g => g.noteOrigin (poisonUnit a) | none => s
  let s := (s.scTouch (l * 64) false).chargeMem g.tenant (l * 64) as.length
  (s, { f with got := f.got ++ as.map fun a => (a, s.wharfByte w (some a)), pois := f.pois || pois.isSome })

/-- R194, R230, R231: a store's bytes of one line written. -/
def State.writeLine (s : State) (p : Nat) (f : Fly) (l : Nat) : State :=
  let n := s.cur.n
  let g := s.segD n s.cur.k
  let cells := (s.storeCells g n f.req).filter fun c => inLine l c.1
  match f.req.op with
  | .stf => (s.fillable cells).foldl State.setFull (s.storeAll p g.tenant f.req.issuer cells)
  | .sto =>
    let cs := (s.laneCells g n f.req).filter fun c => inLine l c.2.1
    let bad := (cs.filter fun c => s.isFull c.2.1).map (·.1)
    let good := (cs.filter fun c => !bad.contains c.1).map (·.2)
    let s' := (s.fillable good).foldl State.setFull (s.storeAll p g.tenant f.req.issuer good)
    if bad.isEmpty then s' else s'.onCurSeg fun x => x.detect (g.reqRec s.pt p 2 1 f.req (bits16 fun k => bad.contains k))
  | _ => s.storeAll p g.tenant f.req.issuer cells

/-- R205, R224: the reply of a load all of whose lines are read. -/
def State.flyReply (s : State) (p : Nat) (f : Fly) : State :=
  let g := s.segD s.cur.n s.cur.k
  let rd := fun (a : Option Nat) => match a with | some x => (lookupN x f.got).getD 0 | none => (0 : Byte)
  s.giveReply p f.req.no (dataTok (s.lanesBy g s.cur.n f.req rd) f.pois f.req.seqv f.req.seq) (replyDue s.cur.k 12 20 f.req.iss f.lines)

/-- R208, R229: an LDS whose lines have all issued and are next at their banks: read whole, or parked there. -/
def State.flyLds (s : State) (p : Nat) (f : Fly) : State :=
  let s' := s.onWharf p fun w => { w with fly := w.fly.filter fun x => x.req.no != f.req.no }
  if s.ldsReady (s.segD s.cur.n s.cur.k) s.cur.n f.req then s'.performLoad p f.req
  else s'.onWharf p fun w => { w with parked := w.parked ++ [f.req] }

/-- R203, R235 to R238: line `l` of the request in flight with number `no` performed at its bank or controller, or taken into the
write-combine buffer, when it has issued and is next there. Requests to different banks are performed in any order. -/
def State.performLine (s : State) (p no l : Nat) : State :=
  let g := s.segD s.cur.n s.cur.k
  let w := s.wharf p
  match w.fly.find? fun f => f.req.no == no with
  | none => s
  | some f =>
    if f.req.op == .lds then
      if f.lines.all fun m => f.issued g.wck m && w.lineFirst f m then s.flyLds p f else s
    else if f.left.contains l && f.issued g.wck l && w.lineFirst f l then
      let r := if f.req.op.isStore then (s.writeLine p f l, f) else s.readLine p f l
      let f' := { r.2 with left := f.left.filter fun x => x != l }
      if f'.left.isEmpty then
        let s := r.1.onWharf p fun w => { w with fly := w.fly.filter fun x => x.req.no != no }
        if f.req.op.isStore then s else s.flyReply p f'
      else r.1.onWharf p fun w => { w with fly := w.fly.map fun x => if x.req.no = no then f' else x }
    else s

end Sys2Proof.Machine
end

