-- ==== Sys2Proof/Machine/Atomic.lean ====
section
/-! DEFINITION. The atomic instructions, major 0x73, their application at owners, banks and controllers, and the repair
queue (R255 to R269). -/

namespace Sys2Proof.Machine

/-! ## Firing (R259, R263, R264) -/

/-- R39: a rule of formats whose chain and position stand in the slot's FCHAIN entry. -/
def State.fireReqF (s : State) (t : BitVec 6) (rds : List Rd) (op : ReqOp) (mk : List Val → Req → Req) : State :=
  let f := (nth 0 s.view.img.cfg.fchain s.cur.j).toNat
  s.fireReq t rds op (f / 16) (f % 16) mk

/-- The request of an update: addresses, values and reply target. -/
def atomReq (vs : List Val) (q : Req) (rpl : Bool) (y : BitVec 3) : Req :=
  { q with sz := 1, addr := (nth default vs 0).lanes, apois := (nth default vs 0).pois, data := (nth default vs 1).lanes,
           dpois := (nth default vs 1).pois, rpl := rpl, dest := if rpl then .reply y.toNat else .none }

def State.fireAtom (s : State) (t : BitVec 6) (f : Nat) (o : FmtAt) : State :=
  s.fireReqF t [rd o.a false, rd o.b false] (.atom f) fun vs q => atomReq vs q o.rpl o.y

/-- AADD (R260). -/
def execAadd (t : BitVec 6) (o : FmtAt) (s : State) : Res := .next (s.fireAtom t 0 o)

/-- AMIN (R260). -/
def execAmin (t : BitVec 6) (o : FmtAt) (s : State) : Res := .next (s.fireAtom t 1 o)

/-- AMAX (R260). -/
def execAmax (t : BitVec 6) (o : FmtAt) (s : State) : Res := .next (s.fireAtom t 2 o)

/-- AMINU (R260). -/
def execAminu (t : BitVec 6) (o : FmtAt) (s : State) : Res := .next (s.fireAtom t 3 o)

/-- AMAXU (R260). -/
def execAmaxu (t : BitVec 6) (o : FmtAt) (s : State) : Res := .next (s.fireAtom t 4 o)

/-- AAND (R260). -/
def execAand (t : BitVec 6) (o : FmtAt) (s : State) : Res := .next (s.fireAtom t 5 o)

/-- AOR (R260). -/
def execAor (t : BitVec 6) (o : FmtAt) (s : State) : Res := .next (s.fireAtom t 6 o)

/-- AXOR (R260). -/
def execAxor (t : BitVec 6) (o : FmtAt) (s : State) : Res := .next (s.fireAtom t 7 o)

/-- AXCHG (R260). -/
def execAxchg (t : BitVec 6) (o : FmtAt) (s : State) : Res := .next (s.fireAtom t 8 o)

/-- ACAS (R260): the compare values stand in an even register, the swap values in the next. -/
def execAcas (t : BitVec 6) (rpl : Bool) (y : BitVec 3) (a : BitVec 5) (b : BitVec 3) (s : State) : Res :=
  .next (s.fireReqF t [rd a false, ⟨2 * b.toNat, false⟩, ⟨2 * b.toNat + 1, false⟩] (.atom 9) fun vs q =>
    { atomReq vs q rpl y with swap := (nth default vs 2).lanes, dpois := (nth default vs 1).pois || (nth default vs 2).pois })

/-- AFADD (R261). -/
def execAfadd (t : BitVec 6) (o : FmtAt) (s : State) : Res := .next (s.fireAtom t 10 o)

/-- AFMIN (R261). -/
def execAfmin (t : BitVec 6) (o : FmtAt) (s : State) : Res := .next (s.fireAtom t 11 o)

/-- AFMAX (R261). -/
def execAfmax (t : BitVec 6) (o : FmtAt) (s : State) : Res := .next (s.fireAtom t 12 o)

/-- AINCW (R260). -/
def execAincw (t : BitVec 6) (o : FmtAt) (s : State) : Res := .next (s.fireAtom t 13 o)

/-! ## One lane (R260, R261) -/

/-- The new value of a lane, whether it is written, and the flags raised. -/
def atomLane (f : Nat) (ftz : Bool) (x v sw : W) : W × Bool × Nat :=
  match f with
  | 0 => (x + v, true, 0)
  | 1 => (sminW x v, true, 0)
  | 2 => (smaxW x v, true, 0)
  | 3 => (uminW x v, true, 0)
  | 4 => (umaxW x v, true, 0)
  | 5 => (x &&& v, true, 0)
  | 6 => (x ||| v, true, 0)
  | 7 => (x ^^^ v, true, 0)
  | 8 => (v, true, 0)
  | 9 => (sw, x == v, 0)
  | 10 => let r := f32Add ⟨0, ftz, 0⟩ x.toNat v.toNat; (BitVec.ofNat 32 r.1, true, r.2)
  | 11 => let r := f32MinMax false ftz x.toNat v.toNat; (BitVec.ofNat 32 r.1, true, r.2)
  | 12 => let r := f32MinMax true ftz x.toNat v.toNat; (BitVec.ofNat 32 r.1, true, r.2)
  | _ => (if x.ult v then x + 1 else 0, true, 0)

/-! ## Owners (R255, R256, R266) -/

/-- The virtual addresses at which a segment's declared regions show a physical byte. -/
def Seg.vasOf (g : Seg) (n pa : Nat) : List Nat :=
  g.extents.filterMap fun x =>
    let b := paOf n x.pbase
    if !x.cmp && b ≤ pa && pa < b + x.len * 65536 then some ((nth default g.regions x.region).base + x.roff + (pa - b)) else none

/-- The index of the owner range that holds a physical byte. -/
def Seg.ownerAt (g : Seg) (n pa : Nat) : Option Nat :=
  let vs := g.vasOf n pa
  findIdx (fun o => vs.any fun v => decide (o.base ≤ v) && decide (v < o.base + o.extent)) g.image.owners

/-- The physical stripe that holds a virtual stripe resident. -/
def Core.holder (c : Core) (vs : Nat) : Option Nat := findIdx (fun t => t.res && t.vs == vs) c.stripes

/-- The physical address of a lane's word. -/
def Seg.lanePa (g : Seg) (n : Nat) (q : Req) (k : Nat) : Option Nat :=
  match laneAcc 4 k (q.addr.get k) with
  | a :: _ => g.accPa n a
  | [] => none

/-- The lanes that make an access. -/
def Req.liveLanes (q : Req) : W16 := bits16 fun k => q.addr.get k != skipLane

/-- The segments of an isle: on its rings, pre-empted, and scanned out. -/
def Isle.segments (i : Isle) : List Seg :=
  i.rings.flatMap fun r => r.seg.toList ++ r.saved.map (·.1) ++ r.scanned.map (·.1)

/-- R266: the OWNER cause of a request's lanes: 1 another segment's range, 2 lanes inside and outside one range or in
two, 0 none; and the lanes that meet it. -/
def State.ownerCause (s : State) (n k : Nat) (q : Req) (lm : W16) : Nat × W16 :=
  let g := s.segD n k
  let ls := laneNums.filter fun i => tb lm i
  let foreign := fun i => match g.lanePa n q i with
    | some pa => (s.isle n).segments.any fun g' => g'.id != g.id && (g'.ownerAt n pa).isSome
    | none => false
  let own := fun i => match g.lanePa n q i with | some pa => g.ownerAt n pa | none => none
  let bad1 := ls.filter foreign
  if !bad1.isEmpty then (1, bits16 fun i => bad1.contains i)
  else
    match ls with
    | [] => (0, 0)
    | i :: _ =>
      let bad2 := ls.filter fun j => own j != own i
      if bad2.isEmpty then (0, 0) else (2, bits16 fun j => bad2.contains j)

/-! ## Application (R257, R260, R262, R263) -/

/-- R213, R266: whether a re-latch in progress walks the translation of a lane. -/
def State.relatching (s : State) (n tenant va : Nat) : Bool :=
  match (s.isle n).hb.relatch.act with
  | some (base, pages, t) => t == tenant && decide (base ≤ va) && decide (va < base + pages * 65536)
  | none => false

/-- R266: the repair cause of a lane: 1 re-latch, 2 poisoned target, 0 none. -/
def State.laneCause (s : State) (n k : Nat) (q : Req) (i : Nat) : Nat :=
  let g := s.segD n k
  match laneAcc 4 i (q.addr.get i) with
  | a :: _ =>
    if s.relatching n g.tenant ((nth default g.regions a.reg).base + a.off) then 1
    else match g.accPa n a with
      | some pa => if s.isPois pa then 2 else 0
      | none => 1
  | [] => 0

/-- One lane applied: memory, the old value, the flags. -/
def State.applyLane (s : State) (n k : Nat) (ftz : Bool) (a : Atom) (i : Nat) : State × Atom :=
  let g := s.segD n k
  match a.req.op, g.lanePa n a.req i with
  | .atom f, some pa =>
    let x : W := BitVec.ofNat 32 (s.num pa 4)
    let (v, wr, fl) := atomLane f ftz x (a.req.data.get i) (a.req.swap.get i)
    let s := s.chargeMem g.tenant pa 4
    let s := if wr then s.write g.tenant pa (leBytes 4 v.toNat) else s.scTouch pa false
    (s, { a with old := upd (fun _ => x) a.old i, flags := a.flags ||| BitVec.ofNat 6 fl
                 lmask := a.lmask &&& ~~~BitVec.ofNat 16 (2 ^ i) })
  | _, _ => (s, { a with lmask := a.lmask &&& ~~~BitVec.ofNat 16 (2 ^ i) })

/-- Lanes applied in ascending order. -/
def State.applyLanes (s : State) (n k : Nat) (ftz : Bool) : Atom → List Nat → State × Atom
  | a, [] => (s, a)
  | a, i :: r => let (s', a') := s.applyLane n k ftz a i; s'.applyLanes n k ftz a' r

/-- R263, R268: the reply of an update. -/
def Atom.reply (a : Atom) : Token :=
  let fl := match a.req.op with | .atom f => decide (10 ≤ f) && decide (f ≤ 12) | _ => false
  dataTok (Lanes.ofFn fun i => if tb a.req.liveLanes i && !tb a.drop i then a.old.get i else 0) (a.drop != 0) false
    (if fl then a.flags.setWidth 16 else 0)

/-- R269: an update with no lane left replies; its latency depends on the application point. -/
def State.finishAtom (s : State) (p : Nat) (a : Atom) (owned : Bool) : State :=
  let g := s.segD s.cur.n s.cur.k
  let lines := s.reqLines g s.cur.n a.req
  let s := s.onWharf p fun w => { w with atoms := w.atoms.filter fun x => x.req.no != a.req.no }
  if a.req.rpl then s.giveReply p a.req.no a.reply (replyDue s.cur.k (if owned then 16 else 14) 22 a.since lines) else s

/-- R266: a request diverted into the repair entry of its chain, with the fault of its cause. -/
def State.divert (s : State) (p : Nat) (a : Atom) (cause own : Nat) (failm : W16) (pa : Nat) : State :=
  let g := s.segD s.cur.n s.cur.k
  let e : Repair := ⟨cause, { a.req with lanes := a.drop }, a.lmask, failm, 0, a.old, a.flags⟩
  let s := s.onWharf p fun w => { w with atoms := w.atoms.filter fun x => x.req.no != a.req.no
                                         rq := upd (fun _ => some e) w.rq a.req.chain }
  let base := g.reqRec s.pt p 7 6 a.req 0
  if cause = 2 then s.onCurSeg fun x => x.detect { base with pois := true, d0 := pa }
  else if cause = 3 then s.onCurSeg fun x => x.detect { base with kind := 3, cause := own, d0 := p }
  else s

/-- R257: the element that owns a resident range, and whether it can take an update in this cycle. -/
def Seg.ownerElem (g : Seg) (o : OwnerEnt) : Option (Nat × Nat) := (g.live.holder o.vs).map fun p => (p, o.elem)
def Elem.canApply (el : Elem) : Bool :=
  !el.cyc.applied && !(el.cyc.fired.any fun j => match el.ruleAt j with
    | some i => (match ruleInfo i with | some r => r.cls == 3 | none => false)
    | none => false)

/-- R257: the flags of an update ORed into its owner, which is busy for the cycle. -/
def Elem.takeUpdate (el : Elem) (fl : BitVec 6) : Elem :=
  { el with fflags := el.fflags ||| fl, cyc := { el.cyc with applied := true, fnew := el.cyc.fnew ||| fl } }

/-- ATOMIC_APPLY (R255, R260): lanes of update `cur.j` are applied: those of the mask `cur.x`, ascending, up to the
first that meets a cause; an owner applies the whole token. A selection that would let a lane pass a lower lane of
its word, or an earlier request of its chain at a bank (R203), applies nothing. While the repair entry of the chain is held, a
second update of the chain that meets a cause waits where it is (log 42). -/
def execAtomicApply (s : State) : Res :=
  let n := s.cur.n
  let k := s.cur.k
  let p := s.cur.p
  let g := s.segD n k
  match (s.wharf p).atoms.find? fun a => a.req.no == s.cur.j with
  | none => .next s
  | some a =>
    let (oc, ofail) := s.ownerCause n k a.req a.lmask
    let taken := (nth none (s.wharf p).rq a.req.chain).isSome
    if oc != 0 then .next (if taken then s else s.divert p a 3 oc ofail 0)
    else
      let lanes := laneNums.filter fun i => tb a.lmask i
      let own := match lanes with
        | i :: _ => (match g.lanePa n a.req i with | some pa => g.ownerAt n pa | none => none)
        | [] => none
      let ent := own.map fun o => nth default g.image.owners o
      let at_ := match ent with | some o => g.ownerElem o | none => none
      let sel := if own.isSome then lanes else lanes.filter fun i => bitN s.cur.x i
      let ordered := sel.all fun i => lanes.all fun j => sel.contains j || decide (i < j) || g.lanePa n a.req i != g.lanePa n a.req j
      let free := match at_ with | some (q, e) => (g.live.elem q e).canApply | none => true
      let behind := sel.any fun i => match g.lanePa n a.req i with
        | some pa => (s.wharf p).fly.any fun x => x.req.chain == a.req.chain && decide (x.req.iss < a.req.iss) &&
            x.left.any fun m => bankOf (m * 64) == bankOf pa
        | none => false
      if !ordered || !free || behind then .next s
      else
        let good := sel.takeWhile fun i => s.laneCause n k a.req i == 0
        let ftz := match ent with | some o => o.ftz | none => false
        let before := a.flags
        let (s', a') := s.applyLanes n k ftz { a with flags := 0 } good
        let s' := match at_ with
          | some (q, e) => if good.isEmpty then s' else s'.onCurSeg fun x => x.onElem q e fun el => el.takeUpdate a'.flags
          | none => s'
        let a' := { a' with flags := a'.flags ||| before }
        let s' := s'.onWharf p fun w => { w with atoms := w.atoms.map fun x => if x.req.no = a.req.no then a' else x }
        match sel.drop good.length with
        | i :: r =>
          if taken then .next s' else
          let c := (i :: r).foldl (fun acc j => max acc (s.laneCause n k a.req j)) 0
          .next (s'.divert p a' c 0 (bits16 fun j => (i :: r).contains j && s.laneCause n k a.req j == c)
            (match (i :: r).find? fun j => s.laneCause n k a.req j == 2 with
             | some j => (match g.lanePa n a.req j with | some pa => poisonUnit pa | none => 0)
             | none => 0))
        | [] => if a'.lmask = 0 then .next (s'.finishAtom p a' at_.isSome) else .next s'

/-! ## The repair queue (R267, R268) -/

/-- R268: an entry issued again with its addresses and values as they stand; it stays when a check of R258 fails. -/
def State.reenter (s : State) (p c : Nat) : State :=
  let n := s.cur.n
  let g := s.segD n s.cur.k
  match nth none (s.wharf p).rq c with
  | none => s
  | some e =>
    let drop := if e.act = 1 then e.lmask &&& e.failm else 0
    let q := { e.req with held := true }
    let lm := e.lmask &&& ~~~drop &&& q.liveLanes
    let bad := (g.failing n q).filter fun x => tb lm x.1.lane
    match bad with
    | x :: _ => s.onCurSeg fun y => y.detect (g.reqRec s.pt p 1 x.2 q (accLanes (bad.map (·.1))))
    | [] =>
      let a : Atom := ⟨q, lm, e.old, e.flags, e.req.lanes ||| drop, g.wck⟩
      let s := s.onWharf p fun w => { w with rq := upd (fun _ => none) w.rq c, atoms := w.atoms ++ [a] }
      if lm = 0 then s.finishAtom p a false else s

/-- REPAIR_REENTRY (R268): the entry of chain `cur.j` after its re-latch has ended. -/
def execRepairReentry (s : State) : Res :=
  let g := s.segD s.cur.n s.cur.k
  match nth none (s.wharf s.cur.p).rq s.cur.j with
  | some e =>
    let waiting := laneNums.any fun i => tb e.lmask i && s.laneCause s.cur.n s.cur.k e.req i == 1
    if e.cause == 1 && !waiting && !g.stopped then .next (s.reenter s.cur.p s.cur.j) else .next s
  | none => .next s

/-- R258, R264: an update that issues: checked, then its lanes wait at their application points. -/
def State.issueAtom (s : State) (p : Nat) (q : Req) : State :=
  let g := s.segD s.cur.n s.cur.k
  let lm := q.liveLanes
  let a : Atom := ⟨q, lm, Lanes.zero, 0, 0, g.wck⟩
  let s := s.onWharf p fun w => { w with atoms := w.atoms ++ [a] }
  if lm = 0 then s.finishAtom p a false else s

end Sys2Proof.Machine
end

