-- ==== Sys2Proof/Machine/Geometry.lean ====
section
/-! DEFINITION. The grid of the panel: the sites of isles and straits, the ports of an isle and the straits that traffic crosses (R5
to R8). -/

namespace Sys2Proof.Machine

/-- R6: the site (column, row) of isle `n`. -/
def isleSite (n : Nat) : Nat × Nat := (2 * (n % 5) + (n / 5 + 1) % 2, n / 5)

/-- R6: the site of strait `n`, the home strait of isle `n`. -/
def straitSite (n : Nat) : Nat × Nat := (2 * (n % 5) + n / 5 % 2, n / 5)

/-- R5, R6: the isle (`true`) or strait that stands at a site, by its number. -/
def siteAt (c r : Nat) : Option (Bool × Nat) := if c < 10 ∧ r < 8 then some ((c + r) % 2 == 1, 5 * r + c / 2) else none

/-- The ports of an isle (R7). -/
inductive GridPort where
  | north | east | south | west
  deriving DecidableEq, Repr

/-- R7: the strait behind a port of isle `n`; none where the site lies off the grid. -/
def isleStrait (n : Nat) (side : GridPort) : Option Nat :=
  let (c, r) := isleSite n
  let at_ := fun (c r : Nat) => (siteAt c r).map (·.2)
  match side with
  | .north => if r = 0 then none else at_ c (r - 1)
  | .east => at_ (c + 1) r
  | .south => at_ c (r + 1)
  | .west => if c = 0 then none else at_ (c - 1) r

/-- R7: the port behind which the home strait of isle `n` lies. -/
def homePort (n : Nat) : GridPort := if n / 5 % 2 = 0 then .west else .east

/-- R8: the isles that the crossing switch of strait `n` joins. -/
def straitIsles (n : Nat) : List Nat :=
  (List.range 40).filter fun i => [GridPort.north, .east, .south, .west].any fun d => isleStrait i d == some n

/-- R8: the least number of straits between two isles. -/
def straitsBetween (m n : Nat) : Nat :=
  let a := isleSite m
  let b := isleSite n
  ((a.1 - b.1) + (b.1 - a.1) + ((a.2 - b.2) + (b.2 - a.2))) / 2

end Sys2Proof.Machine
end

