-- ==== Sys2Proof/Machine/System.lean ====
section
/-! DEFINITION. The system instructions, major 0x78 (R411 to R418): TRAP, BRK, MARK, CYC, PERF and HALT. -/

namespace Sys2Proof.Machine

/-- TRAP (R413): the fault of a trap code; its operand is consumed. A null code does nothing (R412). -/
def execTrap (t : BitVec 6) (a : BitVec 5) (s : State) : Res :=
  .next (s.fire t [rd a false] [] fun vs s =>
    let v := nth default vs 0
    s.faultRule { s.ruleRec 0xA 0 with pois := v.pois, d0 := (v.lanes.get 0).toNat })

/-- R414, R450: the arm that a BRK for invocation `j` leaves: a later BRK replaces an earlier one, and an earlier
invocation comes before a debugger's. -/
def armWith (a : Option Arm) (run j : Nat) : Option Arm :=
  match a with
  | none => some ⟨run, j, 1, 0⟩
  | some x =>
    let y : Arm := ⟨run, j, 1, 0⟩
    if (if x.cause = 1 then x.before y else y.before x) then some y else some x

/-- BRK (R414). -/
def execBrk (t : BitVec 6) (s : State) : Res :=
  let j := s.curElem.ord.toNat
  .next ((s.begin t []).onCurSeg fun g => g.onLive fun c => c.onStripe s.cur.p fun st => { st with arm := armWith st.arm s.curElem.erun j })

/-- MARK (R415, R447). -/
def execMark (t : BitVec 6) (a : BitVec 5) (s : State) : Res :=
  let g := s.segD s.cur.n s.cur.k
  let ord := s.curElem.ord.toNat
  .next (s.fire t [rd a false] [] fun vs s =>
    let v := nth default vs 0
    s.postTrace s.cur.n s.cur.k g.tenant 1 v.pois g.id.toNat (g.vsAt s.cur.p) s.cur.e s.cur.j ord (v.lanes.get 0).toNat)

/-- CYC (R416): the segment cycle, and panel time at its start. -/
def execCyc (t : BitVec 6) (d : BitVec 5) (s : State) : Res :=
  let g := s.segD s.cur.n s.cur.k
  .next (s.fire t [] [] fun _ s =>
    s.putD d.toNat (Val.plain (Lanes.ofList [lo32 g.sck, hi32 g.sck, lo32 g.cpt, hi32 g.cpt])) 0)

/-- R417, R444: the lanes that a PERF selector reads. -/
def Elem.perfLanes (el : Elem) (sck sel : Nat) : List W :=
  if sel = 0 then [el.fflags.setWidth 32]
  else if sel = 1 then [el.ermask.setWidth 32]
  else if sel = 2 then [lo32 el.fires.toNat, hi32 el.fires.toNat]
  else if sel = 3 then [lo32 sck, hi32 sck]
  else if sel < 0xF then
    let v := (nth (0 : W64) el.late (sel - 4)).toNat
    [lo32 v, hi32 v]
  else if sel = 0xF then
    [lo32 el.excess.toNat, hi32 el.excess.toNat, lo32 el.intervals.toNat, hi32 el.intervals.toNat, el.maxEx]
  else []

/-- PERF (R417): values of the start of the cycle; a clear keeps what other rules raise in the cycle. -/
def execPerf (t : BitVec 6) (o : FmtDA) (s : State) : Res :=
  let el := s.view
  let sck := (s.segD s.cur.n s.cur.k).sck
  .next (s.fire t [rd o.a false] [o.d.toNat] fun vs s =>
    let w := ((nth default vs 0).lanes.get 0).toNat
    let sel := w % 256
    let s := s.putD o.d.toNat (resultOf vs (Lanes.ofList (el.perfLanes sck sel))) 0
    if bitN w 8 then
      s.onCurElem fun lv =>
        if sel = 0 then { lv with fflags := lv.cyc.fnew }
        else if sel = 1 then { lv with ermask := lv.cyc.enew }
        else lv
    else s)

/-- HALT (R418): it takes effect at the end of its cycle; a second HALT has none. -/
def execHalt (t : BitVec 6) (s : State) : Res :=
  let s := s.begin t []
  if (s.segD s.cur.n s.cur.k).halted then .next s else .next (s.onCurSeg fun g => { g with halting := true })

end Sys2Proof.Machine
end

