-- ==== Sys2Proof/Machine/Copies.lean ====
section
/-! DEFINITION. What a copy is asked to do and where its addresses lead: descriptors, the ferry TLB, the checks of an access, and
the index list (R270 to R275, R277). -/

namespace Sys2Proof.Machine

/-! ## Descriptors (R273, R274) -/

/-- A copy from the fields of a descriptor; nothing else is filled in. -/
def Copy.ofLanes (op : Nat) (l : Lanes) : Copy :=
  { (default : Copy) with
    op := op, src := lane64 l 0, dst := lane64 l 2, len := (l.get 4).toNat, rows := (l.get 5).toNat,
    sstr := (l.get 6).toNat, dstr := (l.get 7).toNat, idx := lane64 l 8, pat := (l.get 10).toNat }

/-- R274: the bytes that a copy writes. -/
def Copy.bytes (c : Copy) : Nat :=
  (if c.op = 1 then c.len * c.rows else if c.op = 2 ∨ c.op = 3 then c.rows * c.sstr else c.len) % 2 ^ 64

/-- R273: an element size is a power of two from 4 to 65,536. -/
def esizeOk (n : Nat) : Bool := (List.range 15).any fun i => n == 4 * 2 ^ i

/-- R273: the descriptor is well formed. -/
def Copy.formed (c : Copy) (l : Lanes) : Bool :=
  canonical c.dst && (c.op == 4 || canonical c.src) &&
  (!(c.op == 2 || c.op == 3) || (canonical c.idx && esizeOk c.sstr)) &&
  [11, 12, 13, 14, 15].all fun k => l.get k == 0

/-- R278: the unit of the cursor: a byte, or an element of a gather or scatter. -/
def Copy.unitSize (c : Copy) : Nat := if c.op = 2 ∨ c.op = 3 then max 1 c.sstr else 1

/-- An address plus a signed displacement, modulo 2^64. -/
def vaAdd (a : Nat) (d : Int) : Nat := modN 64 (a + d)

/-- R278: the index address of the element that holds byte `b`. -/
def Copy.idxVa (c : Copy) (b : Nat) : Option Nat :=
  if c.op = 2 ∨ c.op = 3 then some ((c.idx + 4 * (b / c.unitSize)) % 2 ^ 64) else none

/-- R274: the source and destination address of byte `b`, with the index of its element. -/
def Copy.addrs (c : Copy) (b ix : Nat) : Option Nat × Nat :=
  let es := c.unitSize
  match c.op with
  | 0 => (some ((c.src + b) % 2 ^ 64), (c.dst + b) % 2 ^ 64)
  | 1 =>
    let r := b / max 1 c.len
    let o := b % max 1 c.len
    (some (vaAdd c.src (r * sextN 32 c.sstr + o)), vaAdd c.dst (r * sextN 32 c.dstr + o))
  | 2 => (some ((c.src + ix * es + b % es) % 2 ^ 64), (c.dst + b) % 2 ^ 64)
  | 3 => (some ((c.src + b) % 2 ^ 64), (c.dst + ix * es + b % es) % 2 ^ 64)
  | _ => (none, (c.dst + b) % 2 ^ 64)

/-! ## Translation caches (R272, R336) -/

/-- The page of an entry holds an address of its tenant. -/
def TlbEnt.holds (e : TlbEnt) (t va : Nat) : Bool := e.tenant == t && va % 2 ^ 48 / 2 ^ e.log == e.va / 2 ^ e.log

/-- The leaf that an entry gives for an address. -/
def TlbEnt.leaf (e : TlbEnt) (va : Nat) : Leaf := ⟨e.base + va % 2 ^ e.log, e.log, e.base, e.pte, e.slot⟩

/-- An address through a translation cache: the entry that it holds, else the page table. -/
def State.walkVia (s : State) (tlb : List TlbEnt) (t va : Nat) : Option Leaf :=
  match tlb.find? fun e => e.holds t va with
  | some e => if paPresent (e.leaf va).pa then some (e.leaf va) else none
  | none => s.walk t va

/-- A translation entered into a cache of `cap` entries, as its most recently used one; the least recently used leaves a full
cache. Which entry leaves is the model's choice (log 8). -/
def tlbEnter (cap : Nat) (tlb : List TlbEnt) (t va : Nat) (l : Leaf) : List TlbEnt :=
  (⟨t, va % 2 ^ 48 / 2 ^ l.log * 2 ^ l.log, l.log, l.base, l.pte, l.slot⟩ :: tlb.filter fun e => !e.holds t va).take cap

/-- R272: a re-latch token removes the entries of its tenant that overlap its range. -/
def tlbPurge (tlb : List TlbEnt) (t base len : Nat) : List TlbEnt :=
  tlb.filter fun e => !(e.tenant == t && decide (e.va < base % 2 ^ 48 + len) && decide (base % 2 ^ 48 < e.va + 2 ^ e.log))

/-- R271, R272: an address of a tenant through the ferry TLB of isle `n`. -/
def State.fwalk (s : State) (n t va : Nat) : Option Leaf := s.walkVia (s.isle n).ferry.tlb t va

/-- R272: the ferry TLB after the use of an address, whose entry it then holds. -/
def State.ferryUse (s : State) (n t va : Nat) : State :=
  match s.fwalk n t va with
  | some l => s.onFerry n fun f => { f with tlb := tlbEnter 2048 f.tlb t va l }
  | none => s

/-- R336: an address of a tenant through the translation cache of the harbour of isle `n`. -/
def State.hwalk (s : State) (n t va : Nat) : Option Leaf := s.walkVia (s.isle n).hb.tlb t va

/-- R336: that cache after the use of an address. -/
def State.harbourUse (s : State) (n t va : Nat) : State :=
  match s.hwalk n t va with
  | some l => s.onHarbour n fun h => { h with tlb := tlbEnter 1024 h.tlb t va l }
  | none => s

/-! ## Accesses of a copy (R271, R275, R277) -/

/-- R271: the fault cause of an access, 0 when it is allowed. -/
def accessFault (l : Option Leaf) (wr : Bool) : Nat :=
  match l with
  | none => 1
  | some l =>
    if !(if wr then l.w else l.r) then 2
    else if !(l.a && (!wr || l.d)) then 3 else 0

/-- R275: where a read of an address finds its byte: in a compressed page maybe nowhere. -/
def State.readPa (s : State) (l : Leaf) : Option Nat := if l.cmp then s.cmpByte l.base (l.pa - l.base) else some l.pa

/-- The four byte addresses of the index of the element that holds byte `b`; none where the operation has no indices. -/
def Copy.idxVas (c : Copy) (b : Nat) : List Nat :=
  match c.idxVa b with
  | some va => (List.range 4).map fun i => (va + i) % 2 ^ 64
  | none => []

/-- The physical addresses of an index. -/
def State.idxPas (s : State) (n : Nat) (c : Copy) (b : Nat) : List (Option Nat) :=
  (c.idxVas b).map fun va => (s.fwalk n c.tenant va).bind s.readPa

/-- The index that byte `b` uses: the one that the copy has read with its line, or the one that stands in the list; 0 when its
operation has none. -/
def State.copyIx (s : State) (n : Nat) (c : Copy) (b : Nat) : Nat :=
  match lookupN (b / c.unitSize) c.ixs with
  | some ix => ix
  | none => ofLe ((s.idxPas n c b).map fun a => match a with | some x => s.byte x | none => 0)

/-- R277: a line of the list that the index of byte `b` touches reads as poisoned, and the copy has not read that index. -/
def State.copyIxPois (s : State) (n : Nat) (c : Copy) (b : Nat) : Bool :=
  (lookupN (b / c.unitSize) c.ixs).isNone &&
  (s.idxPas n c b).any fun a => match a with
    | some x => (List.range 8).any fun i => s.isPois (x / 64 * 64 + 8 * i)
    | none => false

/-- R277: the indices that the lines of the index of byte `b` hold are read together: those of the elements from its own on that
lie in these lines alone. -/
def State.captureIx (s : State) (n : Nat) (c : Copy) (b : Nat) : Copy :=
  let us := c.unitSize
  let i := b / us
  if (c.idxVa b).isNone || (lookupN i c.ixs).isSome then c
  else
    let lines := (c.idxVas b).map fun va => va / 64
    let els := ((List.range (min 32 (c.rows - i))).map (i + ·)).takeWhile fun k => (c.idxVas (k * us)).all fun va => lines.contains (va / 64)
    { c with ixs := c.ixs ++ els.map fun k => (k, s.copyIx n c (k * us)) }

/-- R271, R278: the first fault that byte `b` meets: cause, side and address. An index that has been read meets none. -/
def State.copyFaultAt (s : State) (n : Nat) (c : Copy) (b : Nat) : Option (Nat × Side × Nat) :=
  let (src, dst) := c.addrs b (s.copyIx n c b)
  let at_ := fun (va : Nat) (wr : Bool) => accessFault (s.fwalk n c.tenant va) wr
  let ixs := if (lookupN (b / c.unitSize) c.ixs).isSome then [] else c.idxVas b
  match ixs.find? fun va => at_ va false != 0 with
  | some va => some (at_ va false, .idx, va)
  | none =>
    match (match src with | some va => if at_ va false != 0 then some va else none | none => none) with
    | some va => some (at_ va false, .src, va)
    | none => if at_ dst true != 0 then some (at_ dst true, .dst, dst) else none

/-! ## Where a copy writes (R251) -/

/-- R251: the bytes of a copy at which its destination enters another page: the first of the copy, of each row and of each
element, and those whose address starts a page of 4 KiB. -/
def State.copyPages (s : State) (n : Nat) (c : Copy) : List Nat :=
  (List.range c.bytes).filter fun b =>
    b == 0 || (c.op == 1 && b % max 1 c.len == 0) || (c.op == 3 && b % c.unitSize == 0) ||
    (c.addrs b (if c.op = 3 then s.copyIx n c b else 0)).2 % 4096 == 0

/-- R251: whether some page of the destination of a copy passes a test; a page that is not present counts (log 16). -/
def State.copyLeadsTo (s : State) (n : Nat) (c : Copy) (hit : Nat → Bool) : Bool :=
  (s.copyPages n c).any fun b =>
    match s.fwalk n c.tenant (c.addrs b (s.copyIx n c b)).2 with
    | some l => hit l.pa
    | none => true

end Sys2Proof.Machine
end

