-- ==== Sys2Proof/Machine/Cycle.lean ====
section
/-! DEFINITION. The end of a cycle of a ring (R4): what must have been done in it, heads taken, busy units, late cycles,
crossings, fences, marker faults, the stall counter and the accounts (R66, R75, R88, R251, R419, R442 to R444,
R466, R492). -/

namespace Sys2Proof.Machine

/-! ## What the cycle still owes (R68, R163, R173) -/

/-- Everything that this cycle holds for an element is done: its selected rules, its gate, the intake, the MMA events. -/
def Seg.elemDone (g : Seg) (p e : Nat) : Bool :=
  let lv := g.live.elem p e
  let sel := g.selected p e
  sel.all (fun j => lv.cyc.fired.contains j) &&
  (!lv.cyc.fired.isEmpty || lv.cyc.gate || (g.gateReady p e).isNone) &&
  ((g.viewOf g.start p e).intakeReady lv).isNone &&
  (lv.startDue g.sck).isNone && (lv.endDue g.sck).isNone && (lv.foldDue g.sck).isNone

/-- The elements whose clock runs in this cycle. -/
def Seg.activeElems (g : Seg) : List (Nat × Nat) :=
  (List.range g.start.stripes.length).flatMap fun p =>
    if (g.start.stripe p).res && (g.live.stripe p).res then ((List.range 16).filter fun e => (g.start.elem p e).on).map fun e => (p, e) else []

/-- R81: stripe `p` leaves the window at the end of this cycle: END has passed it, and its out-channels and its wharf are empty
once the cycle has done its work; the save of a stateful stripe ends in this cycle at the latest (R82). -/
def Seg.evictable (g : Seg) (p : Nat) : Bool :=
  let st := g.start.stripe p
  let lv := g.live.stripe p
  g.scrolls && !g.clockHeld && st.res && lv.res && decide (st.run < g.runsDealt) && g.passedEnd p st.run &&
  g.live.outsEmpty p true && lv.wharf.idle && (!g.isStateful p || (st.saved && lv.saved && decide (lv.hold ≤ 1))) &&
  (List.range 16).all fun e => !(g.start.elem p e).on || g.elemDone p e

/-- R80: the staging stripe that becomes resident in this cycle: its record is put back, and the stripe after it, the lowest, was
evicted in an earlier one. -/
def Seg.residentDue (g : Seg) : Option Nat :=
  match findIdx (fun (st : Stripe) => st.stg) g.live.stripes with
  | some p =>
    let st := g.live.stripe p
    if !g.clockHeld && st.saved && st.hold == 0 && !(g.start.stripe (g.start.succ p)).res then some p else none
  | none => none

/-- The cycle has done what it holds: its rules and gates, and the saves, evictions and residencies of its stripes. -/
def Seg.cycleDone (g : Seg) : Bool :=
  g.activeElems.all (fun x => g.elemDone x.1 x.2) && g.residentDue.isNone &&
  (List.range g.start.stripes.length).all fun p => ((g.saveDue p).isNone || (g.live.stripe p).saved) && !g.evictable p

/-! ## Late cycles (R442 to R444) -/

/-- R443: whether a register awaits an LD or SRD reply. -/
def Wharf.awaits (w : Wharf) (e n : Nat) : Bool := w.pend.any fun x => x.elem == e && x.read && x.dest == .vreg n

/-- R443: an MMA of either kind. -/
def isMma (i : Instr) : Bool :=
  match i with
  | .mma .. => true
  | .mmas .. => true
  | _ => false

def mmaOperand (i : Instr) : Option FmtMma :=
  match i with
  | .mma _ o => some o
  | .mmas _ o => some o
  | _ => none

/-- R443: whether the B stage lacks a complete group for the rule. -/
def Elem.lacksGroup (el : Elem) (i : Instr) : Bool :=
  match mmaOperand i with
  | some o => let pt := el.plane o.pl.toNat; decide (el.unassigned.length < groupLen pt.fmt.toNat pt.sparse.toNat)
  | none => false

/-- R443: the code that a late cycle of the pacing rule is charged to. -/
def Seg.lateCode (g : Seg) (p e : Nat) : Nat :=
  let st := g.start.stripe p
  let el := g.viewOf g.start p e
  let j := el.img.cfg.pace
  match el.ruleAt j with
  | none => 0xE
  | some i =>
    match ruleInfo i with
    | none => 0xE
    | some r =>
      let gd := if r.sel < 32 then (nth 0 el.img.guards r.sel).toNat else 0
      let ins := [0, 1, 2, 3].find? fun k =>
        ((chansOf r.srcs).contains k || bitN (guardInreq gd) k) && (el.head k).isNone ||
        (el.lacksGroup i && el.bChan == some k)
      let outs := [0, 1, 2, 3].find? fun k => (g.needOut el i r).contains k && g.freeOf p e k == 0
      let full := match el.chainPos r j with
        | some (c, _) => decide (16 ≤ (nth [] st.wharf.chains c).length)
        | none => false
      let fence := match i with | .fence .. => decide (4 ≤ el.fences) | _ => false
      match ins, outs with
      | some k, _ => 4 + k
      | none, some k => 8 + k
      | none, none =>
        if full || fence || (guardVpres gd != 0 && st.wharf.awaits e (guardVpres gd)) then 0xC
        else if g.slotReady p e el i r j || (r.cls == 2 && !g.ownOk p el i r j) then 0xD
        else 0xE

/-- R444: one cycle added to the count of a code. -/
def addLate (l : List W64) (code : Nat) : List W64 :=
  upd (fun v => BitVec.ofNat 64 (satAdd (2 ^ 64 - 1) v.toNat 1)) l (code - 4)

/-- R447: the code charged most often, the lowest on a tie. -/
def topCode (l : List Nat) : Nat :=
  (List.range 11).foldl (fun best i => if (l.filter (· == best)).length < (l.filter (· == 4 + i)).length then 4 + i else best) 4

/-- R442, R444: the pacing account of an element after a cycle, and the excess and code of an interval that ended. -/
def Elem.pace (lv : Elem) (sck code : Nat) : Elem × Option (Nat × Nat) :=
  let c := lv.img.cfg
  if c.ii = 0 then (lv, none)
  else
    let fired := lv.cyc.fired.contains c.pace
    match lv.lastPace with
    | none => ({ lv with lastPace := if fired then some sck else none, lateNow := [] }, none)
    | some f1 =>
      if fired then
        let x := sck - f1 - c.ii
        ({ lv with
            lastPace := some sck
            lateNow := []
            intervals := BitVec.ofNat 64 (satAdd (2 ^ 64 - 1) lv.intervals.toNat 1)
            excess := BitVec.ofNat 64 (satAdd (2 ^ 64 - 1) lv.excess.toNat x)
            maxEx := BitVec.ofNat 32 (max lv.maxEx.toNat (min x (2 ^ 32 - 1)))
            late := lv.lateNow.foldl addLate lv.late }, some (x, topCode lv.lateNow))
      else if f1 + c.ii ≤ sck then ({ lv with lateNow := lv.lateNow ++ [code] }, none)
      else (lv, none)

/-- R447: a DEFICIT record for an interval that ended in this cycle. -/
def State.traceLate (s : State) (n k : Nat) (g : Seg) (p e : Nat) : State :=
  match ((g.live.elem p e).pace g.sck (g.lateCode p e)).2 with
  | some (x, code) =>
    let thr := max 1 (s.isle n).trace.dthr
    if thr ≤ x then
      s.postTrace n k g.tenant 2 false g.id.toNat (g.vsAt p) e (g.start.elem p e).img.cfg.pace (g.start.elem p e).ord.toNat
        (min x (2 ^ 24 - 1) + code * 2 ^ 24)
    else s
  | none => s

/-! ## Token checks (R419) -/

/-- R440: a corrected error counted at the present panel time. -/
def State.countCe (s : State) (n cls : Nat) : State :=
  s.onContain n fun c => { c with ce := upd (fun l => l ++ [s.pt]) c.ce cls }

/-- R419: a token check failure: the count of class 3 and an error record. -/
def State.checkFail (s : State) (n seg vs elem detail : Nat) : State :=
  (s.countCe n 3).postErr n 2 seg (vs + elem * 2 ^ 16) detail

def State.checkFails (s : State) (n : Nat) (g : Seg) (p e : Nat) : State :=
  (g.live.elem p e).cyc.badchk.foldl (fun s ch => s.checkFail n g.id.toNat (g.vsAt p) e ch) s

/-! ## The element and the segment at the end of the cycle -/

/-- R66: heads taken, one of each in-channel. -/
def takeHeads (q : List (List Slot)) (taken : List Nat) : List (List Slot) := taken.foldl (fun q k => upd (fun l => l.drop 1) q k) q

/-- R226: a cursor at the argument index of the first invocation of a run. -/
def Gen.at_ (g : Gen) (a0 : Nat) : Gen := { g with cursor := BitVec.ofNat 40 a0 * g.step }

/-- An element at the end of a cycle: registers that lose their presence (R67), seeds and cursors that it takes (R139, R226).
`code` is what a late cycle is charged to. -/
def Elem.endCycle (lv : Elem) (sck code : Nat) : Elem :=
  let lv := (lv.pace sck code).1
  { lv with
    inq := takeHeads lv.inq lv.cyc.taken
    v := lv.cyc.clr.foldl (fun v x => upd (fun (r : VReg) => { r with pres := false }) v x.2) lv.v
    sr := lv.cyc.newSr.getD lv.sr
    gen := match lv.cyc.newGen with | some a0 => lv.gen.map fun g => g.at_ a0 | none => lv.gen
    vbusy := lv.vbusy - 1
    hold := lv.hold - 1
    cyc := default }

/-- The crossing FIFOs whose heads the elements of a stripe took. -/
def Seg.crossTaken (g : Seg) (p e : Nat) : List Nat :=
  (g.live.elem p e).cyc.taken.filterMap fun k => g.crossIn (g.start.elem p e) k

/-- R4, R66: the segment's elements at the end of a cycle. -/
def Seg.endElems (g : Seg) : Seg :=
  g.activeElems.foldl (fun (h : Seg) x =>
    let code := g.lateCode x.1 x.2
    let h := h.onElem x.1 x.2 fun lv => lv.endCycle g.sck code
    h.onLive fun c => { c with xin := takeHeadsX c.xin (g.crossTaken x.1 x.2) }) g
where
  takeHeadsX (q : List (List Token)) (taken : List Nat) : List (List Token) := taken.foldl (fun q k => upd (fun l => l.drop 1) q k) q

/-- The cycles that a stripe is still held for. -/
def Seg.endHolds (g : Seg) : Seg :=
  g.onLive fun c => { c with stripes := c.stripes.map fun st => { st with hold := st.hold - 1 } }

/-! ## Fences (R251) -/

/-- R251, R252: a request or copy is ahead of a fence: it fired in the fence's cycle or earlier, or chain order makes it so. -/
def Fence.precededBy (f : Fence) (i : Issuer) : Bool := decide (i.ck ≤ f.ck) || i.ahead.contains f.no

/-- R251: requests ahead of a fence that are not performed, in the wharf of stripe `p`, whether they wait, are on their way, or
stand in the write-combine buffer. -/
def Wharf.ahead (w : Wharf) (f : Fence) (fp p : Nat) : Bool :=
  let hit := fun (i : Issuer) => f.covers fp p i.elem && f.precededBy i
  w.chains.any (fun c => c.any fun q => hit q.issuer) || w.fly.any (fun x => hit x.req.issuer) ||
  w.parked.any (fun q => hit q.issuer) || w.atoms.any (fun a => hit a.req.issuer) ||
  w.rq.any (fun e => match e with | some x => hit x.req.issuer | none => false) ||
  w.wc.any fun l => l.who.any hit

/-- R251: an address lies within what a fence of scope 4, 5 or 6 waits for: this isle; the isles of the panel view and host memory
behind this panel's bridges; the panels of the system view. -/
def State.fenceCovers (s : State) (n scope pa : Nat) : Bool :=
  let i := s.isle n
  let here := paPanel pa && paIsle pa == n
  let panel := here || (paPanel pa && i.pview.members.any fun m => m.2 == paIsle pa) || paHost pa
  if scope = 4 then here
  else if scope = 5 then panel
  else panel || (decide (0x100 ≤ paSpace pa) && i.sview.members.any fun m => m.1 == paSpace pa - 0x100)

/-- R251: whether a copy of the segment is ahead of a fence and has a part of its destination within the fence's scope. -/
def State.copyAhead (s : State) (n : Nat) (g : Seg) (f : Fence) (c : Copy) : Bool :=
  c.seg == some g.id.toNat && f.precededBy ⟨c.elem, c.ck, c.ahead⟩ && decide (4 ≤ f.scope) &&
  s.copyLeadsTo n c fun pa => s.fenceCovers n f.scope pa

/-- R251: the work ahead of a fence is done. -/
def State.fenceDone (s : State) (n : Nat) (g : Seg) (fp : Nat) (f : Fence) : Bool :=
  (List.range g.live.stripes.length).all (fun p => !(g.live.stripe p).wharf.ahead f fp p) &&
  !(s.isle n).ferry.copies.any fun c => s.copyAhead n g f c.2

/-- Resolved fences leave their wharves, and their elements may fire another (R253). -/
def State.endFences (s : State) (n k : Nat) (g : Seg) : State :=
  (List.range g.live.stripes.length).foldl (fun s p =>
    let (done, left) := (g.live.stripe p).wharf.fences.partition fun f => s.fenceDone n g p f
    if done.isEmpty then s
    else s.onSeg n k fun g =>
      done.foldl (fun (g : Seg) f => g.onElem p f.elem fun el => { el with fences := el.fences - 1 })
        (g.onWharf p fun w => { w with fences := left })) s

/-! ## Crossings (R466) -/

/-- A token at the producer of a crossing moved into its FIFO while that has room. -/
def State.drainCross (s : State) (n k p e ch : Nat) : State :=
  let g := s.segD n k
  let el := g.live.elem p e
  let r := el.route ch
  let x := nth default g.image.chans (routeIdx r)
  if routeKind r = 5 ∧ x.dir = 1 ∧ g.joined.contains (routeIdx r) then
    match nth [] el.oq ch, s.seg x.isle x.ring with
    | .tok t :: _, some peer =>
      if (nth [] peer.live.xin x.peer).length < 256 ∧ peer.joined.contains x.peer then
        (s.onSeg n k fun g => g.onElem p e fun el => { el with oq := upd (fun l => l.drop 1) el.oq ch }).onSeg x.isle x.ring
          fun h => h.onLive fun c => { c with xin := upd (fun l => l ++ [t]) c.xin x.peer }
      else s
    | _, _ => s
  else s

def State.endCrossings (s : State) (n k : Nat) (g : Seg) : State :=
  g.activeElems.foldl (fun s x => [0, 1, 2, 3].foldl (fun s ch => s.drainCross n k x.1 x.2 ch) s) s

/-! ## Marker faults of the cycle (R75) -/

/-- A MARKER record of an element with or without a slot. -/
def Seg.markRec (g : Seg) (pt p e slot cause : Nat) : Rec :=
  let el := g.viewOf g.start p e
  { Rec.blank with
    kind := 4, cause := cause, pt := pt, vs := g.vsAt p, elem := e, slot := slot, ord := el.ord.toNat,
    argix := g.argix el.erun el.ord.toNat, d0 := markerDetail el none }

/-- R75 cause 0x1: two gate-routed heads hold markers of different kinds. -/
def Seg.mixedMarkers (g : Seg) (p e : Nat) : Bool :=
  let el := g.viewOf g.start p e
  let kinds := (g.gateChans p e).filterMap fun k => match el.head k with
    | some t => if t.kind.isMarker then some t.kind else none
    | none => none
  kinds.contains .eoi && kinds.contains .fin

/-- The slot of an element's REORD that raises MARKER 0x6 in the cycle. -/
def Seg.reordStuck (g : Seg) (p e : Nat) : Option Nat := (g.viewOf g.start p e).reordStuck

def Seg.markerFaults (g : Seg) (pt : Nat) : Seg :=
  g.activeElems.foldl (fun (h : Seg) x =>
    let h := if g.mixedMarkers x.1 x.2 then h.detect (g.markRec pt x.1 x.2 0x3F 1) else h
    match g.reordStuck x.1 x.2 with
    | some j => h.detect (g.markRec pt x.1 x.2 j 6)
    | none => h) g

/-! ## The stall counter (R88) -/

/-- R88: no rule or gate of the element is ready. -/
def Seg.elemQuiet (g : Seg) (p e : Nat) : Bool :=
  let el := g.viewOf g.start p e
  (g.gateReady p e).isNone && el.usedSlots.all fun j => match el.ruleAt j with
    | some i => (match ruleInfo i with | some r => !g.slotReady p e el i r j | none => true)
    | none => true

/-- R88: a token is resident in an arc, a crossing FIFO or the pass buffer. -/
def Core.anyToken (c : Core) : Bool :=
  !c.parkd.isEmpty || c.xin.any (fun q => !q.isEmpty) ||
  c.stripes.any fun st => st.elems.any fun el => (el.inq ++ el.oq).any fun q => q.any fun x => match x with
    | .tok _ => true
    | .rsv _ => false

/-- A request of the wharf with a number waits: in its chain, parked, or in the repair queue. -/
def Wharf.waits (w : Wharf) (no : Nat) : Bool :=
  w.chains.any (fun c => c.any fun q => q.no == no) || w.parked.any (fun q => q.no == no) ||
  w.rq.any fun e => match e with | some x => x.req.no == no | none => false

/-- R88, R208, R269, R282: the wharf has a request outstanding: one that has issued and not been performed or answered, or one that
the repair queue holds for a re-latch. A parked acquire and a request held for order are not. -/
def Wharf.outstanding (w : Wharf) : Bool :=
  !w.atoms.isEmpty || !w.fly.isEmpty || w.pend.any (fun x => !w.waits x.no) ||
  w.rq.any fun e => match e with | some x => x.cause == 1 | none => false

/-- R212, R376: a mailbox input port of the segment waits for an observation. -/
def Seg.mbxWaiting (g : Seg) : Bool :=
  (g.ports.zip g.image.streams).any fun x =>
    x.2.kind == 1 && x.2.dir == 0 && x.1.tok == 0 && decide (x.1.run < g.runsDealt) &&
      (match g.runs.find? fun r => r.no == x.1.run with | some r => decide (x.1.inv < r.count) | none => false)

/-- R80: the next pair of the sequence is one that the ring will hold: its run is dealt, or is the next one of a task with records
left to deal. -/
def State.nextWanted (s : State) (n : Nat) (g : Seg) : Bool :=
  decide (g.nextRun < g.runsDealt) ||
  (g.nextRun == g.runsDealt && match (s.isle n).hb.task g.task with | some t => !t.dealt && decide (t.next < t.card.argn) | none => false)

/-- R80, R82, R88: the ring fetches the image of the next pair, or a state record is being saved or put back. -/
def State.configuring (s : State) (n k : Nat) (g : Seg) : Bool :=
  (g.scrolls && s.nextWanted n g && !((s.isle n).ring k).cache.contains (g.task, g.nextVs)) ||
  (List.range g.start.stripes.length).any fun p => (g.saveDue p).isSome || ((g.start.stripe p).stg && !(g.start.stripe p).saved)

/-- R88: work of the segment is outstanding, or parked tokens or kept tokens replay. -/
def State.working (s : State) (n k : Nat) (g : Seg) : Bool :=
  s.configuring n k g ||
  g.start.stripes.any (fun st => st.wharf.outstanding) ||
  (s.isle n).ferry.copies.any (fun c => c.2.seg == some g.id.toNat) ||
  (s.isle n).ops.any (fun o => o.2.seg == g.id.toNat && o.2.status.isNone) ||
  g.mbxWaiting || !g.replaying.isEmpty ||
  g.start.stripes.any (fun st => decide (0 < st.hold)) ||
  g.start.parkd.any fun x => g.start.stripes.any fun st => st.res && st.vs == x.vs && st.run == x.src

/-- R88: the counter after a cycle in state `g`. -/
def State.endStall (s : State) (n k : Nat) (g : Seg) : State :=
  if g.activeElems.all (fun x => g.elemQuiet x.1 x.2) && g.start.anyToken && !s.working n k g then
    s.onSeg n k fun h => { h with stall := g.stall + 1 }
  else s.onSeg n k fun h => { h with stall := 0 }

/-- R88: the counter has reached STALLT and the fault is not yet raised. -/
def Seg.stallDue (g : Seg) (lim : Nat) : Bool := decide (lim ≤ g.stall) && !g.stopped && g.recs.all fun r => r.kind != 5

/-! ## The clock -/

/-- Run `no` has been dealt and has invocation `j`. -/
def Seg.dealt (g : Seg) (no j : Nat) : Bool := g.runs.any fun r => r.no == no && decide (j < r.count)

/-- R450: the breakpoint entries that arm a stop on the stripes of a segment. -/
def armOf (b : Bp) (i : Nat) (g : Seg) (st : Stripe) : Option Arm :=
  if b.en && b.seg == g.id.toNat && b.vs == st.vs && st.res then
    match st.elems.find? fun el => el.on with
    | none => none
    | some e0 =>
      let run := st.elems.foldl (fun acc el => if el.on then min acc el.erun else acc) e0.erun
      let ord := st.elems.foldl (fun acc el => if el.on && el.erun == run then min acc el.ord.toNat else acc) (2 ^ 32)
      let j := if b.any then ord else if b.byarg then b.inv - g.argix run 0 else b.inv
      if (b.byarg && !b.any && b.inv < g.argix run 0) || j < ord || !g.dealt run j then none else some ⟨run, j, 2, i⟩
  else none

/-- R400, R414: what becomes of an arm once its stripe has passed the END of its run without its invocation: one of BRK stands for
that ordinal of the next run, and a debugger's is armed anew (log 34). -/
def Seg.rollArm (g : Seg) (st : Stripe) (a : Arm) : Option Arm :=
  if !g.hasInv a.run a.ord && st.elems.all fun el => !el.on || decide (a.run < el.erun) then
    (if a.cause = 1 then some { a with run := a.run + 1 } else none)
  else some a

/-- The first arm of a list by invocation; the earlier in the list on a tie. -/
def firstArm (l : List Arm) : Option Arm :=
  match l with
  | [] => none
  | a :: r => some (r.foldl (fun x y => if y.before x then y else x) a)

/-- R450: the arm of a stripe at the end of a cycle. One held by an entry that is no longer enabled lapses. An entry arms where the
stripe holds no arm, or one of BRK for an invocation that is not earlier. -/
def Seg.nextArm (g : Seg) (bps : List Bp) (st : Stripe) : Option Arm :=
  let held := (st.arm.bind (g.rollArm st)).filter fun a => a.cause == 1 || (nth default bps a.bp).en
  let want := firstArm ((List.range bps.length).filterMap fun i => armOf (nth default bps i) i g st)
  match held, want with
  | some a, some b => if a.cause = 1 && !a.before b then some b else some a
  | some a, none => some a
  | none, w => w

/-- R450: debugger arms set. -/
def State.armBps (s : State) (n k : Nat) : State :=
  let bps := (s.isle n).bps
  s.onSeg n k fun g => g.onLive fun c => { c with stripes := c.stripes.map fun st => { st with arm := g.nextArm bps st } }

/-- R330: at the end of a cycle in which every input port has finished its invocation, a segment being pre-empted stops. -/
def Seg.portsRest (g : Seg) (pt : Nat) : Seg :=
  if g.halt == .preempting && g.frz.isNone && (g.ports.zip g.image.streams).all fun x => x.2.dir == 1 || !x.1.begun then
    { g with halt := .saving, stopPt := pt }
  else g

/-- R212: the stream entries of a segment whose mailbox's action queue is full. -/
def Isle.fullPorts (i : Isle) (g : Seg) : List Nat :=
  (List.range g.image.streams.length).filter fun j =>
    let x := nth default g.image.streams j
    x.kind == 1 && x.dir == 1 && decide (32 ≤ (i.mailbox x.idx).act.length)

def State.member (s : State) (n : Nat) : Member := (s.panel, n)
def Isle.memb (i : Isle) (sys : Bool) : Memb := if sys then i.sview else i.pview
def State.memb (s : State) (n : Nat) (sys : Bool) : Memb := (s.isle n).memb sys

/-- R309: the code of a membership state. -/
def MState.code : MState → Nat
  | .stable => 0
  | .proposing => 1
  | .prepared => 2
  | .isolated => 3
  | .joining => 4

/-- R288: a member's rank in a view, 0 when it is none. -/
def Memb.rank (m : Memb) (x : Member) : Nat := (findIdx (· == x) m.members).getD 0

/-- A mask of numbers. -/
def maskOf (l : List Nat) : Nat := (dedup l).foldl (fun acc x => acc + 2 ^ x) 0

/-- R309: the lanes of VGET. -/
def State.vgetLanes (s : State) (n : Nat) (g : Seg) : Lanes :=
  let p := s.memb n false
  let y := s.memb n true
  let w := fun (x : Nat) => BitVec.ofNat 32 x
  let pm := maskOf (p.members.map (·.2))
  let sm := maskOf (y.members.map (·.1))
  Lanes.ofList [w p.num, w p.st.code, w p.members.length, w (p.rank (s.member n)), lo32 pm, hi32 pm, w g.ackP, 0,
    w y.num, w y.st.code, w y.members.length, w (y.rank (s.member n)), lo32 sm, hi32 sm, w g.ackS, 0]

/-- The spare of physical stripe `p` of a ring. -/
def Ring.spare (r : Ring) (p : Nat) : Spare := nth default r.spares p
/-- R441: shadowing is on for the stripe. -/
def State.shadows (s : State) (n k p : Nat) : Bool := !(s.isle n).cont.spareOff && !(((s.isle n).ring k).spare p).off
/-- The configured elements of the stripe on `p`. -/
def Seg.usedElems (g : Seg) (p : Nat) : List Nat := (List.range 16).filter fun e => (g.live.elem p e).on

/-- R4, R212, R309, R416: what the coming cycle finds of the action queues, of the views and of panel time. -/
def State.noteStart (s : State) (n k : Nat) : State :=
  s.onSeg n k fun g => { g with full := (s.isle n).fullPorts g, vlanes := s.vgetLanes n g, cpt := s.pt }

/-- R418: the invocations that the segment's input ports still deliver: every one up to the highest any has begun. -/
def Seg.cutRuns (g : Seg) : Seg :=
  let top := g.runsDealt - 1
  let begun := ((g.ports.zip g.image.streams).filter fun x => x.2.dir == 0 && x.1.run == top).foldl
    (fun acc x => max acc (x.1.inv + x.1.begun.toNat)) 0
  { g with runs := g.runs.map fun r => if r.no = top then { r with count := min r.count begun } else r
           noMore := true, halted := true, halting := false }

/-- R418: the end of a cycle in which HALT has fired: the segment's task is dealt no further run, and its undealt records count as
processed. -/
def State.endHalt (s : State) (n k : Nat) : State :=
  match s.seg n k with
  | some g =>
    if g.halting then (s.onSeg n k Seg.cutRuns).onHarbour n fun h => h.onTask g.task fun x => { x with dealt := true } else s
  | none => s

/-- R438: the stripe has passed an EOI since the verdict. -/
def Spare.eoiSeen (x : Spare) : Bool := decide (0 < x.eois)

/-- R438: the spare of stripe `p` replaces an element in this cycle. -/
def State.replaceDue (s : State) (n k p : Nat) : Bool :=
  let x := ((s.isle n).ring k).spare p
  x.due.isSome && x.spent.isNone && x.eoiSeen && match s.seg n k with | some g => !g.clockHeld | none => false

/-- R436: the spare of stripe `p` moves in this cycle: its stripe has passed SPAREINT EOI markers. -/
def State.spareDue (s : State) (n k p : Nat) : Bool :=
  let x := ((s.isle n).ring k).spare p
  match s.seg n k with
  | some g => s.shadows n k p && x.spent.isNone && x.due.isNone && decide (2 ≤ (g.usedElems p).length) &&
      decide ((s.isle n).cont.spareInt ≤ x.eois) && !g.clockHeld
  | none => false

/-- R310: the view numbers acknowledged in a cycle take effect at its end. -/
def Seg.endAcks (g : Seg) : Seg := { g with ackP := g.nackP.getD g.ackP, ackS := g.nackS.getD g.ackS, nackP := none, nackS := none }

/-- The end of a cycle of the ring of the step. A stopped segment only sees the fabric cycle pass; a cycle that still
owes work, or before which a stop falls, does not end. -/
def State.clock (s : State) : State :=
  let n := s.cur.n
  let k := s.cur.k
  match s.seg n k with
  | none => s
  | some g =>
    if g.stopped || g.halt == .saving || g.halt == .cut then ((s.endCrossings n k g).onSeg n k fun h => { h with wck := h.wck + 1 }).noteStart n k
    else if g.clockHeld || !g.cycleDone || g.stallDue (2 ^ ((s.isle n).ring k).log2t) ||
        (List.range g.live.stripes.length).any (fun p => s.spareDue n k p || s.replaceDue n k p) then s
    else
      let s := g.activeElems.foldl (fun s x => (s.traceLate n k g x.1 x.2).checkFails n g x.1 x.2) s
      let s := s.charge n g.tenant 0 (((s.isle n).ring k).stripes * 16)
      let s := s.onSeg n k fun h => (h.markerFaults s.pt).endElems.endHolds.endAcks
      let s := s.endCrossings n k g
      let s := s.endFences n k (s.segD n k)
      let s := ((s.endStall n k g).armBps n k).endHalt n k
      (s.onSeg n k fun h => ({ h with start := h.live, sck := h.sck + 1, wck := h.wck + 1 } : Seg).portsRest s.pt).noteStart n k

end Sys2Proof.Machine
end

