-- ==== Sys2Proof/Machine/HarbourOps.lean ====
section
/-! DEFINITION. What the harbour does for others: messages to other isles, semaphores, fault records and the handler's ring,
page requests, interrupts, and the end of a segment (R319 to R321, R325, R334, R340, R371, R393 to R397). -/

namespace Sys2Proof.Machine

/-! ## Messages between isles -/

def State.postFlit (s : State) (f : Flit) : State := { s with net := s.net ++ [f] }
/-- An isle of this panel is in the panel view of isle `n`. -/
def State.inView (s : State) (n m : Nat) : Bool := (s.isle n).pview.members.contains (s.member m)
/-- A harbour-to-harbour message. -/
def State.harbourMsg (s : State) (n m : Nat) (b : Payload) : State :=
  s.postFlit ⟨s.member n, s.member m, false, (s.isle n).pview.num, b⟩

/-! ## Semaphores (R320, R321) -/

def semIsle (name : Nat) : Nat := fld name 8 6
def semIdx (name : Nat) : Nat := name % 256

/-- R320: the tenant may use the semaphore. -/
def Harbour.semAllowed (h : Harbour) (idx tenant : Nat) : Bool :=
  let o := (nth 0 h.own idx).toNat
  fld o 0 6 == tenant || bitN o 6

/-- R321: a change of one semaphore at its own harbour; watches whose condition now holds are answered. -/
def State.semChange (s : State) (n idx : Nat) (f : W64 → W64) : State :=
  let h := (s.isle n).hb
  let v := f (nth 0 h.sem idx)
  let (sat, left) := h.watches.partition fun w => w.idx == idx && w.v.ule v
  let s := s.onHarbour n fun h => { h with sem := upd (fun _ => v) h.sem idx, watches := left }
  sat.foldl (fun s w => s.harbourMsg n w.isle (.semAns w.q w.id true true)) s

/-- R320: a refused change: an error record that names the semaphore and the tenant. -/
def State.semRefused (s : State) (n idx tenant : Nat) : State := s.postErr n 9 0 0 (n * 256 + idx + tenant * 2 ^ 16)

/-- R320: a completion's change, checked where it arrives. -/
def State.semArrive (s : State) (n idx tenant : Nat) (add : W64) : State :=
  if (s.isle n).hb.semAllowed idx tenant then s.semChange n idx (· + add) else s.semRefused n idx tenant

/-- R320, R325: a completion's change sent to the semaphore it names; 0xFFFF names none. -/
def State.semSignal (s : State) (n tenant name add : Nat) : State :=
  if name = 0xFFFF then s
  else if semIsle name = n then s.semArrive n (semIdx name) tenant (BitVec.ofNat 64 add)
  else s.harbourMsg n (semIsle name) (.sem 4 0 0 (semIdx name) (BitVec.ofNat 64 add) tenant)

/-! ## Interrupts and page requests (R334, R340) -/

/-- An address in the host memory behind a bridge (R270). -/
def hostPa (b a : Nat) : Nat := (b + 1) * 2 ^ 46 + a % 2 ^ 46
def State.port (s : State) (p : Nat) : LinkPort := nth default s.ports p
/-- The bridge is present: its port is trained and faces a Nytin Bridge. -/
def State.bridgeUp (s : State) (b : Nat) : Bool := (s.port b).up && (s.port b).bridge

/-- R340: a message through a bridge, or the count of one that is absent. -/
def State.sendIrq (s : State) (b v : Nat) : State :=
  if s.bridgeUp b then { s with irqs := s.irqs ++ [(b, v)] }
  else { s with ports := upd (fun p => { p with irqdrop := BitVec.ofNat 32 (satAdd (2 ^ 32 - 1) p.irqdrop.toNat 1) }) s.ports b }

/-- R334: the bytes of a page request. -/
def PageReq.bytes (q : PageReq) (n : Nat) : List Byte :=
  leBytes 4 (n + q.tenant * 2 ^ 6 + q.kind * 2 ^ 12 + q.write.toNat * 2 ^ 14) ++ leBytes 4 q.who ++ leBytes 8 q.va

/-- R334: a page request posted; false when the ring is full. -/
def State.prqWrite (s : State) (n : Nat) (q : PageReq) : State × Bool :=
  let h := (s.isle n).hb
  let size := 2 ^ h.prqLog2n
  if (h.prqTail + 1) % size = h.prqHead then (s, false)
  else
    let s := s.setBytes (hostPa h.prqBridge (h.prqBase + 16 * h.prqTail)) (q.bytes n)
    let s := if h.prqTail = h.prqHead then s.sendIrq h.prqBridge h.prqVec else s
    (s.onHarbour n fun h => { h with prqTail := (h.prqTail + 1) % size }, true)

/-- Held page requests posted in order while the ring has space. -/
def State.prqDrain (s : State) (n : Nat) : List PageReq → State
  | [] => s.onHarbour n fun h => { h with prqHeld := [] }
  | q :: r => match s.prqWrite n q with
    | (s', true) => s'.prqDrain n r
    | (s', false) => s'.onHarbour n fun h => { h with prqHeld := q :: r }

/-- R334: a page request behind those that wait. -/
def State.pageRequest (s : State) (n : Nat) (q : PageReq) : State := s.prqDrain n ((s.isle n).hb.prqHeld ++ [q])

/-! ## The isle's skerry caches (R240) -/

def skLine (pa : Nat) : Nat := pa / 64 * 64
def Isle.skFind (i : Isle) (pa : Nat) : Option SkLine := i.sk.find? fun l => l.pa == skLine pa
/-- A byte as the harts of an isle see it. -/
def State.skByte (s : State) (n pa : Nat) : Byte :=
  match (s.isle n).skFind pa with
  | some l => nth 0 l.data (pa % 64)
  | none => s.byte pa
def State.skNum (s : State) (n pa len : Nat) : Nat := ofLe ((List.range len).map fun i => s.skByte n (pa + i))
/-- Lines of a range taken out of the isle's skerry caches. -/
def State.skDrop (s : State) (n pa len : Nat) : State :=
  s.onIsle n fun i => { i with sk := i.sk.filter fun l => !(decide (skLine pa ≤ l.pa) && decide (l.pa < pa + len)) }

/-- A line of the isle's skerry caches written back; it stays valid and clean. -/
def State.skClean (s : State) (n line : Nat) : State :=
  match (s.isle n).sk.find? fun l => l.pa == line * 64 with
  | some l =>
    if l.dirty then
      (s.perform (cellsAt l.pa l.data)).onIsle n fun i => { i with sk := i.sk.map fun x => if x.pa = line * 64 then { x with dirty := false } else x }
    else s
  | none => s

/-- A line written back when dirty and taken out of the caches. -/
def State.skInv (s : State) (n pa : Nat) : State := (s.skClean n (pa / 64)).skDrop n (skLine pa) 64

/-! ## Fault records (R371, R393 to R397) -/

/-- R394: the 64 bytes of a record; a VIEW record has the layout of R305. -/
def Rec.bytes (r : Rec) (seq fck : Nat) : List Byte :=
  if r.kind = 0 then r.view.flatMap (leBytes 4)
  else
    leBytes 4 (r.cause % 256 + r.cont.toNat * 2 ^ 8 + r.pois.toNat * 2 ^ 9 + r.frz.toNat * 2 ^ 10 + r.kind * 2 ^ 24) ++
    leBytes 4 seq ++ leBytes 8 r.pt ++ leBytes 4 r.seg ++ leBytes 2 r.vs ++ leBytes 1 r.elem ++ leBytes 1 r.slot ++
    leBytes 4 r.ord ++ leBytes 4 r.argix ++
    leBytes 4 (r.lmask.toNat + r.flags.toNat * 2 ^ 16 + r.chain * 2 ^ 22 + r.sz * 2 ^ 24) ++ leBytes 4 0 ++
    leBytes 8 (if r.frz then fck else 0) ++ leBytes 8 r.d0 ++ leBytes 8 r.d1

/-- R396: the continuation record. -/
def Rec.contBytes (r : Rec) : List Byte :=
  laneNums.flatMap fun k => leBytes 4 (if tb r.lmask k then (r.addr.get k).toNat else 0xFFFFFFFF)

/-- The slots of the handler ring that a record takes. -/
def Rec.blocks (r : Rec) (seq fck : Nat) : List (List Byte) :=
  if r.cont then [r.bytes seq fck, r.contBytes] else [r.bytes seq fck]

/-- R371: the physical address of the record ring of tenant `t` on isle `n`. -/
def State.ringPa (s : State) (n t : Nat) : Option Nat := (s.walk t ((s.isle n).handler t).data).map (·.pa)

/-- R371: HEAD as the harbour reads it. -/
def State.ringHead (s : State) (n t : Nat) : Nat := match s.ringPa n t with | some b => s.skNum n b 4 | none => 0xFFFFFFFF

/-- R371, R396: the ring takes `k` more records. -/
def State.ringRoom (s : State) (n t k : Nat) : Bool :=
  let hd := s.ringHead n t
  decide (hd ≤ 62) && (List.range k).all fun i => (((s.isle n).handler t).tail + 1 + i) % 63 != hd

/-- R371: PEND of tenant `t`. -/
def State.ringPend (s : State) (n t : Nat) : Bool :=
  let h := (s.isle n).handler t
  let hd := s.ringHead n t
  h.en && decide (hd ≤ 62) && hd != h.tail

/-- R371: one slot of the ring written, then TAIL; the lines they stand in leave the skerry caches, written back first when
dirty (log 11). -/
def State.ringPut (s : State) (n t : Nat) (bs : List Byte) : State :=
  match s.ringPa n t with
  | none => s
  | some b =>
    let tl := ((s.isle n).handler t).tail
    let s := (s.skInv n (b + 0x40 + 64 * tl)).write t (b + 0x40 + 64 * tl) bs
    let tl := (tl + 1) % 63
    let s := (s.skInv n b).write t (b + 4) (leBytes 4 tl)
    s.onHandler n t fun h => { h with tail := tl }

/-- R392: the kinds that stop their segment. -/
def kindStops (k : Nat) : Bool := (1 ≤ k && k ≤ 7) || (9 ≤ k && k ≤ 0xB)

/-! ## The end of a segment -/

/-- A task marked failed: the first failure gives its status, and it is dealt no further run (R325). -/
def State.failTask (s : State) (n no status : Nat) : State :=
  s.onHarbour n fun h => h.onTask no fun t => { t with status := some (t.status.getD status), dealt := true }

/-- R376: the mailbox bindings of a segment released. -/
def Mbx.release (m : Mbx) (seg : Nat) : Mbx :=
  let gone := fun (x : Option (Nat × Nat)) => match x with | some b => b.1 == seg | none => false
  { m with cur := if gone m.cur then none else m.cur, next := if gone m.next then none else m.next }

/-- A segment taken off: its bindings and its crossings at their other ends. -/
def State.unplace (s : State) (n k : Nat) (g : Seg) : State :=
  let s := s.onIsle n fun i => { i with mbx := i.mbx.map fun m => m.release g.id.toNat }
  let s := (g.joined.map fun x => nth default g.image.chans x).foldl (fun s x =>
    s.onSeg x.isle x.ring fun h => { h with joined := h.joined.filter fun y =>
      !((nth default h.image.chans y).isle == n && (nth default h.image.chans y).ring == k) }) s
  s.onHarbour n fun h => { h with tasks := h.tasks.map fun t => if t.no = g.task then { t with runsOut := t.runsOut - 1 } else t }

/-- R319: the first byte of a context slot. -/
def State.slotPa (s : State) (n slot : Nat) : Nat := paOf n ((s.isle n).hb.ctxBase + 2 ^ 25 * slot)

/-- R248: what stripe `p` of the ring of the step has issued is performed: stores on their way, the lanes of updates that meet no
cause, and the write-combine buffer. -/
def State.settleStripe (s : State) (p : Nat) : State :=
  let n := s.cur.n
  let k := s.cur.k
  let w := s.wharf p
  let s := (w.fly.filter fun f => f.req.op.isStore).foldl (fun s f => f.left.foldl (fun s l => s.writeLine p f l) s) s
  let s := w.atoms.foldl (fun s a =>
    let g := s.segD n k
    let ftz := fun (i : Nat) => match (g.lanePa n a.req i).bind (g.ownerAt n) with | some o => (nth default g.image.owners o).ftz | none => false
    laneNums.foldl (fun s i => if tb a.lmask i && s.laneCause n k a.req i == 0 then (s.applyLane n k (ftz i) a i).1 else s) s) s
  s.drainWharf p

/-- R248: every request that the segment of a ring has issued is performed, and its buffers drained, before it leaves the ring with
its task's end ahead. -/
def State.settle (s : State) (n k : Nat) : State :=
  let cur := s.cur
  let s := (List.range (s.segD n k).live.stripes.length).foldl State.settleStripe { s with cur := { cur with n := n, k := k } }
  { s with cur := cur }

/-- The segment of a ring ended; the ring is free. -/
def State.endSeg (s : State) (n k : Nat) : State :=
  match s.seg n k with
  | some g => (s.unplace n k g).onRing n k fun r => { r with seg := none }
  | none => s

/-- R390, R393: a segment killed: it ends and its task ends KILLED. -/
def State.killSeg (s : State) (n k : Nat) : State :=
  match s.seg n k with
  | some g => ((s.settle n k).endSeg n k).failTask n g.task 2
  | none => s

/-- The ring of an isle that holds the segment with an id. -/
def State.ringOf (s : State) (n id : Nat) : Option Nat :=
  findIdx (fun (r : Ring) => match r.seg with | some g => g.id.toNat == id | none => false) (s.isle n).rings

/-- R393, R486: a record that no handler takes: to the error log (its kind and cause in DETAIL, log 24), and its segment
killed when the kind stops it. -/
def State.recToLog (s : State) (n kind cause seg addr : Nat) : State :=
  let s := s.postErr n 1 seg addr (kind + cause * 256)
  if kindStops kind then (match s.ringOf n seg with | some k => s.killSeg n k | none => s) else s

/-- R397: two held VIEW records of one segment and scope as one. -/
def mergeView (a b : List Nat) (nops : Nat) : List Nat :=
  let w := fun (l : List Nat) (i : Nat) => nth 0 l i
  let ids := ((a.drop 10).take (w a 0 / 256)) ++ ((b.drop 10).take (w b 0 / 256))
  [w a 0 % 256 + nops * 256, w a 1, w b 2, 0] ++ ([4, 5, 6, 7, 8, 9].map fun i => w a i ||| w b i) ++
  [0, 1, 2, 3, 4, 5].map fun i => nth 0 ids i

/-- R397: a held record that a VIEW record merges into. -/
def Rec.mergesWith (a b : Rec) : Bool :=
  a.kind == 0 && b.kind == 0 && a.seg == b.seg && nth 0 a.view 0 % 2 == nth 0 b.view 0 % 2

/-- R305: NOPS of a record that counts `n` operations; the spec states no value for a count above its eight bits (log 12). -/
def State.nops (s : State) (n : Nat) : Nat × State :=
  if n < 256 then (n, s) else ((Config.freeWord s.free).toNat % 256, s.takeFree)

/-- R371, R397: a record that finds its ring full waits, a VIEW record in the one it merges with. -/
def State.holdRec (s : State) (n t : Nat) (r : Rec) (fck : Nat) : State :=
  match ((s.isle n).handler t).held.find? fun x => x.1.mergesWith r with
  | some x =>
    let (k, s) := s.nops (nth 0 x.1.view 0 / 256 + nth 0 r.view 0 / 256)
    s.onHandler n t fun h => { h with held := h.held.map fun y =>
      if y.2.1 = x.2.1 then ({ y.1 with view := mergeView y.1.view r.view k }, y.2) else y }
  | none =>
    let seq := (s.isle n).hb.recSeq.toNat
    (s.onHarbour n fun h => { h with recSeq := h.recSeq + 1 }).onHandler n t fun h => { h with held := h.held ++ [(r, seq, fck)] }

/-- R371, R396: a record with its continuation written to the ring. -/
def State.ringRec (s : State) (n t : Nat) (r : Rec) (seq fck : Nat) : State :=
  (r.blocks seq fck).foldl (fun s b => s.ringPut n t b) s

/-- R371, R393, R397: a record posted for tenant `t` on isle `n`. -/
def State.postRec (s : State) (n t : Nat) (r : Rec) (fck : Nat) : State :=
  let h := (s.isle n).handler t
  if !h.en then s.recToLog n r.kind r.cause r.seg (if r.kind = 7 then r.d0 else 0)
  else if h.held.isEmpty && s.ringRoom n t (r.blocks 0 fck).length then
    let seq := (s.isle n).hb.recSeq.toNat
    (s.onHarbour n fun h => { h with recSeq := h.recSeq + 1 }).ringRec n t r seq fck
  else s.holdRec n t r fck

/-! ## Stopping and restarting a segment (R398, R402) -/

/-- A segment stopped before its cycle `sck`; a pre-emption that waits is abandoned (R401). -/
def Seg.stop (g : Seg) (cmt : Bool) (dck kind nrec pt : Nat) (first : List Byte) : Seg :=
  { g with stopped := true, cmt := cmt, frz := none, fck := g.sck - 1, dck := dck, kind := kind, nrec := nrec,
           first := first, stopPt := pt, halt := if g.halt == .preempting then .none else g.halt }

/-- R401: a start of a count moved on by the part of a stand, from `stop` to `now`, that fell after it. -/
def laterBy (stop now t : Nat) : Nat := t + (now - max stop t)

/-- R401: the timers of a segment's work, moved on by the time they did not advance. -/
def Copy.later (seg stop now : Nat) (c : Copy) : Copy :=
  if c.seg == some seg then
    { c with sincePt := laterBy stop now c.sincePt, got := c.got.map fun x => { x with at_ := laterBy stop now x.at_ } }
  else c
def CollOp.later (seg stop now : Nat) (o : CollOp) : CollOp := if o.seg == seg then { o with since := laterBy stop now o.since } else o

/-- R401: the counts of copies and operations of the segment that did not advance while it stood, moved on. -/
def State.resumeTimers (s : State) (n : Nat) (g : Seg) : State :=
  s.onIsle n fun i =>
    { i with
      ferry := { i.ferry with copies := i.ferry.copies.map fun c => (c.1, c.2.later g.id.toNat g.stopPt s.pt) }
      ops := i.ops.map fun o => (o.1, o.2.later g.id.toNat g.stopPt s.pt) }

/-- R200: requests held with a fault are checked again. -/
def Wharf.recheck (w : Wharf) : Wharf :=
  { w with chains := w.chains.map fun l => l.map fun q => { q with held := false } }

/-- R11, R17, R439: a segment returns to a ring that has fewer stripes than its window was made for: the loss is found again, as it
was when the stripe failed (log 52). -/
def State.windowLost (s : State) (n k : Nat) : State :=
  let r := (s.isle n).ring k
  match r.seg with
  | some g =>
    if r.stripes < g.live.stripes.length then
      let p := r.lost.getLastD 0
      s.onSeg n k fun g => g.detect { Rec.blank with kind := 7, cause := 7, pt := s.pt, vs := (g.live.stripe p).vs, d0 := p }
    else s
  | none => s

/-- R88, R402: the clock of a stopped segment restarted from the cycle after its last. -/
def State.resumeSeg (s : State) (n k : Nat) : State :=
  match s.seg n k with
  | some g =>
    (s.resumeTimers n g).onSeg n k fun g =>
      let c := { g.live with stripes := g.live.stripes.map fun st => { st with wharf := st.wharf.recheck } }
      { g with stopped := false, cmt := false, frz := none, recs := [], stall := 0, live := c, start := c, cmd := false }
  | none => s

end Sys2Proof.Machine
end

