-- ==== Sys2Proof/Machine/Ferry.lean ====
section
/-! DEFINITION. The ferry and barrier instructions, majors 0x74 and 0x75, the life of a copy, barrier objects, and the host
page counters (R220, R221, R271 to R286). -/

namespace Sys2Proof.Machine

/-! ## Firing (R283, R285) -/

/-- A copy rule: the descriptor register, then the object's address; the id goes to D. -/
def State.fireCopy (s : State) (t : BitVec 6) (f : Nat) (o : FmtCpy) : State :=
  s.fireReqF t [rdV o.a, rd o.b false] (.cpy f) fun vs q =>
    { q with data := (nth default vs 0).lanes, dpois := (nth default vs 0).pois, addr := (nth default vs 1).lanes,
             apois := (nth default vs 1).pois, dest := destOf o.d.toNat }

/-- CPY1 (R274). -/
def execCpy1 (t : BitVec 6) (o : FmtCpy) (s : State) : Res := .next (s.fireCopy t 0 o)

/-- CPY2 (R274). -/
def execCpy2 (t : BitVec 6) (o : FmtCpy) (s : State) : Res := .next (s.fireCopy t 1 o)

/-- CPYG (R274). -/
def execCpyg (t : BitVec 6) (o : FmtCpy) (s : State) : Res := .next (s.fireCopy t 2 o)

/-- CPYS (R274). -/
def execCpys (t : BitVec 6) (o : FmtCpy) (s : State) : Res := .next (s.fireCopy t 3 o)

/-- CPYF (R274). -/
def execCpyf (t : BitVec 6) (o : FmtCpy) (s : State) : Res := .next (s.fireCopy t 4 o)

/-- CPYX (R284). -/
def execCpyx (t : BitVec 6) (o : FmtDA) (s : State) : Res :=
  .next (s.fireReqF t [rd o.a false] .cpyx fun vs q =>
    { q with data := (nth default vs 0).lanes, dpois := (nth default vs 0).pois, dest := destOf o.d.toNat })

/-- A barrier rule: the object's address and, for BINIT and BEXP, a value. -/
def State.fireBarrier (s : State) (t : BitVec 6) (op : ReqOp) (d a : BitVec 5) (b : Option (BitVec 5)) : State :=
  s.fireReqF t (rd a false :: (match b with | some x => [rd x false] | none => [])) op fun vs q =>
    { q with addr := (nth default vs 0).lanes, apois := (nth default vs 0).pois,
             data := (match b with | some _ => (nth default vs 1).lanes | none => Lanes.zero),
             dpois := (match b with | some _ => (nth default vs 1).pois | none => false), dest := destOf d.toNat }

/-- BINIT (R282). -/
def execBinit (t : BitVec 6) (o : FmtDAB) (s : State) : Res := .next (s.fireBarrier t .binit o.d o.a (some o.b))

/-- BARV (R282). -/
def execBarv (t : BitVec 6) (o : FmtDA) (s : State) : Res := .next (s.fireBarrier t .barv o.d o.a none)

/-- BEXP (R282). -/
def execBexp (t : BitVec 6) (o : FmtDAB) (s : State) : Res := .next (s.fireBarrier t .bexp o.d o.a (some o.b))

/-- BWAIT (R282). -/
def execBwait (t : BitVec 6) (o : FmtDA) (s : State) : Res := .next (s.fireBarrier t .bwait o.d o.a none)

/-! ## Barrier objects (R280 to R282) -/

/-- R280: the fields of a barrier object. -/
structure BObj where
  pend : W64
  count : W
  remain : W
  phase : W
  infl : W16
  fault : Bool
  err : Bool
  fseen : Bool
  nfault : W16
  deriving DecidableEq, Repr, Inhabited

def State.bobj (s : State) (pa : Nat) : BObj :=
  let st := s.num (pa + 0x14) 4
  ⟨BitVec.ofNat 64 (s.num pa 8), BitVec.ofNat 32 (s.num (pa + 8) 4), BitVec.ofNat 32 (s.num (pa + 12) 4),
   BitVec.ofNat 32 (s.num (pa + 16) 4), BitVec.ofNat 16 st, bitN st 16, bitN st 17, bitN st 18,
   BitVec.ofNat 16 (s.num (pa + 0x18) 2)⟩

def BObj.bytes (b : BObj) : List Byte :=
  leBytes 8 b.pend.toNat ++ leBytes 4 b.count.toNat ++ leBytes 4 b.remain.toNat ++ leBytes 4 b.phase.toNat ++
  leBytes 4 (b.infl.toNat + b.fault.toNat * 2 ^ 16 + b.err.toNat * 2 ^ 17 + b.fseen.toNat * 2 ^ 18) ++
  leBytes 4 b.nfault.toNat ++ leBytes 4 0

/-- R280: the first poisoned granule of an object. -/
def State.objPois (s : State) (pa : Nat) : Option Nat := [pa, pa + 8, pa + 16, pa + 24].find? fun a => s.isPois a

/-- A change of an object at its bank. -/
def State.setObj (s : State) (tenant pa : Nat) (b : BObj) : State := s.write tenant pa b.bytes

/-- R280: a change that the ferry makes to an object; one that finds it poisoned is discarded with an error record. -/
def State.ferryObj (s : State) (tenant : Nat) (obj : Option Nat) (f : BObj → BObj) : State :=
  match obj with
  | none => s
  | some pa => match s.objPois pa with
    | some a => s.postErr (paIsle a) 4 0 a 0
    | none => s.setObj tenant pa (f (s.bobj pa))

/-- R281: the status token's lanes. -/
def BObj.status (b : BObj) (code : Nat) : Lanes :=
  Lanes.ofList [BitVec.ofNat 32 code, b.phase, lo32 b.pend.toNat, hi32 b.pend.toNat, b.infl.setWidth 32]

def BObj.code (b : BObj) : Nat := if b.err then 2 else if b.fseen then 1 else 0

/-- R282: BINIT, BEXP and BARV on an object: the object after it, its code, and BARV's arrival phase. -/
def BObj.apply (b : BObj) (op : ReqOp) (n : W) : BObj × Nat × Option W :=
  match op with
  | .binit =>
    if b.infl != 0 then (b, 3, none)
    else
      let b' := { b with count := n, remain := n, phase := 0, pend := 0, err := false, fseen := false }
      (b', b'.code, none)
  | .bexp => let b' := { b with pend := b.pend + n.setWidth 64 }; (b', b'.code, none)
  | .barv =>
    if b.count = 0 then (b, 4, none)
    else
      let b' := if b.remain - 1 = 0 then { b with remain := b.count, phase := b.phase + 1 } else { b with remain := b.remain - 1 }
      (b', b'.code, some b.phase)
  | _ => (b, b.code, none)

/-- R282: what BWAIT waits for. -/
def BObj.open_ (b : BObj) (pa : Nat) (rec_ : Option (Nat × W)) : Bool :=
  b.pend == 0 && !b.fault &&
  match rec_ with
  | none => true
  | some r => r.1 != pa || b.phase != r.2

/-- The physical address of the object that a request names. -/
def Seg.objPa (g : Seg) (n : Nat) (q : Req) : Option Nat :=
  match q.accesses with
  | a :: _ => g.accPa n a
  | [] => none

/-- A barrier reply at the bank ALU's latency (R269, R286). -/
def State.barrierReply (s : State) (p : Nat) (q : Req) (pa : Nat) (l : Lanes) : State :=
  let g := s.segD s.cur.n s.cur.k
  s.giveReply p q.no (dataTok l false q.seqv q.seq) (replyDue s.cur.k 14 22 g.wck [pa / 64])

/-- The status of a barrier rule whose lane 0 is skipped and so names no object: the lanes of R281 are free values, the
other lanes 0 (log 25). -/
def freeStatus (free : Nat) : Lanes :=
  Lanes.ofList ((List.range 5).map fun i => (Config.freeWord (free + i)).setWidth 32)

/-- R280 to R282: a barrier rule performed at its bank; a BWAIT whose condition does not hold parks. A skipped lane makes
no access, and the status it gives is open (log 25). -/
def State.performBarrier (s : State) (p : Nat) (q : Req) : State :=
  let g := s.segD s.cur.n s.cur.k
  match g.objPa s.cur.n q with
  | none =>
    { s with free := s.free + 5 }.giveReply p q.no (dataTok (freeStatus s.free) false q.seqv q.seq) (g.wck + 14)
  | some pa =>
    let b := s.bobj pa
    if q.op = .bwait then
      if b.open_ pa (nth none (s.wharf p).arr q.chain) then s.barrierReply p q pa (b.status b.code)
      else s.onWharf p fun w => { w with parked := w.parked ++ [q] }
    else
      let (b', code, arr) := b.apply q.op (q.data.get 0)
      let s := if 3 ≤ code then s else s.setObj g.tenant pa b'
      let s := match arr with
        | some ph => s.onWharf p fun w => { w with arr := upd (fun _ => some (pa, ph)) w.arr q.chain }
        | none => s
      s.barrierReply p q pa (b'.status code)

/-- BWAIT_WAKE (R280, R282): the parked BWAIT with request number `cur.j`. One that finds its object poisoned goes back to the head
of its chain, held by the fault (R199). -/
def execBwaitWake (s : State) : Res :=
  let p := s.cur.p
  let g := s.segD s.cur.n s.cur.k
  match (s.wharf p).parked.find? fun q => q.no == s.cur.j && q.op == .bwait with
  | some q => match g.objPa s.cur.n q with
    | some pa =>
      let s' := s.onWharf p fun w => { w with parked := w.parked.filter fun x => x.no != q.no }
      if g.stopped then .next s
      else match s.objPois pa with
        | some a =>
          .next ((s'.onWharf p fun w => { w with chains := upd (fun l => { q with held := true } :: l) w.chains q.chain }).onCurSeg fun x =>
            x.detect { g.reqRec s.pt p 7 2 q 0 with pois := true, d0 := a })
        | none =>
          if (s.bobj pa).open_ pa (nth none (s.wharf p).arr q.chain) then
            .next (s'.barrierReply p q pa ((s.bobj pa).status (s.bobj pa).code))
          else .next s
    | none => .next s
  | none => .next s

/-! ## The end of a copy (R277, R279, R284, R338) -/

def Ferry.copy (f : Ferry) (slot : Nat) : Option Copy := lookupN slot f.copies
def Ferry.onCopy (f : Ferry) (slot : Nat) (g : Copy → Copy) : Ferry :=
  { f with copies := f.copies.map fun c => if c.1 = slot then (c.1, g c.2) else c }

/-- R276: a copy id. -/
def copyId (slot gen : Nat) : Nat := slot + gen % 2 ^ 16 * 2 ^ 16

/-- The bytes landed. -/
def Copy.done (c : Copy) : Nat := c.landed.foldl (fun acc x => acc + x.2) 0

/-- R338: the end of a COPYQ copy, in error when `err` is not 0. -/
def State.endCopyq (s : State) (n : Nat) (c : Copy) (err : Nat) : State :=
  match c.queue with
  | none => s
  | some (qn, desc, donesem, failsem, add) =>
    let s := s.onQueue n qn fun q => { q with infl := q.infl - 1 }
    if err = 0 then s.semSignal n c.tenant donesem add
    else
      let s := s.onQueue n qn fun q => { q with taskCard := desc, taskStatus := 0x80 + err }
      if failsem = 0xFFFF then s.onQueue n qn fun q => { q with halt := true, wait := false, cause := 9, detail := 0x80 + err }
      else s.semSignal n c.tenant failsem 1

/-- A copy taken out of its slot. -/
def State.dropCopy (s : State) (n slot : Nat) (c : Copy) : State :=
  s.onFerry n fun f => { f with copies := f.copies.filter fun x => x.1 != slot
                                ended := f.ended ++ [(slot, c.gen, c.seg.getD 0)] }

/-- R278: a suspension lifted from an object. -/
def BObj.unsuspend (b : BObj) : BObj :=
  let k := b.nfault - 1
  { b with nfault := k, fault := k != 0 }

/-- R395: a record of a copy for its segment's handler; a copy of a queue has no segment and leaves none. -/
def State.copyRec (s : State) (n slot : Nat) (c : Copy) (kind cause : Nat) (side : Side) (va : Nat) : State :=
  match c.seg with
  | none => s
  | some seg =>
    let argix := match s.seg n c.ring with | some g => if g.id.toNat = seg then g.argix c.run c.ord else c.ord | none => c.ord
    let sd := match side with | .src => 0 | .dst => 1 | .idx => 2
    s.postRec n c.tenant { Rec.blank with
      kind := kind, cause := cause, frz := false, pt := s.pt, seg := seg, vs := c.vs, elem := c.elem, slot := c.slot, ord := c.ord,
      argix := argix, d0 := if cause = 8 then 0 else va, d1 := copyId slot c.gen + sd * 2 ^ 32 + c.tenant * 2 ^ 34 } 0

/-- R356: a chunk of a forward whose target has left the view: the forward is abandoned, with one error record. `key` marks its
action, `rec_` is its record index. -/
def State.forwardGone (s : State) (n key rec_ : Nat) : State :=
  let mine := fun (j : EdgeJob) => j.who * 2 + j.isQueue.toNat == key && j.rec_ == rec_
  if (s.isle n).hb.edge.any fun j => mine j && !j.gone then
    (s.postErr n 6 0 0 (rec_ + key / 2 * 2 ^ 8)).onHarbour n fun h => { h with edge := h.edge.map fun j => if mine j then { j with gone := true } else j }
  else s

/-- R279: a copy ended in error: what will never be written leaves PEND, INFL falls, ERR is set. The record index of a forward
stands in `vs`. -/
def State.endCopyErr (s : State) (n slot : Nat) (c : Copy) (cause : Nat) (side : Side) (va : Nat) : State :=
  let left := c.bytes - c.done
  let s := s.ferryObj c.tenant c.obj fun b =>
    let b := if c.susp.isSome then b.unsuspend else b
    { b with pend := b.pend - BitVec.ofNat 64 left, infl := b.infl - 1, err := true }
  let s := (s.dropCopy n slot c).copyRec n slot c 0xD cause side va
  match c.edge with
  | some who => if cause = 7 then s.forwardGone n who c.vs else s
  | none => s.endCopyq n c cause

/-- R277: the last bytes of a copy have landed. -/
def State.endCopyDone (s : State) (n slot : Nat) (c : Copy) : State := (s.dropCopy n slot c).endCopyq n c 0

/-! ## Host page counters (R220, R221) -/

/-- R220: the host page of a line, with its SPACE (log 26). -/
def hostPage (pa : Nat) : Nat := pa / 2 ^ 21

/-- R221: a notice. -/
def HpCtr.bytes (c : HpCtr) (n : Nat) (ovf : Bool) : List Byte :=
  leBytes 8 (n + c.page * 2 ^ 21) ++ leBytes 8 (c.count + c.tenant * 2 ^ 16 + ovf.toNat * 2 ^ 22)

/-- R220: a notice posted; false when the ring is full. -/
def State.hpcPost (s : State) (n : Nat) (c : HpCtr) (ovf : Bool) : State × Bool :=
  let f := (s.isle n).ferry
  let size := 2 ^ f.hpcLog2n
  if (f.hpcTail + 1) % size = f.hpcHead then (s, false)
  else
    let s := s.setBytes (hostPa f.hpcBridge (f.hpcBase + 16 * f.hpcTail)) (c.bytes n ovf)
    (s.onFerry n fun f => { f with hpcTail := (f.hpcTail + 1) % size }, true)

/-- R220: one line read of host memory. The table is kept in order of use; the first entry is replaced (log 26). -/
def State.hpcTouch (s : State) (n tenant pa : Nat) : State :=
  let f := (s.isle n).ferry
  if f.hpcThr = 0 then s
  else
    let old := (f.hpc.find? fun c => c.page == hostPage pa).getD ⟨hostPage pa, 0, false, false, tenant⟩
    let c := { old with count := min 65535 (old.count + 1) }
    let cross := !old.queued && decide (f.hpcThr ≤ c.count)
    let c := if cross then { c with queued := true, tenant := tenant } else c
    let (s, ok) := if cross then s.hpcPost n c false else (s, true)
    let c := { c with marked := c.marked || !ok }
    s.onFerry n fun f =>
      let rest := f.hpc.filter fun x => x.page != hostPage pa
      { f with hpc := (if 4096 ≤ rest.length then rest.drop 1 else rest) ++ [c] }

/-! ## Reading (R276 to R279) -/

/-- R279: a host address behind a bridge that is not up. -/
def State.hostDown (s : State) (pa : Nat) : Bool := paHost pa && !s.bridgeUp (paSpace pa - 1)

/-- The physical address of an access of a copy. -/
def State.copyPa (s : State) (n t va : Nat) (wr : Bool) : Option Nat :=
  (s.fwalk n t va).bind fun l => if wr then some l.pa else s.readPa l

/-- R279: the accesses that the next byte of a copy asks for: its index, where that is not read, and its source. -/
def State.nextReads (s : State) (n : Nat) (c : Copy) : List (Side × Nat) :=
  if c.bytes ≤ c.read then []
  else
    let ixs := if (lookupN (c.read / c.unitSize) c.ixs).isSome then [] else c.idxVas c.read
    ixs.map (fun va => (Side.idx, va)) ++ match (c.addrs c.read (s.copyIx n c c.read)).1 with
      | some va => [(Side.src, va)]
      | none => []

/-- R279: the next request of a copy made: one toward a port that is not up ends the copy at once. -/
def State.askNext (s : State) (n slot : Nat) : State :=
  match (s.isle n).ferry.copy slot with
  | none => s
  | some c =>
    match (s.nextReads n c).find? fun x => match s.copyPa n c.tenant x.2 false with | some a => s.hostDown a | none => false with
    | some x => s.endCopyErr n slot c 6 x.1 x.2
    | none => s

/-- A byte of a copy read: its index, its value and its source. -/
def State.copyByte (s : State) (n : Nat) (c : Copy) (b : Nat) : CopyByte :=
  let ix := s.copyIx n c b
  match (c.addrs b ix).1 with
  | none => ⟨b, ix, BitVec.ofNat 8 (c.pat / 256 ^ (b % 4)), false, none, s.pt⟩
  | some va => match s.copyPa n c.tenant va false with
    | some a => ⟨b, ix, s.byte a, s.isPois a, some a, s.pt⟩
    | none => ⟨b, ix, 0, false, none, s.pt⟩

/-- R278: the bytes below `hi` can be read, in their order: the copy is not suspended and none of them faults. -/
def State.copyReach (s : State) (n : Nat) (c : Copy) (hi : Nat) : Bool :=
  decide (hi ≤ c.read) ||
  (c.susp.isNone && decide (hi ≤ c.bytes) && (List.range (hi - c.read)).all fun i => (s.copyFaultAt n c (c.read + i)).isNone)

/-- A byte offset rounded up to a whole unit of R278: a copy reads whole units. -/
def Copy.wholeTo (c : Copy) (hi : Nat) : Nat := ceilDiv hi c.unitSize * c.unitSize

/-- R277: the indices of some bytes read, up to the first that stands in a poisoned line. -/
def State.captureAll (s : State) (n : Nat) (c : Copy) (offs : List Nat) : Copy × Option Nat :=
  offs.foldl (fun acc b => match acc.2 with
    | some _ => acc
    | none => if s.copyIxPois n acc.1 b then (acc.1, some b) else (s.captureIx n acc.1 b, none)) (c, none)

/-- The destination of a byte that has been read. -/
def Copy.dstOf (c : Copy) (x : CopyByte) : Nat := (c.addrs x.b x.ix).2

/-- R276, R277: the bytes of a copy up to `hi` read: indices line by line, then sources. A poisoned line of the index list ends the
copy. The write of a byte is requested as the byte is read (R279). -/
def State.readCopy (s : State) (n slot hi : Nat) : State :=
  match (s.isle n).ferry.copy slot with
  | none => s
  | some c =>
    if hi ≤ c.read then s
    else
      let offs := (List.range (hi - c.read)).map (c.read + ·)
      match s.captureAll n c offs with
      | (_, some b) => s.endCopyErr n slot c 9 .idx ((c.idxVa b).getD 0)
      | (c', none) =>
        let bs := offs.map fun b => s.copyByte n c' b
        let vas := dedup ((offs.flatMap c.idxVas ++ bs.filterMap (fun x => (c'.addrs x.b x.ix).1) ++ bs.map c'.dstOf).map (· / 4096))
        let lines := dedup (bs.filterMap fun x => match x.src with | some a => if paHost a then some (a / 64) else none | none => none)
        let s := vas.foldl (fun s v => s.ferryUse n c.tenant (v * 4096)) s
        let s := bs.foldl (fun s x => match x.src with | some a => s.chargeMem c.tenant a 1 | none => s) s
        let s := lines.foldl (fun s l => s.hpcTouch n c.tenant (l * 64)) s
        let used := hi / c.unitSize
        let c' := { c' with read := hi, got := c'.got ++ bs, ixs := c'.ixs.filter (fun x => decide (used ≤ x.1)), sincePt := s.pt }
        let s := s.onFerry n fun f => f.onCopy slot fun _ => c'
        match bs.find? fun x => match s.copyPa n c.tenant (c'.dstOf x) true with | some a => s.hostDown a | none => false with
        | some x => s.endCopyErr n slot c' 6 .dst (c'.dstOf x)
        | none => s.askNext n slot

/-! ## Issue (R276) -/

/-- A copy started in a free slot: INFL rises; a malformed descriptor or a copy of no bytes ends at once, and so does one whose
first request goes to a port that is not up (R279). -/
def State.startCopy (s : State) (n slot : Nat) (c : Copy) (formed : Bool) : State :=
  let gen := match lookupN slot (s.isle n).ferry.gens with | some x => (x + 1) % 2 ^ 16 | none => 0
  let c := { c with gen := gen, sincePt := s.pt }
  let s := s.onFerry n fun f => { f with gens := insertN slot gen f.gens, copies := f.copies ++ [(slot, c)] }
  let s := s.ferryObj c.tenant c.obj fun b => { b with infl := b.infl + 1 }
  if !formed then s.endCopyErr n slot c 8 .src 0
  else if c.bytes = 0 then
    (s.ferryObj c.tenant c.obj fun b => { b with infl := b.infl - 1 }).endCopyDone n slot c
  else s.askNext n slot

/-- R276: whether the slot that the step names is free. -/
def State.slotFree (s : State) (n slot : Nat) : Bool := decide (slot < 1024) && (lookupN slot (s.isle n).ferry.copies).isNone

/-- R316: copies of dock words that wait take the slots that are free, in their order; `fuel` bounds their number. -/
def State.startWaiting (s : State) (n : Nat) : Nat → State
  | 0 => s
  | f + 1 =>
    match (s.isle n).ferry.waiting, (List.range 1024).find? fun i => s.slotFree n i with
    | (c, formed) :: r, some slot => ((s.onFerry n fun x => { x with waiting := r }).startCopy n slot c formed).startWaiting n f
    | _, _ => s
def State.ferryNext (s : State) (n : Nat) : State := s.startWaiting n (s.isle n).ferry.waiting.length

/-- R276: a copy request issued into slot `cur.x`; its reply carries the id. -/
def State.issueCopy (s : State) (p f : Nat) (q : Req) : State :=
  let n := s.cur.n
  let g := s.segD n s.cur.k
  let c := { Copy.ofLanes f q.data with
    obj := g.objPa n q, tenant := g.tenant, seg := some g.id.toNat, ring := s.cur.k, vs := (g.live.stripe p).vs, elem := q.elem,
    slot := q.slot, ord := q.ord, run := q.run, ck := q.ck, ahead := q.ahead }
  let gen := match lookupN s.cur.x (s.isle n).ferry.gens with | some x => (x + 1) % 2 ^ 16 | none => 0
  (s.startCopy n s.cur.x c (c.formed q.data)).giveReply p q.no
    (dataTok (Lanes.ofList [BitVec.ofNat 32 (copyId s.cur.x gen)]) false q.seqv q.seq) (g.wck + 22)

/-- R284: CPYX performed. -/
def State.cancelCopy (s : State) (p : Nat) (q : Req) : State :=
  let n := s.cur.n
  let g := s.segD n s.cur.k
  let id := q.data.get 0
  let slot := fld id.toNat 0 10
  let gen := fld id.toNat 16 16
  let seg := g.id.toNat
  let legal := fld id.toNat 10 6 == 0
  let reply := fun (s : State) (code left : Nat) =>
    s.giveReply p q.no (dataTok (Lanes.ofList [id, BitVec.ofNat 32 code, lo32 left]) false q.seqv q.seq) (g.wck + 22)
  match (s.isle n).ferry.copy slot with
  | some c =>
    if legal ∧ c.gen = gen ∧ c.seg = some seg then
      let left := c.bytes - c.done
      let s := s.ferryObj c.tenant c.obj fun b =>
        let b := if c.susp.isSome then b.unsuspend else b
        { b with pend := b.pend - BitVec.ofNat 64 left, infl := b.infl - 1 }
      reply ((s.dropCopy n slot c).ferryNext n) 0 left
    else reply s (if legal && (s.isle n).ferry.ended.contains (slot, gen, seg) then 1 else 2) 0
  | none => reply s (if legal && (s.isle n).ferry.ended.contains (slot, gen, seg) then 1 else 2) 0

/-! ## Landing (R275, R277) -/

/-- Bytes written at any addresses, setting the lagoon granules they land in full, but those discarded (R424). -/
def State.fillCells (s : State) (tenant : Nat) (cells : List Host.Cell) : State :=
  let bad := s.badUnits cells
  let gs := (granulesOf (cells.map (·.1))).filter fun g => !bad.contains (g * 8)
  let s := cells.foldl (fun s c => s.chargeMem tenant c.1 1) (s.perform cells)
  gs.foldl State.setFull s

/-- R275: a CPY1 between two whole compressed pages. -/
def State.copyImage (s : State) (n : Nat) (c : Copy) : Option (Nat × Nat) :=
  if c.op = 0 ∧ c.len = 2 ^ 21 then
    match s.fwalk n c.tenant c.src, s.fwalk n c.tenant c.dst with
    | some a, some b => if a.cmp ∧ b.cmp ∧ a.pa = a.base ∧ b.pa = b.base then some (a.base, b.base) else none
    | _, _ => none
  else none

/-- A range that has not landed and lies within the copy. -/
def Copy.fresh (c : Copy) (off len : Nat) : Bool :=
  decide (0 < len) && decide (off + len ≤ c.bytes) && c.landed.all fun x => decide (off + len ≤ x.1) || decide (x.1 + x.2 ≤ off)

/-- R274: a range splits no aligned element of at most 64 B of a scatter, which takes its bytes from one writer. -/
def State.wholeElems (s : State) (n : Nat) (c : Copy) (off len : Nat) : Bool :=
  let es := c.unitSize
  let cut := fun (b : Nat) => b % es != 0 && (c.addrs (b / es * es) (s.copyIx n c b)).2 % es == 0
  !(c.op == 3 && decide (es ≤ 64)) || !(cut off || cut (off + len))

/-- R279: nothing answers at an address: its bridge is not up, or its isle of this panel is held. -/
def State.noReply (s : State) (pa : Nat) : Bool := s.hostDown pa || (paPanel pa && !(s.isle (paIsle pa)).up)

/-- The bytes of a range that have been read, with the leaf of their destination. -/
def State.landing (s : State) (n : Nat) (c : Copy) (off len : Nat) : List (CopyByte × Leaf) :=
  (c.got.filter fun x => decide (off ≤ x.b) && decide (x.b < off + len)).filterMap fun x =>
    (s.fwalk n c.tenant (c.dstOf x)).map fun l => (x, l)

/-- R277: the bytes of a range performed; then PEND and, with the last, INFL. -/
def State.landBytes (s : State) (n slot : Nat) (c : Copy) (off len : Nat) : State :=
  let bs := s.landing n c off len
  let cells : List Host.Cell := bs.map fun x => (x.2.pa, x.1.v)
  let bad := bs.filter fun x => x.1.pois
  let s := (s.fillCells c.tenant cells).charge n c.tenant 7 len
  let s := s.charge n c.tenant 8 (cells.filter fun x => paSpace x.1 != 0).length
  let s := (dedup (bad.map fun x => poisonUnit x.2.pa)).foldl State.poison s
  let c' := { c with landed := c.landed ++ [(off, len)], got := c.got.filter fun x => !(decide (off ≤ x.b) && decide (x.b < off + len)) }
  let last := c'.done = c.bytes
  let s := s.onFerry n fun f => f.onCopy slot fun _ => c'
  let s := s.ferryObj c.tenant c.obj fun b =>
    { b with pend := b.pend - BitVec.ofNat 64 len, infl := if last then b.infl - 1 else b.infl }
  if last then s.endCopyDone n slot c' else s

/-- R275, R277, R218: the compressed image of a page copied whole, its poison with it; PEND falls by the copy's bytes. -/
def State.landImage (s : State) (n slot : Nat) (c : Copy) (a b : Nat) : State :=
  let size := 0x1000 + 4096 * s.blocksBelow a 512
  let bad := (List.range size).filter fun i => s.isPois (a + i)
  let s := ((s.chargeMem c.tenant a size).fillCells c.tenant (cellsAt b (s.bytes a size))).charge n c.tenant 7 c.bytes
  let s := (dedup (bad.map fun i => poisonUnit (b + i))).foldl State.poison s
  (s.ferryObj c.tenant c.obj fun o => { o with pend := o.pend - BitVec.ofNat 64 c.bytes, infl := o.infl - 1 }).endCopyDone
    n slot { c with landed := [(0, c.bytes)] }

/-- R454: the segment with an id has recorded in the cut that its isle takes part in: its copies and operations pause. -/
def State.cutHeld (s : State) (n id : Nat) : Bool :=
  match (s.isle n).dump.coord with
  | some (_, num, _) => (s.isle n).rings.any fun r =>
      let hit := fun (g : Seg) => g.id.toNat == id && g.cutNo == num
      (match r.seg with | some g => hit g | none => false) || r.saved.any (fun x => hit x.1) || r.scanned.any fun x => hit x.1
  | none => false
def State.copyCut (s : State) (n : Nat) (c : Copy) : Bool := match c.seg with | some id => s.cutHeld n id | none => false

/-- R276: copy `cur.j` reads up to byte `hi`, in the order of R274, before any of it lands. -/
def State.copyReadTurn (s : State) (hi : Nat) : State :=
  let n := s.cur.n
  match (s.isle n).ferry.copy s.cur.j with
  | none => s
  | some c =>
    if s.copyReach n c (c.wholeTo hi) && !s.copyCut n c && (s.copyImage n c).isNone then (s.readCopy n s.cur.j (c.wholeTo hi)).ferryNext n else s

/-- COPY_BYTES_LAND (R277): bytes `off` to `off + len - 1` of copy `cur.j` performed; what has not been read as far as there is read
first (log 43). -/
def execCopyBytesLand (off len : Nat) (s : State) : Res :=
  let n := s.cur.n
  match (s.isle n).ferry.copy s.cur.j with
  | none => .next s
  | some c =>
    let hi := c.wholeTo (off + len)
    if !c.fresh off len || !s.copyReach n c hi || s.copyCut n c then .next s
    else
      match s.copyImage n c with
      | some (a, b) =>
        if off = 0 ∧ len = c.bytes then
          if s.noReply a || s.noReply b then .next s else .next ((s.landImage n s.cur.j c a b).ferryNext n)
        else .next s
      | none =>
        let s' := s.readCopy n s.cur.j hi
        match (s'.isle n).ferry.copy s.cur.j with
        | none => .next (s'.ferryNext n)
        | some c =>
          let bs := s'.landing n c off len
          if !s'.wholeElems n c off len || bs.any (fun x => s'.noReply x.2.pa || match x.1.src with | some a => s'.noReply a | none => false) then
            .next s
          else
            match bs.find? fun x => x.2.cmp with
            | some x => .next ((s'.endCopyErr n s.cur.j c 4 .dst (c.dstOf x.1)).ferryNext n)
            | none => match bs.find? fun x => x.1.pois && paHost x.2.pa with
              | some x => .next ((s'.endCopyErr n s.cur.j c 5 .src ((c.addrs x.1.b x.1.ix).1.getD 0)).ferryNext n)
              | none => .next ((s'.landBytes n s.cur.j c off len).ferryNext n)

/-- COPY_FAULT (R278): copy `cur.j` is suspended at a unit; every unit below has been read, and none from there on. -/
def execCopyFault (unit : Nat) (s : State) : Res :=
  let n := s.cur.n
  match (s.isle n).ferry.copy s.cur.j with
  | none => .next s
  | some c =>
    let b := unit * c.unitSize
    let span := (List.range c.unitSize).map (b + ·)
    match span.findSome? fun x => s.copyFaultAt n c x with
    | none => .next s
    | some (cause, side, va) =>
      if c.susp.isSome || !decide (b < c.bytes) || !s.copyReach n c b || decide (b < c.read) then .next s
      else
        let s' := s.readCopy n s.cur.j b
        match (s'.isle n).ferry.copy s.cur.j with
        | none => .next (s'.ferryNext n)
        | some c =>
          let s := s'.onFerry n fun f =>
            { f.onCopy s.cur.j fun c => { c with susp := some (b, cause, side, va) } with faults := satAdd (2 ^ 32 - 1) f.faults 1 }
          let s := s.ferryObj c.tenant c.obj fun o => { o with fault := true, fseen := true, nfault := o.nfault + 1 }
          let s := s.copyRec n s.cur.j c 0xC cause side va
          .next (s.pageRequest n ⟨c.tenant, 2, side == .dst, copyId s.cur.j c.gen, va⟩)

/-- COPY_RESUME (R278): copy `cur.j` resumes once a re-latch has found its page present and permitted. -/
def execCopyResume (s : State) : Res :=
  let n := s.cur.n
  match (s.isle n).ferry.copy s.cur.j with
  | none => .next s
  | some c => match c.susp with
    | none => .next s
    | some (_, _, side, va) =>
      if c.found && accessFault (s.fwalk n c.tenant va) (side == .dst) == 0 then
        let s := s.onFerry n fun f => f.onCopy s.cur.j fun c => { c with susp := none, found := false, sincePt := s.pt }
        .next (((s.ferryObj c.tenant c.obj BObj.unsuspend).askNext n s.cur.j).ferryNext n)
      else .next s

/-- R279, R300, R330: the segment with an id stands: it is frozen, pre-empted or scanned out. -/
def State.segStands (s : State) (n k id : Nat) : Bool :=
  let r := (s.isle n).ring k
  (match r.seg with | some g => g.id.toNat == id && (g.stopped || g.halt == .saving) | none => false) ||
  r.saved.any (fun x => x.1.id.toNat == id) || r.scanned.any fun x => x.1.id.toNat == id

/-- R279: a copy's count is suspended while its segment is frozen. -/
def State.copyFrozen (s : State) (n : Nat) (c : Copy) : Bool :=
  match c.seg with
  | some id => s.segStands n c.ring id || s.cutHeld n id
  | none => false

/-- R279: the requests of a copy that are outstanding, each with its side, its address and the time it was made: the accesses of
the next byte to read, and the writes of the bytes read. -/
def State.copyAsks (s : State) (n : Nat) (c : Copy) : List (Side × Nat × Nat) :=
  (if c.susp.isSome then [] else (s.nextReads n c).map fun x => (x.1, x.2, c.sincePt)) ++ c.got.map fun x => (.dst, c.dstOf x, x.at_)

/-- R279, R356: the first of some requests of a copy ends it; a forward that only timed out asks again while its target isle stays
in the panel view. -/
def State.askFails (s : State) (n slot : Nat) (c : Copy) (cause : Nat) (x : Side × Nat × Nat) : State :=
  let stays := match s.copyPa n c.tenant x.2.1 (x.1 == .dst) with
    | some a => !paPanel a || (s.isle n).pview.members.any fun m => m.2 == paIsle a
    | none => true
  if c.edge.isSome ∧ cause = 6 then
    if stays then s.onFerry n fun f => f.onCopy slot fun c =>
      { c with sincePt := s.pt, got := c.got.map fun x => { x with at_ := s.pt } }
    else s.endCopyErr n slot c 7 x.1 x.2.1
  else s.endCopyErr n slot c cause x.1 x.2.1

/-- COPY_TIMEOUT (R279): a request of copy `cur.j` to another isle, panel or host is unanswered for FTOUT. -/
def execCopyTimeout (s : State) : Res :=
  let n := s.cur.n
  match (s.isle n).ferry.copy s.cur.j with
  | none => .next s
  | some c =>
    let late := (s.copyAsks n c).find? fun x => decide ((s.isle n).ferry.ftout ≤ s.pt - x.2.2) &&
      match s.copyPa n c.tenant x.2.1 (x.1 == .dst) with | some a => !(paPanel a && paIsle a == n) | none => false
    match late with
    | some x => if s.copyFrozen n c then .next s else .next ((s.askFails n s.cur.j c 6 x).ferryNext n)
    | none => .next s

/-- R279: the accesses that a copy has still to make for byte `b`: those of a byte not read, and the write of one not landed. -/
def State.copyWants (s : State) (n : Nat) (c : Copy) (b : Nat) : List (Side × Nat) :=
  let (src, dst) := c.addrs b (s.copyIx n c b)
  (if c.read ≤ b then (c.idxVas b).map (fun va => (Side.idx, va)) ++ (match src with | some va => [(Side.src, va)] | none => []) else []) ++
  match c.got.find? fun x => x.b == b with
  | some x => [(Side.dst, c.dstOf x)]
  | none => if c.read ≤ b then [(Side.dst, dst)] else []

/-- R279: the copies of an isle that have an access left to a place which a view commit has removed. -/
def State.copiesLeave (s : State) (n : Nat) (gone : Nat → Bool) : State :=
  (s.isle n).ferry.copies.foldl (fun s x =>
    let c := x.2
    let hit := fun (b : Nat) => (s.copyWants n c b).find? fun y => match s.copyPa n c.tenant y.2 (y.1 == .dst) with
      | some a => gone a
      | none => false
    match (List.range c.bytes).findSome? fun b => if c.fresh b 1 then hit b else none with
    | some y => s.endCopyErr n x.1 c 7 y.1 y.2
    | none => s) s |>.ferryNext n

end Sys2Proof.Machine
end

