-- ==== Sys2Proof/Machine/Collective.lean ====
section
/-! DEFINITION. The collective instructions, major 0x76, their operations on the isles of a view, and the install of a
committed view (R290 to R301, R304, R305). -/

namespace Sys2Proof.Machine

/-! ## Firing (R296, R298, R299, R308) -/

/-- A collective operation: chain and position stand in lane 5 of its descriptor. -/
def State.fireColl (s : State) (t : BitVec 6) (f : Nat) (o : FmtColl) : State :=
  let w := ((s.view.src o.a.toNat).lanes.get 5).toNat
  s.fireReq t [rdV o.a] (.coll f) (fld w 16 2) (fld w 12 4) fun vs q =>
    { q with data := (nth default vs 0).lanes, dpois := (nth default vs 0).pois, dest := destOf o.d.toNat }

/-- ARED (R293). -/
def execAred (t : BitVec 6) (o : FmtColl) (s : State) : Res := .next (s.fireColl t 0 o)

/-- RSCAT (R293). -/
def execRscat (t : BitVec 6) (o : FmtColl) (s : State) : Res := .next (s.fireColl t 1 o)

/-- AGATH (R293). -/
def execAgath (t : BitVec 6) (o : FmtColl) (s : State) : Res := .next (s.fireColl t 2 o)

/-- BCST (R293). -/
def execBcst (t : BitVec 6) (o : FmtColl) (s : State) : Res := .next (s.fireColl t 3 o)

/-- A2A (R293). -/
def execA2a (t : BitVec 6) (o : FmtColl) (s : State) : Res := .next (s.fireColl t 4 o)

/-- A rule that names an operation by its id, which gives the chain and position. -/
def State.fireOpId (s : State) (t : BitVec 6) (op : ReqOp) (a : BitVec 5) (d : Dest) : State :=
  let w := ((s.view.src a.toNat).lanes.get 0).toNat
  s.fireReq t [rd a false] op (fld w 14 2) (fld w 10 4) fun vs q =>
    { q with data := (nth default vs 0).lanes, dpois := (nth default vs 0).pois, dest := d }

/-- CWAIT (R298). -/
def execCwait (t : BitVec 6) (o : FmtDA) (s : State) : Res := .next (s.fireOpId t .cwait o.a (destOf o.d.toNat))

/-- CABRT (R299). -/
def execCabrt (t : BitVec 6) (a : BitVec 5) (s : State) : Res := .next (s.fireOpId t .cabrt a .none)

/-! ## Views and communicators (R288, R290, R291) -/

/-- Members are ranked by panel, then isle. -/
def memberBefore (a b : Member) : Bool := decide (a.1 < b.1) || (a.1 == b.1 && decide (a.2 < b.2))

/-- A member put into a set kept in rank order. -/
def insMember (x : Member) : List Member → List Member
  | [] => [x]
  | y :: r => if memberBefore x y then x :: y :: r else if x = y then y :: r else y :: insMember x r

def Isle.setMemb (i : Isle) (sys : Bool) (f : Memb → Memb) : Isle :=
  if sys then { i with sview := f i.sview } else { i with pview := f i.pview }
def State.onMemb (s : State) (n : Nat) (sys : Bool) (f : Memb → Memb) : State := s.onIsle n fun i => i.setMemb sys f

def Isle.comm (i : Isle) (c : Nat) : Comm := nth default i.comms c

/-- R290: the member is listed in the communicator. -/
def Comm.lists (c : Comm) (panel : Nat) (m : Member) : Bool :=
  bitN c.imask m.2 && (if c.sys then bitN c.pmask m.1 else m.1 == panel)

/-- R291: the effective set as it forms: listed members of the current view, in rank order. -/
def State.formSet (s : State) (n : Nat) (c : Comm) : List Member := (s.memb n c.sys).members.filter fun m => c.lists s.panel m

/-! ## Reduction (R294, R295) -/

/-- R295: the sum of two values of a float type, rounded under RNE into it. -/
def addFmt (f : Format) (a b : Nat) : FRes :=
  match f.decode a, f.decode b with
  | .nan sa _ _, .nan sb _ _ => (f.nanBits, if sa || sb then flNV else 0)
  | .nan sa _ _, _ => (f.nanBits, if sa then flNV else 0)
  | _, .nan sb _ _ => (f.nanBits, if sb then flNV else 0)
  | .inf na, .inf nb => if na = nb then (f.signBit na + f.infBits, 0) else (f.nanBits, flNV)
  | .inf na, _ => (f.signBit na + f.infBits, 0)
  | _, .inf nb => (f.signBit nb + f.infBits, 0)
  | .fin na ma ea, .fin nb mb eb =>
    let e := min ea eb
    let sg := fun (neg : Bool) (m : Nat) (ex : Int) => (if neg then -1 else 1) * ((m * 2 ^ (ex - e).toNat : Nat) : Int)
    let t := sg na ma ea + sg nb mb eb
    if t = 0 then (f.signBit (na && nb && decide (ma = 0)), 0) else roundFmt f rmRNE false (decide (t < 0)) ⟨t.natAbs, e, false⟩

/-- R295: minimumNumber and maximumNumber in a float type. -/
def minMaxFmt (f : Format) (isMax : Bool) (a b : Nat) : FRes :=
  let va := f.decode a
  let vb := f.decode b
  let fl := if va.isSnan || vb.isSnan then flNV else 0
  if va.isNan then (if vb.isNan then f.nanBits else b, fl)
  else if vb.isNan then (a, fl)
  else
    let c := cmpV va vb
    let less := if c = 0 then bitN a (f.eb + f.mb) else decide (c < 0)
    (if less != isMax then a else b, fl)

/-- R295: a NaN replaced by the default NaN. -/
def canonFmt (f : Format) (a : Nat) : FRes :=
  match f.decode a with
  | .nan sig _ _ => (f.nanBits, if sig then flNV else 0)
  | _ => (a, 0)

/-- R294: one step of the reduction. Type 13 is INT32. -/
def redStep (ty redop a b : Nat) : FRes :=
  if ty = 13 then
    let x := sextN 32 a
    let y := sextN 32 b
    (if redop = 0 then (a + b) % 2 ^ 32 else modN 32 (if redop = 1 then min x y else max x y), 0)
  else if redop = 0 then addFmt (formatOf ty) a b
  else minMaxFmt (formatOf ty) (redop == 2) a b

/-- R294: the weight of REWEIGHT. -/
def redWeight (w : W) (n0 n : Nat) : Nat := if w = 0 then (round32 rmRNE false (divMag n0 0 n 0)).1 else w.toNat

/-- R294, R295: the weighted product. -/
def redScale (ty : Nat) (x w : Nat) : FRes :=
  if ty = 13 then
    let s := sextN 32 x
    let (lo, hi) := intBounds 13
    match fp32.decode w with
    | .nan .. => (0, flNV)
    | .inf nw => if s = 0 then (0, flNV) else (modN 32 (if (decide (s < 0)) != nw then lo else hi), flSAT)
    | .fin nw mw ew =>
      let (v, fl) := roundInt rmRNE lo hi ((decide (s < 0)) != nw) ⟨s.natAbs * mw, ew, false⟩
      (modN 32 v, fl)
  else
    let f := formatOf ty
    match f.decode x, fp32.decode w with
    | .nan sx _ _, .nan sw _ _ => (f.nanBits, if sx || sw then flNV else 0)
    | .nan sx _ _, _ => (f.nanBits, if sx then flNV else 0)
    | _, .nan sw _ _ => (f.nanBits, if sw then flNV else 0)
    | .inf na, .inf nb => (f.signBit (na != nb) + f.infBits, 0)
    | .inf na, .fin nb mb _ => if mb = 0 then (f.nanBits, flNV) else (f.signBit (na != nb) + f.infBits, 0)
    | .fin na ma _, .inf nb => if ma = 0 then (f.nanBits, flNV) else (f.signBit (na != nb) + f.infBits, 0)
    | .fin na ma ea, .fin nb mb eb => roundFmt f rmRNE false (na != nb) ⟨ma * mb, ea + eb, false⟩

/-- R294: the reduction of one element in rank order. -/
def redElem (ty redop : Nat) : List Nat → FRes
  | [] => (0, 0)
  | x :: r =>
    let x0 := if ty = 13 then (x, 0) else canonFmt (formatOf ty) x
    if r.isEmpty then x0
    else r.foldl (fun acc y => let z := redStep ty redop acc.1 y; (z.1, acc.2 ||| z.2)) ((x, 0) : FRes)

/-! ## An operation -/

def CollOp.ty (o : CollOp) : Nat := fld o.ctl 0 4
def CollOp.redop (o : CollOp) : Nat := fld o.ctl 4 2
def CollOp.mode (o : CollOp) : Nat := fld o.ctl 6 2
/-- R292: bytes of an element: RAW is a byte, BF16 and FP16 two, FP32 and INT32 four. -/
def CollOp.esize (o : CollOp) : Nat := if o.ty = 0 then 1 else if o.ty = 2 ∨ o.ty = 3 then 2 else 4
def CollOp.n0 (o : CollOp) : Nat := o.first.length
/-- R292: the root of a BCST: its panel and its isle. -/
def CollOp.rootM (o : CollOp) : Member := (fld o.root 6 6, fld o.root 0 6)

/-- R290, R296: what members compare. -/
def CollOp.sig (o : CollOp) : List Nat :=
  [o.sys.toNat, o.kind, o.ty, o.redop, o.mode, o.count, if o.kind = 3 then o.root else 0] ++ o.eff.map fun m => m.1 * 64 + m.2

/-- R296: the bytes of SRC and DST that are translated. -/
def CollOp.srcLen (o : CollOp) : Nat := o.count * o.esize * (if o.kind = 4 then o.n0 else 1)
def CollOp.dstLen (o : CollOp) : Nat := o.count * o.esize * (if o.kind = 4 ∨ o.kind = 2 then o.n0 else 1)

/-- R292, R296: the fields of a descriptor lie within their limits. -/
def CollOp.formed (o : CollOp) (l : Lanes) : Bool :=
  (o.count == 0 || (canonical o.src && canonical ((o.src + o.srcLen - 1) % 2 ^ 64) && canonical o.dst &&
    canonical ((o.dst + o.dstLen - 1) % 2 ^ 64))) && decide (o.count < 2 ^ 28) &&
  (o.count == 0 || [1, 2, 3, 13].contains o.ty || (o.ty == 0 && decide (2 ≤ o.kind))) && o.redop != 3 && o.mode != 3 &&
  fld o.ctl 18 14 == 0 && (o.kind != 3 || fld o.root 12 20 == 0) &&
  [8, 9, 10, 11, 12, 13, 14, 15].all fun k => l.get k == 0

/-- R296: the pages of a range, as translated at issue; none when one is not allowed under R271, not local, or, for a destination,
compressed. -/
def State.collPages (s : State) (n tenant va len : Nat) (wr : Bool) : Option (List TlbEnt) :=
  (List.range (if len = 0 then 0 else (va % 4096 + len - 1) / 4096 + 1)).foldl (fun (acc : Option (List TlbEnt)) i =>
    let a := (va / 4096 + i) * 4096 % 2 ^ 64
    match acc, s.walk tenant a with
    | some m, some l =>
      if accessFault (some l) wr == 0 && paPanel l.pa && paIsle l.pa == n && (!wr || !l.cmp) then
        some (if m.any fun e => e.holds tenant a then m else tlbEnter (m.length + 1) m tenant a l)
      else none
    | _, _ => none) (some [])

/-- R296: what an operation may read and write, translated. -/
def State.collXlate (s : State) (n : Nat) (o : CollOp) : Option (List TlbEnt) :=
  match s.collPages n o.tenant o.src o.srcLen false, s.collPages n o.tenant o.dst o.dstLen true with
  | some a, some b => some (a ++ b)
  | _, _ => none

/-- The physical place of an address of an operation, by the translations of its issue (R304). -/
def CollOp.leaf (o : CollOp) (va : Nat) : Option Leaf := (o.map.find? fun e => e.holds o.tenant va).map fun e => e.leaf va

/-- A byte at a place that a page table gave, and whether it is poisoned. -/
def State.leafRead (s : State) (l : Option Leaf) : Byte × Option Nat :=
  match l.bind s.readPa with
  | some a => (s.byte a, if s.isPois a then some (poisonUnit a) else none)
  | none => (0, none)

/-- A byte of a tenant's space as the ferry and the harbour read it, and whether it is poisoned. -/
def State.vaRead (s : State) (tenant va : Nat) : Byte × Option Nat := s.leafRead (s.walk tenant va)

/-- The contribution that a member reads from SRC (R293): none at a member that is not the root of a BCST. -/
def CollOp.reads (o : CollOp) (me : Member) : Nat := if o.kind = 3 ∧ o.rootM ≠ me then 0 else o.srcLen

def State.contribution (s : State) (n : Nat) (o : CollOp) : List Byte × Option Nat :=
  let bs := (List.range (o.reads (s.member n))).map fun i => s.leafRead (o.leaf ((o.src + i) % 2 ^ 64))
  (bs.map (·.1), (bs.filterMap (·.2)).head?)

/-- Bytes of a member's contribution sent to another: an A2A sends the block of the receiver's index. -/
def CollOp.partFor (o : CollOp) (data : List Byte) (to_ : Member) : List Byte :=
  if o.kind = 4 then
    let b := o.count * o.esize
    match findIdx (· == to_) o.first with
    | some y => (data.drop (y * b)).take b
    | none => []
  else data

/-- A flit to another member of the operation's scope under the number given. -/
def State.collSend (s : State) (n : Nat) (sys : Bool) (view : Nat) (to_ : Member) (b : Payload) : State :=
  if to_ = s.member n then s else s.postFlit ⟨s.member n, to_, sys, view, b⟩

/-- R299: an abort for a sequence number sent to every listed member. -/
def State.collAbortAll (s : State) (n : Nat) (sys : Bool) (comm seq why : Nat) (to_ : List Member) : State :=
  to_.foldl (fun s m => s.collSend n sys (s.memb n sys).num m (.collAbort comm seq why)) s

def Isle.op (i : Isle) (slot : Nat) : Option CollOp := lookupN slot i.ops
def State.onOp (s : State) (n slot : Nat) (f : CollOp → CollOp) : State :=
  s.onIsle n fun i => { i with ops := i.ops.map fun x => if x.1 = slot then (x.1, f x.2) else x }

/-- R298: the rank of this isle in an operation. -/
def CollOp.rank (o : CollOp) (m : Member) : Nat := (findIdx (· == m) o.eff).getD 0

/-- R296, R297: an operation completed with a status; a discarded one frees its slot. -/
def State.collDone (s : State) (n slot code : Nat) (flags : BitVec 6) : State :=
  match (s.isle n).op slot with
  | none => s
  | some o =>
    if o.status.isSome then s
    else if o.discard then s.onIsle n fun i => { i with ops := i.ops.filter fun x => x.1 != slot }
    else s.onOp n slot fun o => { o with status := some ⟨code, (s.memb n o.sys).num, o.eff.length, flags, o.ints, o.rank (s.member n)⟩ }

/-- A segment of an isle changed, on its ring or off it. -/
def Ring.onSegId (r : Ring) (id : Nat) (f : Seg → Seg) : Ring :=
  let f' := fun (g : Seg) => if g.id.toNat = id then f g else g
  { r with seg := r.seg.map f', saved := r.saved.map fun x => (f' x.1, x.2), scanned := r.scanned.map fun x => (f' x.1, x.2) }
def State.onSegId (s : State) (n id : Nat) (f : Seg → Seg) : State :=
  s.onIsle n fun i => { i with rings := i.rings.map fun r => r.onSegId id f }

/-- R301: the CONTAIN at a contribution. `q` is the request of an operation that issues. -/
def State.collContain (s : State) (n : Nat) (o : CollOp) (pa : Nat) (q : Option Req) : State :=
  s.onSegId n o.seg fun g => g.detect { Rec.blank with
    kind := 7, cause := 3, pois := true, pt := s.pt, d0 := pa
    vs := (match q with | some _ => (g.live.stripe s.cur.p).vs | none => 0xFFFF)
    elem := (match q with | some x => x.elem | none => 0x1F)
    slot := (match q with | some x => x.slot | none => 0x3F)
    ord := (match q with | some x => x.ord | none => 0)
    argix := (match q with | some x => g.argix x.run x.ord | none => 0)
    chain := (match q with | some x => x.chain | none => 0) }

/-- R296, R301, R304: the contribution of an operation read and sent to the members of its effective set. -/
def State.contribute (s : State) (n slot : Nat) (q : Option Req) : State :=
  match (s.isle n).op slot with
  | none => s
  | some o =>
    let (data, bad) := s.contribution n o
    match bad with
    | some pa =>
      ((s.collContain n o pa q).collAbortAll n o.sys o.comm o.seqNo 11 o.eff).collDone n slot 11 0
    | none =>
      let s := o.eff.foldl (fun s m => s.collSend n o.sys o.view m (.collData o.comm o.seqNo o.sig o.w (o.partFor data m) false)) s
      let s := s.charge n o.tenant 8 ((o.eff.filter fun m => m.1 != s.panel).flatMap fun m => o.partFor data m).length
      s.onOp n slot fun o => { o with recv := ⟨s.member n, o.sig, o.w, o.partFor data (s.member n)⟩ :: o.recv, since := s.pt }

/-! ## Issue (R296) -/

/-- An operation from a descriptor. -/
def CollOp.ofLanes (f : Nat) (l : Lanes) : CollOp :=
  { (default : CollOp) with
    kind := f, src := lane64 l 0, dst := lane64 l 2, count := (l.get 4).toNat, ctl := (l.get 5).toNat, w := l.get 6,
    root := (l.get 7).toNat, comm := fld (l.get 5).toNat 8 4 }

/-- R296: whether the slot that the step names is free. -/
def State.opSlotFree (s : State) (n slot : Nat) : Bool := decide (slot < 256) && ((s.isle n).op slot).isNone

/-- R296: the id of an operation. -/
def opId (slot ctl gen : Nat) : Nat := slot + fld ctl 12 4 * 2 ^ 10 + fld ctl 16 2 * 2 ^ 14 + gen % 2 ^ 16 * 2 ^ 16

/-- R305: the segment subscribes to a scope. -/
def Seg.subscribe (g : Seg) (sys : Bool) : Seg := if sys then { g with subS := true } else { g with subP := true }

/-- R296: an operation issued into slot `cur.x`. -/
def State.issueColl (s : State) (p f : Nat) (q : Req) : State :=
  let n := s.cur.n
  let slot := s.cur.x
  let g := s.segD n s.cur.k
  let o := CollOp.ofLanes f q.data
  let c := (s.isle n).comm o.comm
  let mb := s.memb n c.sys
  let set := s.formSet n c
  let gen := match lookupN slot (s.isle n).opGens with | some x => (x + 1) % 2 ^ 16 | none => 0
  let o := { o with
    gen := gen, seg := g.id.toNat, ring := s.cur.k, tenant := g.tenant, sys := c.sys, seqNo := c.seq, first := set, eff := set,
    view := mb.num, since := s.pt, discard := q.dest == .none }
  let s := s.onIsle n fun i => { i with ops := i.ops ++ [(slot, o)], opGens := insertN slot gen i.opGens }
  let s := s.onCurSeg fun g => g.subscribe c.sys
  let s := s.giveReply p q.no
    (dataTok (Lanes.ofList [BitVec.ofNat 32 (opId slot o.ctl gen), BitVec.ofNat 32 mb.num]) false q.seqv q.seq) g.wck
  let take := fun (s : State) => s.onIsle n fun i => { i with comms := upd (fun c => { c with seq := c.seq + 1 }) i.comms o.comm }
  let listed := c.lists s.panel (s.member n)
  let fail := fun (s : State) (code : Nat) =>
    ((take s).collAbortAll n c.sys o.comm c.seq 11 (mb.members.filter fun m => c.lists s.panel m)).collDone n slot code 0
  let ack := if c.sys then g.ackS else g.ackP
  if !listed then s.collDone n slot 9 0
  else if !o.formed q.data || !c.en || c.tenant != g.tenant || (f == 3 && !set.contains o.rootM) then fail s 9
  else if mb.st = .isolated then s.collDone n slot 4 0
  else if ack ≠ mb.num then s.collDone n slot 3 0
  else
    match s.collXlate n o with
    | none => fail s 10
    | some m => ((take s).onOp n slot fun o => { o with map := m }).contribute n slot (some q)

/-! ## Completion (R293, R297) -/

/-- Bytes of a result written, setting lagoon granules full (R297). -/
def State.collFill (s : State) (o : CollOp) (va : Nat) (bs : List Byte) : State :=
  s.fillCells o.tenant ((bs.zip (List.range bs.length)).filterMap fun x =>
    (o.leaf ((va + x.2) % 2 ^ 64)).map fun l => (l.pa, x.1))

/-- Element `i` of a contribution. -/
def elemOf (data : List Byte) (sz i : Nat) : Nat := ofLe ((data.drop (i * sz)).take sz)

/-- The contribution of a member. -/
def CollOp.from_ (o : CollOp) (m : Member) : List Byte :=
  match o.recv.find? fun c => c.src == m with
  | some c => c.data
  | none => []

/-- R294: reduced elements `lo` to `hi - 1`, with their flags. -/
def CollOp.reduced (o : CollOp) (lo hi : Nat) : List FRes :=
  let xs := o.eff.map o.from_
  let rew := o.mode == 1 && o.redop == 0 && decide (0 < o.ints)
  (List.range (hi - lo)).map fun d =>
    let r := redElem o.ty o.redop (xs.map fun x => elemOf x o.esize (lo + d))
    if rew then let z := redScale o.ty r.1 (redWeight o.w o.n0 o.eff.length); (z.1, r.2 ||| z.2) else r

/-- R293: what a completed operation writes: pairs of an address and bytes, and its flags. -/
def CollOp.result (o : CollOp) (me : Member) : List (Nat × List Byte) × Nat :=
  let sz := o.esize
  let blk := o.count * sz
  let put := fun (r : List FRes) => r.flatMap fun (x : FRes) => leBytes sz x.1
  let fl := fun (r : List FRes) => r.foldl (fun acc (x : FRes) => acc ||| x.2) 0
  match o.kind with
  | 0 => let r := o.reduced 0 o.count; ([(o.dst, put r)], fl r)
  | 1 =>
    let k := o.rank me
    let n := o.eff.length
    let r := o.reduced (k * o.count / n) ((k + 1) * o.count / n)
    ([(o.dst, put r)], fl r)
  | 3 => ([(o.dst, (o.from_ o.rootM).take blk)], 0)
  | _ => ((o.eff.filterMap fun m => (findIdx (· == m) o.first).map fun x => (o.dst + x * blk, (o.from_ m).take blk)), 0)

/-- Every member of the effective set has contributed. -/
def CollOp.complete (o : CollOp) : Bool := o.eff.all fun m => o.recv.any fun c => c.src == m

/-- R454: an operation whose effective set lies within a cut pauses once its segment has recorded. -/
def State.opPaused (s : State) (n : Nat) (o : CollOp) : Bool :=
  s.cutHeld n o.seg && match (s.isle n).dump.coord with
  | some (c, _, _) => o.eff.all fun m => m.1 == s.panel && bitN (s.isle c).dump.mask m.2
  | none => false

/-- COLL_COMPLETE (R297): the operation in slot `cur.j` of isle `cur.n` has every contribution and writes its result. -/
def execCollComplete (s : State) : Res :=
  let n := s.cur.n
  match (s.isle n).op s.cur.j with
  | some o =>
    if o.status.isNone && o.complete && !s.opPaused n o then
      let (ws, fl) := if o.count = 0 then ([], 0) else o.result (s.member n)
      let s := ws.foldl (fun s w => s.collFill o w.1 w.2) s
      .next (s.collDone n s.cur.j (if o.ints = 0 then 0 else 1) (BitVec.ofNat 6 fl))
    else .next s
  | none => .next s

/-! ## Flits of an operation (R289, R296) -/

def State.flitAt (s : State) (j : Nat) : Option Flit := s.net[j]?
def State.dropFlit (s : State) (j : Nat) : State := { s with net := dropAt s.net j }

/-- The slot of the operation in flight with a communicator and sequence number. -/
def Isle.opBySeq (i : Isle) (comm seq : Nat) : Option (Nat × CollOp) :=
  i.ops.find? fun o => o.2.comm == comm && o.2.seqNo == seq && o.2.status.isNone

/-- The flit `j` of the network addressed to isle `n` of this panel. -/
def State.flitFor (s : State) (n j : Nat) : Option Flit :=
  match s.flitAt j with
  | some f => if f.dst = s.member n ∧ (s.isle n).up then some f else none
  | none => none

/-- VMAX follows every number seen (R303). -/
def State.sawView (s : State) (n : Nat) (f : Flit) : State :=
  s.onMemb n f.sys fun m => { m with vmax := max m.vmax f.view }

/-- COLL_FLIT_RECEIVE (R289): flit `cur.j` at isle `cur.n`. One of another number is dropped; one whose operation has not
issued here waits; one that disagrees completes the operation with MISMATCH on every member. -/
def execCollFlitReceive (s : State) : Res :=
  let n := s.cur.n
  match s.flitFor n s.cur.j with
  | some f =>
    match f.body with
    | .collData comm seq sig w data _ =>
      if f.view ≠ (s.memb n f.sys).num then .next ((s.dropFlit s.cur.j).sawView n f)
      else match (s.isle n).opBySeq comm seq with
        | some (slot, o) =>
          let s := (s.dropFlit s.cur.j).sawView n f
          if sig ≠ o.sig then .next ((s.collAbortAll n o.sys o.comm o.seqNo 6 (insMember f.src o.eff)).collDone n slot 6 0)
          else .next (s.onOp n slot fun o => { o with recv := o.recv.filter (fun c => c.src != f.src) ++ [⟨f.src, sig, w, data⟩] })
        | none => if seq < ((s.isle n).comm comm).seq then .next ((s.dropFlit s.cur.j).sawView n f) else .next s
    | _ => .next s
  | none => .next s

/-- COLL_ABORT_RECEIVE (R296, R299, R300): the abort of flit `cur.j` completes the operation that it names. -/
def execCollAbortReceive (s : State) : Res :=
  let n := s.cur.n
  match s.flitFor n s.cur.j with
  | some f =>
    match f.body with
    | .collAbort comm seq why =>
      match (s.isle n).opBySeq comm seq with
      | some (slot, _) => .next (((s.dropFlit s.cur.j).sawView n f).collDone n slot why 0)
      | none => if seq < ((s.isle n).comm comm).seq then .next ((s.dropFlit s.cur.j).sawView n f) else .next s
    | _ => .next s
  | none => .next s

/-- R300: the count of an operation is suspended while its segment is frozen or pre-empted. -/
def State.collFrozen (s : State) (n : Nat) (o : CollOp) : Bool := s.segStands n o.ring o.seg

/-- COLTOUT_EXPIRE (R300): the operation in slot `cur.j`. -/
def execColtoutExpire (s : State) : Res :=
  let n := s.cur.n
  match (s.isle n).op s.cur.j with
  | some o =>
    if o.status.isNone && !s.collFrozen n o && !s.opPaused n o && decide ((s.isle n).colTout ≤ s.pt - o.since) then
      .next ((s.collAbortAll n o.sys o.comm o.seqNo 11 o.eff).collDone n s.cur.j 7 0)
    else .next s
  | none => .next s

/-! ## CWAIT and CABRT (R298, R299) -/

/-- R298: the operation of a segment that an id names. -/
def State.opOfId (s : State) (n seg id : Nat) : Option (Nat × CollOp) :=
  match (s.isle n).op (id % 256) with
  | some o => if o.gen = fld id 16 16 ∧ o.seg = seg then some (id % 256, o) else none
  | none => none

/-- R298: the lanes of a status. -/
def CollStatus.lanes (c : CollStatus) : Lanes :=
  Lanes.ofList [BitVec.ofNat 32 c.code, BitVec.ofNat 32 c.view, BitVec.ofNat 32 c.n, c.flags.setWidth 32, BitVec.ofNat 32 c.ints,
    BitVec.ofNat 32 c.rank]

/-- R298: the reply of a CWAIT whose operation has completed, or that names none, and its slot freed. -/
def State.cwaitReply (s : State) (p : Nat) (q : Req) : State :=
  let g := s.segD s.cur.n s.cur.k
  match s.opOfId s.cur.n g.id.toNat (q.data.get 0).toNat with
  | some (slot, o) => match o.status with
    | some st => (s.onIsle s.cur.n fun i => { i with ops := i.ops.filter fun x => x.1 != slot }).giveReply p q.no
        (dataTok st.lanes false q.seqv q.seq) g.wck
    | none => s
  | none => s.giveReply p q.no (dataTok (Lanes.ofList [12]) false q.seqv q.seq) g.wck

/-- R298: whether a CWAIT has its answer. -/
def State.cwaitReady (s : State) (q : Req) : Bool :=
  match s.opOfId s.cur.n (s.segD s.cur.n s.cur.k).id.toNat (q.data.get 0).toNat with
  | some (_, o) => o.status.isSome
  | none => true

/-- CWAIT performed: it parks while its operation is in flight. -/
def State.performCwait (s : State) (p : Nat) (q : Req) : State :=
  if s.cwaitReady q then s.cwaitReply p q else s.onWharf p fun w => { w with parked := w.parked ++ [q] }

/-- CWAIT_WAKE (R298): the parked CWAIT with request number `cur.j`. -/
def execCwaitWake (s : State) : Res :=
  match (s.wharf s.cur.p).parked.find? fun q => q.no == s.cur.j && q.op == .cwait with
  | some q =>
    if s.cwaitReady q && !(s.segD s.cur.n s.cur.k).stopped then
      .next ((s.onWharf s.cur.p fun w => { w with parked := w.parked.filter fun x => x.no != q.no }).cwaitReply s.cur.p q)
    else .next s
  | none => .next s

/-- R299: CABRT performed. -/
def State.performCabrt (s : State) (q : Req) : State :=
  let n := s.cur.n
  match s.opOfId n (s.segD n s.cur.k).id.toNat (q.data.get 0).toNat with
  | some (slot, o) =>
    if o.status.isNone then (s.collAbortAll n o.sys o.comm o.seqNo 5 o.eff).collDone n slot 5 0 else s
  | none => s

/-! ## Installing a view (R304, R305) -/

/-- R304: one operation of the scope interrupted by the install of a view. -/
def State.interruptOp (s : State) (n slot : Nat) (members : List Member) (v : Nat) : State :=
  match (s.isle n).op slot with
  | none => s
  | some o =>
    let gone := o.kind == 3 && !members.contains o.rootM
    let s := s.onOp n slot fun o =>
      { o with ints := o.ints + 1, recv := [], view := v, eff := o.eff.filter fun m => members.contains m, since := s.pt }
    if gone then s.collDone n slot 8 0
    else if o.mode = 2 then s.collDone n slot 2 0
    else s.contribute n slot none

/-- R305: the words of a VIEW record. -/
def viewWords (sys : Bool) (old new : Nat) (was now : List Member) (nops : Nat) (ids : List Nat) : List Nat :=
  let dep := was.filter fun m => !now.contains m
  let join := now.filter fun m => !was.contains m
  let di := maskOf (dep.map (·.2))
  let dp := if sys then maskOf (dep.map (·.1)) else 0
  let ji := maskOf (join.map (·.2))
  [sys.toNat + nops * 256, old, new, 0, di % 2 ^ 32, di / 2 ^ 32, dp % 2 ^ 32, dp / 2 ^ 32, ji % 2 ^ 32, ji / 2 ^ 32] ++
  [0, 1, 2, 3, 4, 5].map fun i => nth 0 ids i

/-- R305: the membership-change trap of a segment. `hit` are the interrupted operations: segment and id. -/
def State.viewTrap (s : State) (n : Nat) (g : Seg) (sys : Bool) (old new : Nat) (was now : List Member) (hit : List (Nat × Nat)) : State :=
  let ids := (hit.filter fun x => x.1 == g.id.toNat).map (·.2)
  if !ids.isEmpty || (if sys then g.subS else g.subP) then
    let (k, s) := s.nops ids.length
    s.postRec n g.tenant { Rec.blank with kind := 0, frz := false, seg := g.id.toNat, view := viewWords sys old new was now k ids } 0
  else s

/-- R279: addresses on isles or panels that a view no longer holds. -/
def leftView (sys : Bool) (panel : Nat) (gone : List Member) (now : List Member) (pa : Nat) : Bool :=
  if paPanel pa then !sys && gone.contains (panel, paIsle pa)
  else if 0x100 ≤ paSpace pa && paSpace pa < 0x140 then
    sys && (gone.contains (paSpace pa - 0x100, paIsle pa) || (gone.any (fun m => m.1 == paSpace pa - 0x100) && !now.any fun m => m.1 == paSpace pa - 0x100))
  else false

/-- R304: a committed view installed on an isle. -/
def State.installView (s : State) (n : Nat) (sys : Bool) (v : Nat) (set : List Member) : State :=
  let old := s.memb n sys
  let set := set.foldl (fun l m => insMember m l) []
  let s := s.onMemb n sys fun m =>
    { m with num := v, members := set, st := .stable, vmax := max m.vmax v, prop := none, joiners := [], prep := none, sinceReset := false,
             heard := set.map fun x => (x, s.pt), susp := m.susp.filter fun x => set.contains x }
  let s := s.onIsle n fun i => { i with vchg := BitVec.ofNat 32 (satAdd (2 ^ 32 - 1) i.vchg.toNat 1) }
  let hit := (s.isle n).ops.filter fun o => o.2.sys == sys && o.2.status.isNone
  let s := hit.foldl (fun s o => s.interruptOp n o.1 set v) s
  let ids := hit.map fun o => (o.2.seg, opId o.1 o.2.ctl o.2.gen)
  let s := (s.isle n).segments.foldl (fun s g => s.viewTrap n g sys old.num v old.members set ids) s
  s.copiesLeave n (leftView sys s.panel (old.members.filter fun m => !set.contains m) set)

/-- R303: an engine goes ISOLATED: every operation of the scope in flight completes with NOQUORUM. -/
def State.isolate (s : State) (n : Nat) (sys : Bool) : State :=
  let s := s.onMemb n sys fun m => { m with st := .isolated, prop := none, prep := none }
  ((s.isle n).ops.filter fun o => o.2.sys == sys && o.2.status.isNone).foldl (fun s o => s.collDone n o.1 4 0) s

end Sys2Proof.Machine
end

