-- ==== Sys2Proof/Machine/View.lean ====
section
/-! DEFINITION. The view instructions, major 0x77, and the membership protocol (R302, R303, R307, R309 to R311). -/

namespace Sys2Proof.Machine

/-! ## VGET, VACK, VJOIN -/

/-- VGET (R309), of what the cycle found; it subscribes to both scopes (R305). -/
def execVget (t : BitVec 6) (d : BitVec 5) (s : State) : Res :=
  let l := (s.segD s.cur.n s.cur.k).vlanes
  .next ((s.fire t [] [] fun _ s => s.putD d.toNat (Val.plain l) 0).onCurSeg fun g => (g.subscribe false).subscribe true)

/-- VACK (R310). The number takes effect at the end of the cycle (`Seg.endAcks`). -/
def execVack (t : BitVec 6) (a : BitVec 5) (s : State) : Res :=
  .next (s.fire t [rd a false] [] fun vs s =>
    let v := nth default vs 0
    let scope := (v.lanes.get 1).toNat
    if v.pois || (scope != 5 && scope != 6) then s
    else
      let sys := scope == 6
      let s := s.onCurSeg fun g => g.subscribe sys
      if (v.lanes.get 0).toNat = (s.memb s.cur.n sys).num then
        s.onCurSeg fun g => if sys then { g with nackS := some (v.lanes.get 0).toNat } else { g with nackP := some (v.lanes.get 0).toNat }
      else s)

/-- VJOIN (R311): an engine ISOLATED since the reset of its isle begins to join, in both scopes. -/
def execVjoin (t : BitVec 6) (s : State) : Res :=
  let n := s.cur.n
  let s := (s.begin t []).onCurSeg fun g => (g.subscribe false).subscribe true
  let can := fun (m : Memb) => m.st == .isolated && m.sinceReset
  if can (s.memb n false) && can (s.memb n true) then
    .next ((s.onMemb n false fun m => { m with st := .joining, sentHb := none }).onMemb n true fun m =>
      { m with st := .joining, sentHb := none })
  else .next s

/-! ## Heartbeats and suspicion (R302) -/

/-- The scope of the step: 0 panel, 1 system. -/
def State.curSys (s : State) : Bool := s.cur.k == 1

/-- R302: the leader as an isle sees it: the lowest-ranked member that it does not suspect. -/
def Memb.leader (m : Memb) : Option Member := m.members.find? fun x => !m.susp.contains x

/-- R302: the members to which a member sends heartbeats. -/
def Memb.beats (m : Memb) (sys : Bool) (x : Member) : List Member :=
  if !sys then m.members.filter (· != x)
  else
    let l := m.members.length
    let r := m.rank x
    let nb := if l = 0 then [] else [nth (0, 0) m.members ((r + l - 1) % l), nth (0, 0) m.members ((r + 1) % l)]
    ((nb ++ (match m.leader with | some y => [y] | _ => [])).foldl (fun acc y => insMember y acc) []).filter (· != x)

def State.membSend (s : State) (n : Nat) (sys : Bool) (to_ : Member) (b : Payload) : State :=
  s.postFlit ⟨s.member n, to_, sys, (s.memb n sys).num, b⟩

/-- HEARTBEAT_SEND (R302): every 500 pt. -/
def execHeartbeatSend (s : State) : Res :=
  let n := s.cur.n
  let m := s.memb n s.curSys
  let due := match m.sentHb with | some t => decide (500 ≤ s.pt - t) | none => true
  if (s.isle n).up && due && m.st != .joining && !m.members.isEmpty then
    let s := (m.beats s.curSys (s.member n)).foldl (fun s x => s.membSend n s.curSys x .heartbeat) s
    .next (s.onMemb n s.curSys fun m => { m with sentHb := some s.pt })
  else .next s

/-- R303: a proposal of a set with the next number, `joiners` among it; ISOLATED when no number is left (R289). -/
def State.propose (s : State) (n : Nat) (sys : Bool) (set joiners : List Member) : State :=
  let m := s.memb n sys
  let v := m.vmax + 1
  if 2 ^ 32 ≤ v then s.isolate n sys
  else
    let s := (set.filter (· != s.member n)).foldl (fun s x => s.membSend n sys x (.propose v set)) s
    s.onMemb n sys fun m =>
      { m with st := .proposing, vmax := v, acked := max m.acked v, prop := some (v, set, [s.member n]), joiners := joiners, prep := none,
               timer := s.pt + 10000 }

/-- R303: a suspicion, in each state. -/
def State.suspect (s : State) (n : Nat) (sys : Bool) (x : Member) : State :=
  let m := s.memb n sys
  let m' := { m with susp := insMember x m.susp }
  match m.st with
  | .stable =>
    let s := s.onMemb n sys fun _ => m'
    match m'.leader with
    | some l =>
      if l = s.member n then s.propose n sys (m.members.filter fun y => !m'.susp.contains y) []
      else s.membSend n sys l (.suspect x)
    | none => s
  | .proposing => s.onMemb n sys fun _ => { m' with pending := insMember x m.pending }
  | .prepared => s.onMemb n sys fun _ => { m' with pending := insMember x m.pending }
  | _ => s

/-- SUSPECT_TIMEOUT (R302): peer (`cur.p`, `cur.e`) has sent no heartbeat for 5,000 pt. A peer is watched by those to
whom it sends heartbeats. -/
def execSuspectTimeout (s : State) : Res :=
  let n := s.cur.n
  let sys := s.curSys
  let m := s.memb n sys
  let x : Member := (s.cur.p, s.cur.e)
  let last := match m.heard.find? fun h => h.1 == x with | some h => h.2 | none => 0
  if (s.isle n).up && m.members.contains x && !m.susp.contains x && (m.beats sys x).contains (s.member n) &&
      decide (5000 ≤ s.pt - last) then .next (s.suspect n sys x)
  else .next s

/-- R303: the membership flit `cur.j` at isle `cur.n`, taken from the network, with the state that has seen its number. -/
def State.takeMemb (s : State) : Option (Flit × State) :=
  match s.flitFor s.cur.n s.cur.j with
  | some f => some (f, (s.dropFlit s.cur.j).sawView s.cur.n f)
  | none => none

/-- HEARTBEAT_RECEIVE (R302): the peer's count starts anew, and it is suspected no longer. -/
def execHeartbeatReceive (s : State) : Res :=
  let n := s.cur.n
  match s.takeMemb with
  | some (f, s') =>
    match f.body with
    | .heartbeat => .next (s'.onMemb n f.sys fun m =>
        { m with heard := m.heard.filter (fun h => h.1 != f.src) ++ [(f.src, s.pt)], susp := m.susp.filter (· != f.src) })
    | _ => .next s
  | none => .next s

/-- FATAL_REPORT_RECEIVE (R302). -/
def execFatalReportReceive (s : State) : Res :=
  match s.takeMemb with
  | some (f, s') =>
    match f.body with
    | .fatal => if (s'.memb s.cur.n f.sys).members.contains f.src then .next (s'.suspect s.cur.n f.sys f.src) else .next s'
    | _ => .next s
  | none => .next s

/-- SUSPECT_RECEIVE (R303): the leader acts as on its own suspicion; the suspicion reported counts in who leads (log 27). -/
def execSuspectReceive (s : State) : Res :=
  let n := s.cur.n
  match s.takeMemb with
  | some (f, s') =>
    match f.body with
    | .suspect x =>
      let m := s'.memb n f.sys
      let leads := ({ m with susp := insMember x m.susp } : Memb).leader == some (s.member n)
      if m.members.contains x && (leads || m.st != .stable) then .next (s'.suspect n f.sys x) else .next s'
    | _ => .next s
  | none => .next s

/-! ## Agreement (R303) -/

/-- R303: a proposal acknowledged. -/
def State.ackProposal (s : State) (n : Nat) (sys : Bool) (v : Nat) (to_ : Member) : State :=
  (s.membSend n sys to_ (.ack v)).onMemb n sys fun m =>
    { m with st := .prepared, prop := none, joiners := [], prep := some (v, to_), acked := max m.acked v, vmax := max m.vmax v, timer := s.pt + 10000 }

/-- PROPOSE_RECEIVE (R303). -/
def execProposeReceive (s : State) : Res :=
  let n := s.cur.n
  match s.takeMemb with
  | some (f, s') =>
    match f.body with
    | .propose v _ =>
      let s' := s'.onMemb n f.sys fun m => { m with vmax := max m.vmax v }
      let m := s'.memb n f.sys
      match m.st with
      | .stable => if m.acked < v then .next (s'.ackProposal n f.sys v f.src) else .next s'
      | .prepared => if m.acked < v then .next (s'.ackProposal n f.sys v f.src) else .next s'
      | .proposing =>
        let mine := match m.prop with | some x => x.1 | none => 0
        if mine < v ∨ (mine = v ∧ memberBefore f.src (s.member n)) then .next (s'.ackProposal n f.sys v f.src) else .next s'
      | _ => .next s'
    | _ => .next s
  | none => .next s

/-- R303: more than half of the members of the current view. Joiners do not count. -/
def Memb.majority (m : Memb) (acks : List Member) : Bool :=
  decide (m.members.length < 2 * (acks.filter fun x => m.members.contains x).length)

/-- R303: what follows an install: the recorded suspicions that still stand are acted on, one after the other. -/
def State.actPending (s : State) (n : Nat) (sys : Bool) : State :=
  let m := s.memb n sys
  let s := s.onMemb n sys fun m => { m with pending := [] }
  (m.pending.filter fun x => m.members.contains x && m.susp.contains x).foldl (fun s x => s.suspect n sys x) s

/-- R303: a proposal committed: the acknowledged set with the joiners, sent to the members of the old view and the new,
and installed. -/
def State.commit (s : State) (n : Nat) (sys : Bool) : State :=
  let m := s.memb n sys
  match m.prop with
  | some (v, set, acks) =>
    let new := acks ++ set.filter fun x => m.joiners.contains x && !acks.contains x
    let to_ := (m.members ++ new).foldl (fun l x => insMember x l) []
    let s := (to_.filter (· != s.member n)).foldl (fun s x => s.membSend n sys x (.commit v new)) s
    (s.installView n sys v new).actPending n sys
  | none => s

/-- ACK_RECEIVE (R303): the commit falls when every proposed member of the view has acknowledged. -/
def execAckReceive (s : State) : Res :=
  let n := s.cur.n
  match s.takeMemb with
  | some (f, s') =>
    match f.body with
    | .ack v =>
      let m := s'.memb n f.sys
      match m.st, m.prop with
      | .proposing, some (pv, set, acks) =>
        if pv = v ∧ set.contains f.src then
          let acks := insMember f.src acks
          let s' := s'.onMemb n f.sys fun m => { m with prop := some (pv, set, acks) }
          let all := set.all fun x => m.joiners.contains x || acks.contains x
          if all && m.majority acks then .next (s'.commit n f.sys) else .next s'
        else .next s'
      | _, _ => .next s'
    | _ => .next s
  | none => .next s

/-- PROPOSE_TIMER_EXPIRE (R303). -/
def execProposeTimerExpire (s : State) : Res :=
  let n := s.cur.n
  let sys := s.curSys
  let m := s.memb n sys
  match m.st, m.prop with
  | .proposing, some (_, _, acks) =>
    if m.timer ≤ s.pt then .next (if m.majority acks then s.commit n sys else s.isolate n sys) else .next s
  | _, _ => .next s

/-- PREPARED_TIMER_EXPIRE (R303): the proposer is suspected; where another isle leads, the isle stays PREPARED with its
timer started anew (log 27). -/
def execPreparedTimerExpire (s : State) : Res :=
  let n := s.cur.n
  let sys := s.curSys
  let m := s.memb n sys
  match m.st, m.prep with
  | .prepared, some (_, from_) =>
    if m.timer ≤ s.pt then
      let t := (s.onMemb n sys fun m => { m with st := .stable }).suspect n sys from_
      if (t.memb n sys).st = .stable then
        .next (t.onMemb n sys fun m => { m with st := .prepared, timer := s.pt + 10000 })
      else .next t
    else .next s
  | _, _ => .next s

/-- COMMIT_RECEIVE (R303). -/
def execCommitReceive (s : State) : Res :=
  let n := s.cur.n
  match s.takeMemb with
  | some (f, s') =>
    match f.body with
    | .commit v set =>
      let m := s'.memb n f.sys
      let s' := s'.onMemb n f.sys fun m => { m with vmax := max m.vmax v }
      if m.st = .isolated then .next s'
      else if set.contains (s.member n) then
        if m.st = .joining ∨ m.num < v then .next ((s'.installView n f.sys v set).actPending n f.sys) else .next s'
      else if m.st ≠ .joining ∧ m.num < v then .next (s'.isolate n f.sys)
      else .next s'
    | _ => .next s
  | none => .next s

/-! ## Joining (R303, R307) -/

/-- The isles of a scope: those of this panel and, for the system, of the peer panels that the links show. -/
def State.scopeIsles (s : State) (sys : Bool) : List Member :=
  let panels := s.panel :: (if sys then (s.ports.filter fun p => p.up && !p.bridge).map (·.peer) else [])
  (dedup panels).flatMap fun p => (List.range 40).map fun i => (p, i)

/-- JOIN_SEND (R303): every 500 pt. -/
def execJoinSend (s : State) : Res :=
  let n := s.cur.n
  let m := s.memb n s.curSys
  let due := match m.sentHb with | some t => decide (500 ≤ s.pt - t) | none => true
  if m.st == .joining && due then
    let s := ((s.scopeIsles s.curSys).filter (· != s.member n)).foldl (fun s x => s.membSend n s.curSys x .join) s
    .next (s.onMemb n s.curSys fun m => { m with sentHb := some s.pt })
  else .next s

/-- JOIN_RECEIVE (R303): the leader in STABLE proposes a view with the joiner, who may still be a member of the view that its reset
left. -/
def execJoinReceive (s : State) : Res :=
  let n := s.cur.n
  match s.takeMemb with
  | some (f, s') =>
    match f.body with
    | .join =>
      let m := s'.memb n f.sys
      if m.st = .stable ∧ m.leader = some (s.member n) then
        .next (s'.propose n f.sys (insMember f.src m.members) [f.src])
      else .next s'
    | _ => .next s
  | none => .next s

end Sys2Proof.Machine
end

