-- ==== Sys2Proof/Machine/Issue.lean ====
section
/-! DEFINITION. What the wharf does by itself: a request issues, a reply lands, a parked LDS wakes, a write-combine line
drains (R194, R199 to R208, R229, R241, R268). -/

namespace Sys2Proof.Machine

/-! ## Poisoned operands (R201, R264, R285, R301) -/

/-- The CONTAIN cause of a request whose operand is poisoned, 0 for the reads, which reply poisoned instead. -/
def ReqOp.containCause (op : ReqOp) : Nat :=
  if op.isStore then 1
  else if op.isAtom then 6
  else if op.isColl then 3
  else if op.isBarrier || op.isCopy || op == .cpyx then 2
  else 0

/-- R429: a request that keeps its segment from being replayed. -/
def ReqOp.taints (op : ReqOp) : Bool :=
  match op with
  | .coll _ => true
  | .cpy _ => true
  | .binit => true
  | .barv => true
  | .bexp => true
  | .bwait => true
  | .atom f => !([1, 2, 3, 4, 5, 6, 8].contains f)
  | _ => false

/-- R213: the virtual addresses of a request's accesses lie in the range of a re-latch in progress. -/
def State.reqRelatching (s : State) (n : Nat) (g : Seg) (q : Req) : Bool :=
  q.accesses.any fun a => s.relatching n g.tenant ((nth default g.regions a.reg).base + a.off)

/-- R213: the request stands behind the re-latch token and touches the range. -/
def State.behindRelatch (s : State) (n : Nat) (g : Seg) (q : Req) : Bool :=
  match g.relatchAt with
  | some no => decide (no ≤ q.no) && s.reqRelatching n g q
  | none => false

/-- R276, R296: the slot that a copy or an operation needs is the one that the step names, and it is free. -/
def State.slotsOk (s : State) (q : Req) : Bool :=
  match q.op with
  | .cpy _ => s.slotFree s.cur.n s.cur.x
  | .coll _ => s.opSlotFree s.cur.n s.cur.x
  | _ => true

/-- A request held at the head of its chain with a fault (R199). -/
def State.holdFault (s : State) (p : Nat) (q : Req) (r : Rec) : State :=
  (s.onWharf p fun w => w.hold q).onCurSeg fun g => g.detect r

/-- A request that issues, without a fault: it is performed, flies toward its banks, or starts what it asks for. -/
def State.performReq (s : State) (p : Nat) (q : Req) : State :=
  let q := { q with iss := (s.segD s.cur.n s.cur.k).wck }
  let lines := s.issueLines (s.segD s.cur.n s.cur.k) s.cur.n q
  if !s.atOnce p q lines then s.onWharf p fun w => { w with fly := w.fly ++ [⟨q, lines, lines, [], false⟩] }
  else match q.op with
  | .atom _ => s.issueAtom p q
  | .cpy f => s.issueCopy p f q
  | .cpyx => s.cancelCopy p q
  | .binit => s.performBarrier p q
  | .barv => s.performBarrier p q
  | .bexp => s.performBarrier p q
  | .bwait => s.performBarrier p q
  | .coll f => s.issueColl p f q
  | .cwait => s.performCwait p q
  | .cabrt => s.performCabrt q
  | _ => s.performMem p q

/-- R194, R235, R241: what every issuing request does first: it leaves its chain, uses issue cycles, and a release drains
the buffer. -/
def State.leaveChain (s : State) (p : Nat) (q : Req) : State :=
  let n := s.cur.n
  let g := s.segD n s.cur.k
  let lines := s.issueLines g n q
  let s := if q.op.isRelease then s.drainWharf p else s
  let s := s.onWharf p fun w => (w.unchain q).useLines g.wck lines
  if q.op.taints then s.onCurSeg fun g => { g with tainted := some (max q.run (g.tainted.getD 0)) } else s

/-- A request at its issue. -/
def State.issueReq (s : State) (p : Nat) (q : Req) : State :=
  let n := s.cur.n
  let g := s.segD n s.cur.k
  if q.null then (s.onWharf p fun w => w.unchain q).giveReply p q.no (nullTok q) g.wck
  else if (q.apois || q.dpois) && q.op.containCause != 0 then
    s.holdFault p q { g.reqRec s.pt p 7 q.op.containCause q 0 with pois := true, d0 := g.origin0 }
  else if q.apois then
    (s.onWharf p fun w => w.unchain q).giveReply p q.no (dataTok Lanes.zero true q.seqv q.seq) g.wck
  else
    match g.failing n q with
    | x :: r => s.holdFault p q (g.reqRec s.pt p 1 x.2 q (accLanes ((x :: r).map (·.1))))
    | [] =>
      match (if q.op.isBarrier then (g.objPa n q).bind s.objPois else none) with
      | some pa => s.holdFault p q { g.reqRec s.pt p 7 2 q 0 with pois := true, d0 := pa }
      | none => (s.leaveChain p q).performReq p { q with ahead := g.start.aheadOf p q }

/-- WHARF_REQUEST_ISSUE (R203): the request of chain `cur.j` of stripe `cur.p` that may issue. -/
def execWharfRequestIssue (s : State) : Res :=
  match s.issuable s.cur.p s.cur.j with
  | some q =>
    if s.behindRelatch s.cur.n (s.segD s.cur.n s.cur.k) q || !(q.null || s.slotsOk q) then .next s
    else .next (s.issueReq s.cur.p q)
  | none => .next s

/-! ## Replies (R205, R206) -/

/-- The type of the in-channel that a route from element `e` of stripe `p` reaches. -/
def Seg.routeType (g : Seg) (p e r : Nat) : BitVec 4 :=
  match routeElem e r with
  | some e' =>
    let vs := (g.live.stripe p).vs + (if routeKind r = 2 then 1 else 0)
    nth 0 (nth default (g.stripeImg vs).elems e').cfg.ltype (routeChan r)
  | none => 0

/-- R64, R83: the arc of a route takes one more token. -/
def Core.routeRoom (c st : Core) (p e r : Nat) : Bool :=
  match routeElem e r with
  | some e' =>
    if routeKind r = 2 then
      match c.successor p with
      | some q =>
        if c.arcParked ((c.stripe p).vs + 1) e' (routeChan r) || st.arcParked ((c.stripe p).vs + 1) e' (routeChan r) then decide (c.parkd.length < 32768)
        else decide ((nth [] (c.elem q e').inq (routeChan r)).length < 4)
      | none => decide (c.parkd.length < 32768)
    else decide ((nth [] (c.elem p e').inq (routeChan r)).length < 4)
  | none => true

/-- A reserved place filled. -/
def Slot.fill (no : Nat) (t : Token) (x : Slot) : Slot := if x = .rsv no then .tok t else x

/-- R205: the reserved place of a request filled, wherever it stands. -/
def Core.fillRsv (c : Core) (no : Nat) (t : Token) : Core :=
  { c with
    parkd := c.parkd.map fun x => { x with slot := x.slot.fill no t }
    stripes := c.stripes.map fun st => { st with elems := st.elems.map fun el =>
      { el with inq := el.inq.map fun l => l.map (Slot.fill no t), oq := el.oq.map fun l => l.map (Slot.fill no t) } } }

/-- R205: a v-register written by a reply; a null reply writes nothing. -/
def Elem.landV (el : Elem) (k : Nat) (t : Token) : Elem :=
  if t.kind = .null then el
  else { el with v := upd (fun _ => ⟨t.lanes, true, t.poison, t.seqv, if t.seqv then t.seq else 0, true⟩) el.v k }

/-- The landing of a reply, when its destination has room. -/
def Seg.land (g : Seg) (p : Nat) (x : Pend) (t : Token) : Option Seg :=
  let done := fun (g : Seg) => g.onWharf p fun w => { w with pend := w.pend.filter fun y => y.no != x.no }
  match x.dest with
  | .none => some (done g)
  | .vreg k => some ((done g).onElem p x.elem fun el => el.landV k t)
  | .out k =>
    let ty := (g.live.elem p x.elem).outType k
    some ((done g).onLive fun c => c.fillRsv x.no { t with ty := ty }.sealed)
  | .reply y =>
    let r := (nth 0 (g.live.elem p x.elem).img.cfg.yt y).toNat
    if g.live.routeRoom g.start p x.elem r then
      some ((done g).onLive fun c => c.send g.start p x.elem r (.tok { t with ty := g.routeType p x.elem r }.sealed))
    else none

/-- R206: every LDQ reply of the invocation that a marker on the marker path closes has landed: those of the element that fired
before it, whatever their targets. -/
def Wharf.markerDue (w : Wharf) (x : Pend) : Bool :=
  !w.pend.any fun y => y.elem == x.elem && decide (y.no < x.no) && (match y.dest with | .reply _ => true | _ => false) &&
    (match y.got with | some (t, _) => !t.kind.isMarker | none => true)

/-- REPLY_LAND (R205, R206): the reply of request `cur.j` lands when it is the first of its destination. -/
def execReplyLand (s : State) : Res :=
  let g := s.segD s.cur.n s.cur.k
  let w := s.wharf s.cur.p
  match w.pend.find? fun x => x.no == s.cur.j with
  | none => .next s
  | some x =>
    let first := match w.pend.find? fun y => y.elem == x.elem && y.dest == x.dest with | some y => y.no == x.no | none => false
    match x.got with
    | some (t, due) =>
      if first && (!t.kind.isMarker || w.markerDue x) && decide (due ≤ g.wck) && !g.clockHeld && (g.live.stripe s.cur.p).res then
        match g.land s.cur.p x t with
        | some g' => .next (s.onCurSeg fun _ => g')
        | none => .next s
      else .next s
    | none => .next s

/-- LDS_WAKE (R208, R229): the parked LDS with request number `cur.j`. -/
def execLdsWake (s : State) : Res :=
  let n := s.cur.n
  let g := s.segD n s.cur.k
  match (s.wharf s.cur.p).parked.find? fun q => q.no == s.cur.j && q.op == .lds with
  | some q =>
    if s.ldsReady g n q && !g.stopped then
      .next ((s.onWharf s.cur.p fun w => { w with parked := w.parked.filter fun x => x.no != q.no }).performLoad s.cur.p q)
    else .next s
  | none => .next s

/-- R194: the wharf drains what it still buffers: END has passed the stripe, or a fence waits for it. -/
def Seg.drainsNow (g : Seg) (p : Nat) : Bool :=
  g.passedEnd p (g.live.stripe p).run ||
  g.live.allFences.any fun x => decide (3 ≤ x.2.scope) || x.1 == p

/-- WC_LINE_DRAIN (R194): the oldest line of the buffer of stripe `cur.p`. -/
def execWcLineDrain (s : State) : Res :=
  let g := s.segD s.cur.n s.cur.k
  if g.drainsNow s.cur.p then
    .next ((s.drainLines ((s.wharf s.cur.p).wc.take 1)).onWharf s.cur.p fun w => { w with wc := w.wc.drop 1 })
  else .next s

end Sys2Proof.Machine
end

