-- ==== Sys2Proof/Machine/Scroll.lean ====
section
/-! DEFINITION. Configuration of elements and stripes, scrolling, state records, the pass buffer, and the stops of a
segment (R22, R79 to R88, R139, R226, R397 to R400, R408, R427, R428, R450). -/

namespace Sys2Proof.Machine

/-! ## Configuration (R139, R159, R175, R226, R408) -/

/-- The rules of an element image. -/
def ElemImg.instrs (i : ElemImg) : List Instr :=
  i.rules.filterMap fun w => match decodeRule w.toNat with
    | .ok x => some x
    | .error _ => none

/-- R160: the format and sparse mode that the loading rule of a plane tile gives it. -/
def ElemImg.tileMode (i : ElemImg) (n : Nat) : BitVec 4 × BitVec 2 :=
  (i.instrs.findSome? fun x => match x with
    | .plw _ o => if o.pl.toNat = n then some (nth 0 i.cfg.ltype o.ch.toNat, 0) else none
    | .plws _ o => if o.pl.toNat = n then some (nth 0 i.cfg.ltype o.ch.toNat, o.sp) else none
    | _ => none).getD (0, 0)

/-- R160: plane tile `n` as configured. -/
def ElemImg.tile (i : ElemImg) (n : Nat) : PlaneTile :=
  ⟨List.replicate 512 0, 0, false, 0, (i.tileMode n).2, (i.tileMode n).1, 0, false, false, List.replicate 16 0x7F,
   List.replicate 16 0x7F⟩

/-- R408: element `e` of virtual stripe `vs` as configured for run `run`, whose first argument index is `a0`; 0 stands for it until
the run is dealt, which gives the seeds and cursors anew (R139, R226, log 31). -/
def ElemImg.configure (i : ElemImg) (seed vs e a0 run : Nat) : Elem :=
  { (default : Elem) with
    on := true
    img := i
    v := List.replicate 16 VReg.empty
    pred := List.replicate 8 0
    ctr := i.cfg.ctr
    gen := i.cfg.agc.map fun g => g.at_ a0
    reord := List.replicate 256 none
    sr := srSeeds seed a0 vs e
    planes := (List.range 16).map i.tile
    acc := List.replicate 8 ⟨List.replicate 256 0, 0, 0, 0, false⟩
    late := List.replicate 11 0
    inq := List.replicate 4 []
    oq := List.replicate 4 []
    erun := run }

/-- A wharf with nothing in it. -/
def Wharf.empty : Wharf :=
  ⟨List.replicate 4 [], [], [], [], [], [], List.replicate 4 none, [], List.replicate 4 none, 0, 0⟩

/-- A physical stripe that holds no virtual stripe. -/
def Stripe.vacant : Stripe := { (default : Stripe) with vs := 4096, wharf := Wharf.empty }

/-- R22, R408: a virtual stripe configured for a run, not yet resident. -/
def Seg.configStripe (g : Seg) (vs run : Nat) : Stripe :=
  let im := g.stripeImg vs
  { Stripe.vacant with
    vs := vs, run := run, stg := true
    elems := (List.range 16).map fun e =>
      if tb im.mask e then (nth default im.elems e).configure g.image.seed vs e (g.argix run 0) run else default }

/-- R82, R178: the state that a record puts back, the descriptors of both kinds of tile included; no array work is left in them.
Every register so restored has been written (R408). -/
def Elem.restore (el r : Elem) : Elem :=
  { el with
    planes := r.planes.map fun x => { x with busy := 0 }
    acc := r.acc.map fun x => { x with pend := 0 }
    v := r.v.map fun x => { x with wr := true }
    pred := r.pred, ctr := r.ctr, holdTok := r.holdTok, holdLeft := r.holdLeft, reord := r.reord, nextSeq := r.nextSeq
    fflags := r.fflags }

/-- R82: the record of a virtual stripe at the boundary before a run. -/
def Seg.recordBefore (g : Seg) (vs run : Nat) : Option StateRec := g.srecs.find? fun x => x.vs == vs && x.run + 1 == run

/-- A stripe with a record put back, where there is one. -/
def Seg.restored (g : Seg) (st : Stripe) : Stripe :=
  match (if nth false g.image.stateful st.vs then g.recordBefore st.vs st.run else none) with
  | some r => { st with elems := (st.elems.zip r.elems).map fun x => if x.1.on then x.1.restore x.2 else x.1 }
  | none => st

/-- The pair of the sequence (run, virtual stripe) that follows one (R79). -/
def nextPair (n run vs : Nat) : Nat × Nat := if vs + 1 = n then (run + 1, 0) else (run, vs + 1)

/-- R80: the window of a ring of `p` stripes as at launch, from virtual stripe 0 of a run. The stripes in use are numbered 0 to
`p - 1` whichever stripe was lost (R11; the model's choice, log 52). -/
def Seg.window (g : Seg) (p run : Nat) : Seg :=
  let k := min g.image.nstripe (p - 1)
  let c : Core :=
    { stripes := (List.range p).map fun i =>
        if i < k then { g.restored (g.configStripe i run) with stg := false, res := true } else Stripe.vacant
      parkd := []
      xin := List.replicate g.image.chans.length [] }
  { g with live := c, start := c, nextVs := (nextPair g.image.nstripe run (k - 1)).2,
           nextRun := (nextPair g.image.nstripe run (k - 1)).1 }

/-- R436: after configuration a spare shadows the lowest configured element. -/
def Spare.onto (x : Spare) (mask : W16) : Spare :=
  { x with at_ := ((List.range 16).find? fun e => tb mask e).getD 0, eois := 0 }

/-- The spares of the stripes that a window configures. -/
def Ring.aimSpares (r : Ring) (g : Seg) : Ring :=
  { r with spares := (List.range r.spares.length).map fun p =>
      let x := nth default r.spares p
      if (g.live.stripe p).res then x.onto (g.stripeImg (g.live.stripe p).vs).mask else x }

/-- R447: a LOAD or EVICT record. -/
def State.traceStripe (s : State) (n k : Nat) (g : Seg) (kind p vs : Nat) (rec_ : Bool) : State :=
  s.postTrace n k g.tenant kind false g.id.toNat vs 0x1F 0x3F g.runsDealt (p + rec_.toNat * 64)

/-! ## The configuration cache (R85, R48) -/

/-- R85: the bytes that a ring's cache holds: stripe images and state records. -/
def Ring.cacheBytes (r : Ring) : Nat :=
  8192 * r.cache.length + match r.seg with
    | some g => g.srecs.foldl (fun acc x => if x.spilled then acc else acc + 26624 * (x.elems.filter (·.on)).length) 0
    | none => 0

/-- R85: images and records that are not in use leave, least recently used first; `fuel` bounds the search. -/
def Ring.cacheTrim (r : Ring) (pinned : Nat × Nat → Bool) : Nat → Ring
  | 0 => r
  | f + 1 =>
    if r.cacheBytes ≤ 2 ^ 22 then r
    else match findIdx (fun x => !pinned x) r.cache.reverse with
      | some i => { r with cache := dropAt r.cache (r.cache.length - 1 - i) }.cacheTrim pinned f
      | none => r

/-- R85: an image entered or used. -/
def Ring.cacheUse (r : Ring) (task vs : Nat) : Ring :=
  let pinned := fun (x : Nat × Nat) => x == (task, vs) || match r.seg with
    | some g => g.task == x.1 && g.live.stripes.any fun st => (st.res || st.stg) && st.vs == x.2
    | none => false
  { r with cache := (task, vs) :: r.cache.filter (· != (task, vs)) }.cacheTrim pinned (r.cache.length + 1)

/-- R85: where a state record of a segment on ring `k` stands in its task's state area, with its length: two records of STATEB bytes
for each stateful stripe, in ascending order; a run's number picks one of the two (log 31). -/
def State.recordAt (s : State) (n k : Nat) (g : Seg) (x : StateRec) : Option (Nat × Nat) :=
  match (s.isle n).hb.task g.task with
  | some t => match lookupN k t.areas with
    | some (slot :: _) =>
      let size := fun v => if nth false g.image.stateful v then (nth default g.image.stripes v).stateB else 0
      let before := (List.range x.vs).foldl (fun acc v => acc + 2 * size v) 0
      some (s.slotPa n slot + before + x.run % 2 * size x.vs, size x.vs)
    | _ => none
  | none => none

/-- R85: the oldest record of the cache of ring `k` written to the state area, while the cache holds too much; `fuel` bounds the
search. -/
def State.spill (s : State) (n k : Nat) : Nat → State
  | 0 => s
  | f + 1 =>
    match s.seg n k with
    | none => s
    | some g =>
      if ((s.isle n).ring k).cacheBytes ≤ 2 ^ 22 then s
      else match findIdx (fun (x : StateRec) => !x.spilled) g.srecs with
        | some i =>
          let s := match s.recordAt n k g (nth default g.srecs i) with | some a => s.writeOpen a.1 a.2 | none => s
          (s.onSeg n k fun g => { g with srecs := upd (fun x => { x with spilled := true }) g.srecs i }).spill n k f
        | none => s

/-- R85: images first, then records leave a cache that holds too much; the images in `keep` stay. -/
def State.spillAll (s : State) (n k : Nat) (keep : List (Nat × Nat)) : State :=
  let pinned := fun (x : Nat × Nat) => keep.contains x || match s.seg n k with
    | some g => g.task == x.1 && g.live.stripes.any fun st => (st.res || st.stg) && st.vs == x.2
    | none => false
  let s := s.onRing n k fun r => r.cacheTrim pinned (r.cache.length + 1)
  s.spill n k ((match s.seg n k with | some g => g.srecs.length | none => 0) + 1)

/-- R410: a record that stands in the state area cannot be read: a line of it is poisoned. -/
def State.recordBad (s : State) (n k : Nat) (g : Seg) (x : StateRec) : Bool :=
  x.spilled && match s.recordAt n k g x with | some a => s.poisIn a.1 a.2 | none => false
def State.recordsBad (s : State) (n k : Nat) (g : Seg) : Bool := g.srecs.any fun x => s.recordBad n k g x

/-! ## Losing a context (R410) -/

/-- R410: a restore that failed: the ring and its slots are free, and the task is dealt no further run; its W and ACC
regions are poisoned before it ends. -/
def State.contextLost (s : State) (n k task : Nat) : State :=
  (((s.settle n k).endSeg n k).failTask n task 3).onHarbour n fun h => h.onTask task fun t => { t with lost := true }

/-! ## Scrolling (R80 to R83) -/

/-- R79, R80: the physical stripe that the next pair takes. -/
def Seg.stageAt (g : Seg) : Option Nat :=
  let n := g.image.nstripe
  match findIdx (fun (st : Stripe) => st.vs < n && nextPair n st.run st.vs == (g.nextRun, g.nextVs)) g.live.stripes with
  | some p => some (g.live.succ p)
  | none => none

/-- STAGING_CONFIGURE (R80): the next pair, once its image is in the configuration cache, be its run dealt or not. -/
def execStagingConfigure (s : State) : Res :=
  let n := s.cur.n
  let k := s.cur.k
  match s.seg n k with
  | none => .next s
  | some g =>
    match g.stageAt with
    | none => .next s
    | some p =>
      let st := g.live.stripe p
      if g.scrolls && !g.stopped && g.halt == .none && s.nextWanted n g && !st.res && !st.stg &&
          !(g.live.stripes.any fun x => x.stg) && ((s.isle n).ring k).cache.contains (g.task, g.nextVs) then
        let new := g.configStripe g.nextVs g.nextRun
        let new := { new with saved := !(nth false g.image.stateful g.nextVs) || (g.recordBefore g.nextVs g.nextRun).isNone }
        let np := nextPair g.image.nstripe g.nextRun g.nextVs
        .next (s.onRing n k fun r =>
          { r with
            seg := some { g with live := g.live.onStripe p fun _ => new, nextRun := np.1, nextVs := np.2 }
            spares := upd (fun x => x.onto (g.stripeImg g.nextVs).mask) r.spares p }.cacheUse g.task g.nextVs)
      else .next s

/-- STATE_RESTORE (R82): the record of the staging stripe is put back; one that cannot be read loses the context (R410). -/
def execStateRestore (bad : Bool) (s : State) : Res :=
  let n := s.cur.n
  let k := s.cur.k
  match s.seg n k with
  | none => .next s
  | some g =>
    match findIdx (fun (st : Stripe) => st.stg && !st.saved) g.live.stripes with
    | some p =>
      let st := g.live.stripe p
      let lost := match g.recordBefore st.vs st.run with | some x => s.recordBad n k g x | none => false
      if bad || lost then .next (s.contextLost n k g.task)
      else .next (s.onSeg n k fun g => g.onLive fun c => c.onStripe p fun st =>
        { g.restored st with saved := true, hold := 13 * (st.elems.filter (·.on)).length })
    | none => .next s

/-- STRIPE_RESIDENT (R80): the staging stripe becomes resident, for the whole of the cycle after the eviction of the lowest
resident stripe. -/
def execStripeResident (s : State) : Res :=
  let n := s.cur.n
  let k := s.cur.k
  match s.seg n k with
  | none => .next s
  | some g =>
    match g.residentDue with
    | some p =>
      let st := { g.live.stripe p with stg := false, res := true, saved := false }
      let rec_ := nth false g.image.stateful st.vs && (g.recordBefore st.vs st.run).isSome
      let set := fun (c : Core) => c.onStripe p fun _ => st
      .next ((s.onSeg n k fun g => { g with live := set g.live, start := set g.start }).traceStripe n k g 3 p st.vs rec_)
    | none => .next s

/-- STATEFUL_SAVE (R82, R427): the record that stripe `cur.p` owes; the records of the last two run boundaries are kept. -/
def execStatefulSave (s : State) : Res :=
  let n := s.cur.n
  let k := s.cur.k
  let p := s.cur.p
  match s.seg n k with
  | none => .next s
  | some g =>
    match g.saveDue p with
    | some r =>
      let st := g.live.stripe p
      if g.clockHeld || st.saved then .next s
      else
        let new : StateRec := ⟨st.vs, r, st.elems, false⟩
        let busy := 13 * (st.elems.filter fun (e : Elem) => e.on).length
        .next (((s.onSeg n k fun g => { g with srecs := (g.srecs.filter fun x => x.vs != st.vs || x.run + 1 == r) ++ [new] }).onSeg n k fun g =>
          g.onLive fun c => c.onStripe p fun st => { st with saved := g.scrolls, hold := busy }).spillAll n k [])
    | none => .next s

/-- STRIPE_EVICT (R81): stripe `cur.p` leaves the window, with what it held; its armed stop lapses (R414). -/
def execStripeEvict (s : State) : Res :=
  let n := s.cur.n
  let k := s.cur.k
  let p := s.cur.p
  match s.seg n k with
  | none => .next s
  | some g =>
    if g.evictable p then
      let st := g.live.stripe p
      let s := (s.drainWharf p).onSeg n k fun g => g.onLive fun c => c.onStripe p fun _ => { Stripe.vacant with vs := st.vs, run := st.run }
      .next (s.traceStripe n k g 4 p st.vs (g.isStateful p))
    else .next s

/-! ## The pass buffer (R83) -/

/-- R83: the parked tokens after one more of each arc has gone to its resident consumer. `st` is the cycle's start. -/
def replayParked (st : Core) : List Parked → List (Nat × Nat × Nat) → Core → List Parked × Core
  | [], _, c => ([], c)
  | x :: r, done, c =>
    let arc := (x.vs, x.elem, x.ch)
    let to_ := findIdx (fun (t : Stripe) => t.res && t.vs == x.vs && t.run == x.src) st.stripes
    match (if done.contains arc then none else to_) with
    | some p =>
      let was := nth [] (st.elem p x.elem).inq x.ch
      let now := nth [] (c.elem p x.elem).inq x.ch
      if now.length ≤ was.length && now.length < 4 then
        replayParked st r (arc :: done) (c.onElem p x.elem fun el => { el with inq := pushAt el.inq x.ch x.slot })
      else
        let (l, c) := replayParked st r (arc :: done) c
        (x :: l, c)
    | none =>
      let (l, c) := replayParked st r done c
      (x :: l, c)

/-- PASS_BUFFER_REPLAY (R83): one token of each arc whose consumer is resident. -/
def execPassBufferReplay (s : State) : Res :=
  let n := s.cur.n
  let k := s.cur.k
  match s.seg n k with
  | none => .next s
  | some g =>
    if g.clockHeld then .next s
    else
      let (l, c) := replayParked g.start g.live.parkd [] g.live
      .next (s.onSeg n k fun g => { g with live := { c with parkd := l } })

/-! ## STALL (R88) -/

/-- STALL (R88, R398): detected in the cycle whose end brought the counter to STALLT. -/
def execStall (s : State) : Res :=
  let n := s.cur.n
  let k := s.cur.k
  let lim := 2 ^ ((s.isle n).ring k).log2t
  match s.seg n k with
  | some g =>
    if g.stallDue lim then
      .next (s.onSeg n k fun g =>
        { g with recs := g.recs ++ [{ Rec.blank with kind := 5, pt := s.pt, seg := g.id.toNat, at_ := g.sck - 1, d0 := lim }]
                 frz := some (g.frz.getD (g.sck - 1)) })
    else .next s
  | none => .next s

/-! ## Stops (R397 to R400) -/

/-- R397: the order in which the records of a freeze are posted. -/
def Rec.before (a b : Rec) : Bool :=
  if a.at_ != b.at_ then decide (a.at_ < b.at_)
  else if a.vs != b.vs then decide (a.vs < b.vs)
  else if a.elem != b.elem then decide (a.elem < b.elem)
  else decide (a.slot < b.slot)

def insRec (r : Rec) : List Rec → List Rec
  | [] => [r]
  | x :: l => if r.before x then r :: x :: l else x :: insRec r l

def sortRecs (l : List Rec) : List Rec := l.foldl (fun acc r => insRec r acc) []

/-- R447: the STOP record of a segment that stops with a first record. -/
def State.traceStop (s : State) (n k : Nat) (g : Seg) (first : Rec) : State :=
  s.postTrace n k g.tenant 6 false g.id.toNat first.vs first.elem first.slot first.ord first.kind

/-- R397, R404, R447: the segment of a ring stopped with records, which are posted. -/
def State.stopWith (s : State) (n k : Nat) (cmt : Bool) (recs : List Rec) : State :=
  match s.seg n k with
  | none => s
  | some g =>
    let recs := sortRecs recs
    let fck := g.sck - 1
    let first := (nth default recs 0)
    let dck := match recs with | r :: _ => r.at_ | [] => fck
    let seq := (s.isle n).hb.recSeq.toNat
    let s := s.onSeg n k fun g =>
      g.stop cmt dck first.kind recs.length s.pt (match recs with | r :: _ => r.bytes seq fck | [] => [])
    let s := s.traceStop n k g first
    recs.foldl (fun s r => s.postRec n g.tenant r fck) s

/-- R210: the data tokens that an input port delivers for one invocation. -/
def State.portTokens (s : State) (n : Nat) (g : Seg) (x : StreamEnt) : Nat :=
  if x.idx = 0xFFFF then (match (s.isle n).hb.task g.task with | some t => ceilDiv t.card.argsz 64 | none => 0) else x.stride / 64

/-- R427: the oldest run present: a run is dealt when the one before it has finished. -/
def Seg.oldest (g : Seg) : Nat := g.runsDealt - 1

/-- R428: the replay buffer holds every data token that port `i` has delivered for the oldest run. -/
def State.portReached (s : State) (n : Nat) (g : Seg) (i : Nat) : Bool :=
  let x := nth default g.image.streams i
  let p := nth default g.ports i
  let given := if p.run = g.oldest then p.inv * s.portTokens n g x + p.tok
    else (match g.runs.find? fun r => r.no == g.oldest with | some r => r.count * s.portTokens n g x | none => 0)
  x.kind != 0 || x.dir != 0 || (g.replay.filter fun t => t.run == g.oldest && t.port == i).length == given

/-- R428: the replay buffer reaches the first invocation of the oldest run, which began after the segment's last return to its ring. -/
def State.replayReaches (s : State) (n : Nat) (g : Seg) : Bool :=
  (match g.gapRun with | some r => decide (r < g.oldest) | none => true) && (List.range g.image.streams.length).all fun i => s.portReached n g i

/-- R429: the segment can be replayed. -/
def State.canReplay (s : State) (n : Nat) (g : Seg) : Bool :=
  (s.isle n).cont.replayTry != 0 && g.image.chans.isEmpty && (g.image.streams.all fun x => x.kind == 0) &&
  (match g.tainted with | some r => decide (r < g.oldest) | none => true) && s.replayReaches n g

/-- R429, R431: the freeze of a segment is contained without a command. -/
def State.contains (s : State) (n : Nat) (g : Seg) : Bool :=
  s.canReplay n g && decide (g.attempts < (s.isle n).cont.replayTry) && g.recs.all fun r => r.kind == 7

/-- FREEZE_STOP (R398, R429): eight cycles after the detection. A freeze that is contained posts nothing; a commit stop that falls on
the same cycle posts the records of both (R400). -/
def execFreezeStop (s : State) : Res :=
  let n := s.cur.n
  let k := s.cur.k
  match s.seg n k with
  | some g =>
    match g.frz with
    | some d =>
      if d + 9 ≤ g.sck && !g.stopped && g.commitAt.isNone then
        if s.contains n g then
          let first := nth default (sortRecs g.recs) 0
          .next ((s.onSeg n k fun g => g.stop false d 0 0 s.pt []).traceStop n k g first)
        else .next (s.stopWith n k false g.recs)
      else .next s
    | none => .next s
  | none => .next s

/-- R395, R400, R450: the BREAK record of an arm. -/
def Seg.breakRec (g : Seg) (pt p : Nat) (a : Arm) : Rec :=
  { Rec.blank with
    kind := 0xB, cause := a.cause, pt := pt, seg := g.id.toNat, vs := (g.start.stripe p).vs, ord := a.ord,
    argix := g.argix a.run a.ord, at_ := g.sck - 1 }

/-- R450: an entry that has stopped its segment. -/
def Bp.stopped (b : Bp) : Bp := { b with hit := true, en := b.sticky }

/-- R400: the arm of a stripe has stopped the segment: its entry has hit, and the stripe holds it no longer. -/
def State.spendArm (s : State) (n k : Nat) (x : Nat × Arm) : State :=
  let s := s.onIsle n fun i => if x.2.cause = 2 then { i with bps := upd Bp.stopped i.bps x.2.bp } else i
  s.onSeg n k fun g => g.onLive fun c => c.onStripe x.1 fun st => { st with arm := none }

/-- The stripes whose commit stops fall on the cycle that has ended, with their arms. -/
def Seg.commits (g : Seg) : List (Nat × Arm) :=
  (List.range g.start.stripes.length).filterMap fun p => (g.commitDue p).map fun a => (p, a)

/-- COMMIT_STOP (R400, R414, R450): the segment stops with the BREAK records of the stripes that committed and those of a freeze under
way. -/
def execCommitStop (s : State) : Res :=
  let n := s.cur.n
  let k := s.cur.k
  match s.seg n k with
  | some g =>
    if g.stopped || g.commits.isEmpty then .next s
    else .next ((g.commits.foldl (fun s x => s.spendArm n k x) s).stopWith n k true (g.recs ++ g.commits.map fun x => g.breakRec s.pt x.1 x.2))
  | none => .next s

end Sys2Proof.Machine
end

