-- ==== Sys2Proof/Machine/Contain.lean ====
section
/-! DEFINITION. Containment and replay, the spares, disabled stripes, the health monitor, configuration-store errors and
scrubbing (R11, R425, R429 to R441). -/

namespace Sys2Proof.Machine

/-! ## The containment sequence (R430 to R432) -/

/-- R430 step 1: no request that has issued is unfinished: the loads, stores and updates on their way have been performed. -/
def Seg.settled (g : Seg) : Bool := g.live.stripes.all fun st => st.wharf.fly.isEmpty && st.wharf.atoms.all fun a => a.req.held

/-- R430: the ports before the first invocation of a run. -/
def Seg.portsAt (g : Seg) (run : Nat) : List Port := g.image.streams.map fun _ => ⟨run, 0, 0, false⟩

/-- R430 steps 2 to 5: the segment rolled back to the first invocation of the oldest run, on a ring of `p` stripes. The
input ports deliver again from the replay buffer. What stands in the FIFOs of crossings is not of the segment and stays. -/
def Seg.rollback (g : Seg) (p : Nat) : Seg :=
  let h := { g with
    srecs := g.srecs.filter fun x => decide (x.run < g.oldest)
    origin := 0, sopend := false
    ports := g.portsAt g.oldest
    replaying := g.replay.filter fun t => t.run == g.oldest
    replay := [] }.window p g.oldest
  { h with live := { h.live with xin := g.live.xin }, start := { h.start with xin := g.live.xin } }

/-- R430: the whole sequence on the segment of a ring, and its clock restarted. A record that cannot be read loses the context (R410). -/
def State.replaySeg (s : State) (n k : Nat) : State :=
  match s.seg n k with
  | none => s
  | some g =>
    if s.recordsBad n k (g.rollback ((s.isle n).ring k).stripes) then s.contextLost n k g.task else
    let s := s.drainLines (g.live.stripes.flatMap fun st => st.wharf.wc)
    let s := s.onRing n k fun r => { r with seg := some (g.rollback r.stripes) }.aimSpares (g.rollback r.stripes)
    s.resumeSeg n k

/-- CONTAINMENT_SEQUENCE (R429 to R432): the segment of a ring that stopped for CONTAIN alone, or the replay that an accepted
SEGRPL asked for, which is no attempt. -/
def execContainmentSequence (s : State) : Res :=
  let n := s.cur.n
  let k := s.cur.k
  match s.seg n k with
  | none => .next s
  | some g =>
    if g.stopped && g.cmd then (if g.settled then .next (s.replaySeg n k) else .next s)
    else if g.stopped && g.nrec == 0 && !g.recs.isEmpty && s.contains n g && g.settled then
      let s := s.onSeg n k fun g =>
        { g with attempts := g.attempts + 1, attemptRun := if g.attempts = 0 then g.oldest else g.attemptRun }
      let s := s.onContain n fun c => { c with attempts := satAdd 65535 c.attempts 1 }
      .next (s.replaySeg n k)
    else .next s

/-! ## Spares (R435 to R438) -/

def State.onSpare (s : State) (n k p : Nat) (f : Spare → Spare) : State :=
  s.onRing n k fun r => { r with spares := upd f r.spares p }

/-- The last place that element `e` wrote on out-channel `k` in this cycle, poisoned. -/
def Slot.poisoned (x : Slot) : Slot :=
  match x with
  | .tok t => .tok { t with poison := true }.sealed
  | y => y

/-- The last entry of a list changed, when the list has grown past a length. -/
def pokeLast {α : Type} (f : α → α) (was : Nat) (l : List α) : List α :=
  if was < l.length then upd f l (l.length - 1) else l

/-- R437: the token that element `e` wrote to out-channel `k` in this cycle, poisoned where it stands. -/
def Core.poisonOut (c st : Core) (p e k : Nat) : Core :=
  let r := (c.elem p e).route k
  let at_ := fun (q e' : Nat) => c.onElem q e' fun el => { el with inq := upd (fun l =>
    pokeLast Slot.poisoned (nth [] (st.elem q e').inq (routeChan r)).length l) el.inq (routeChan r) }
  match routeKind r, routeElem e r with
  | 1, some e' => at_ p e'
  | 2, some e' =>
    let on := fun (x : Parked) => x.vs == (c.stripe p).vs + 1 && x.elem == e' && x.ch == routeChan r
    let count := fun (d : Core) => (d.parkd.filter on).length +
      match d.successor p with | some q => (nth [] (d.elem q e').inq (routeChan r)).length | none => 0
    if count c ≤ count st then c
    else if c.parkd.any on then
      { c with parkd := (upd (fun x => { x with slot := x.slot.poisoned }) c.parkd.reverse ((findIdx on c.parkd.reverse).getD 0)).reverse }
    else match c.successor p with
      | some q => at_ q e'
      | none => c
  | _, _ => c.onElem p e fun el => { el with oq := upd (fun l => pokeLast Slot.poisoned (nth [] (st.elem p e).oq k).length l) el.oq k }

/-- R437: the request that element `e` sent to chain `ch` in this cycle, with its data poisoned. -/
def Core.poisonReq (c st : Core) (p e ch : Nat) : Core :=
  c.onWharf p fun w => { w with chains := upd (fun l =>
    pokeLast (fun q => if q.elem = e then { q with dpois := true } else q) (nth [] (st.stripe p).wharf.chains ch).length l) w.chains ch }

/-- R438: the verdict on a spare after a mismatch at time `pt`: 0 transient, 1 lasting, 2 the spare is faulty. Its error record tells a
lasting fault in a stripe whose spare is spent as 3. -/
def Spare.verdict (x : Spare) (pt win : Nat) : Nat :=
  let l := x.mism.filter fun m => decide (pt < m.2 + win)
  if 3 ≤ (l.filter fun m => m.1 == x.at_).length then 1
  else if l.any fun m => m.1 != x.at_ then 2 else 0

/-- SPARE_MISMATCH (R437, R438): the spare of stripe `cur.p` differs from the element it shadows. -/
def execSpareMismatch (at_ : SparePlace) (s : State) : Res :=
  let n := s.cur.n
  let k := s.cur.k
  let p := s.cur.p
  match s.seg n k with
  | none => .next s
  | some g =>
    if (g.live.stripe p).res && !g.clockHeld && s.shadows n k p then
      let e := (((s.isle n).ring k).spare p).at_
      let s := s.onSeg n k fun g => { g with live := match at_ with
        | .out o => g.live.poisonOut g.start p e o
        | .request c => g.live.poisonReq g.start p e c }
      let s := s.onSpare n k p fun x => { x with mism := x.mism ++ [(e, s.pt)] }
      let v := (((s.isle n).ring k).spare p).verdict s.pt (s.isle n).cont.swin
      let told := if v = 1 ∧ (((s.isle n).ring k).spare p).spent.isSome then 3 else v
      let s := s.postErr n 5 g.id.toNat 0 (told + e * 2 ^ 8 + p * 2 ^ 16)
      .next (s.onSpare n k p fun x => if v = 1 then { x with due := some e, eois := 0 } else if v = 2 then { x with off := true } else x)
    else .next s

/-- R436: the element that holds its rules while the spare takes its state, in the 13 cycles after this one. -/
def State.holdElem (s : State) (n k p e : Nat) : State := s.onSeg n k fun g => g.onElem p e fun el => { el with hold := 14 }

/-- SPARE_MOVE (R436): the spare of stripe `cur.p` moves to the next configured element, in the cycle of the gate firing that passes
the last EOI it waits for. -/
def execSpareMove (s : State) : Res :=
  let n := s.cur.n
  let k := s.cur.k
  let p := s.cur.p
  match s.seg n k with
  | none => .next s
  | some g =>
    let x := ((s.isle n).ring k).spare p
    let used := g.usedElems p
    if s.spareDue n k p then
      let e := (used.find? fun y => decide (x.at_ < y)).getD (nth 0 used 0)
      .next ((s.onSpare n k p fun x => { x with at_ := e, eois := 0 }).holdElem n k p e)
    else .next s

/-- SPARE_REPLACE (R438): at the first EOI of the stripe after the verdict the spare replaces the element with the lasting fault. -/
def execSpareReplace (s : State) : Res :=
  let n := s.cur.n
  let k := s.cur.k
  let p := s.cur.p
  match s.seg n k with
  | none => .next s
  | some g =>
    let x := ((s.isle n).ring k).spare p
    match x.due, x.spent with
    | some e, none =>
      if x.eoiSeen && !g.clockHeld then
        .next (((s.onSpare n k p fun x => { x with spent := some e, due := none, mism := [] }).holdElem n k p e).onRing n k fun r =>
          { r with spared := r.spared + 1 })
      else .next s
    | _, _ => .next s

/-! ## Disabled stripes (R10, R11, R439) -/

/-- R10: a ring after the loss of physical stripe `p`. -/
def Ring.lose (r : Ring) (p : Nat) : Ring := { r with stripes := if r.stripes ≤ 24 then 0 else r.stripes - 1, disabled := r.disabled + 1, lost := r.lost ++ [p] }

/-- STRIPE_DISABLE (R439): a second lasting fault in stripe `cur.p`. A segment on a ring that retires is killed; another
raises CONTAIN with cause 0x7, which is contained when it can be replayed. A segment that is pre-empted or scanned out when its
ring retires waits for ever: R331 gives it no other ring, and no rule ends it (the model's choice, log 52). -/
def execStripeDisable (s : State) : Res :=
  let n := s.cur.n
  let k := s.cur.k
  let p := s.cur.p
  let r := (s.isle n).ring k
  let x := r.spare p
  if x.spent.isSome && x.due.isSome && 0 < r.stripes then
    let s := (s.onRing n k fun r => r.lose p).onSpare n k p fun x => { x with due := none, mism := [], off := true }
    if ((s.isle n).ring k).stripes = 0 then .next (s.killSeg n k)
    else .next (s.onSeg n k fun g => g.detect { Rec.blank with
      kind := 7, cause := 7, pt := s.pt, vs := (g.live.stripe p).vs, d0 := p })
  else .next s

/-! ## The health monitor (R440, R441) -/

/-- R441: the corrected errors of a class in the current window. -/
def Contain.ceCount (c : Contain) (pt cls : Nat) : Nat := ((nth [] c.ce cls).filter fun t => decide (pt < t + c.swin)).length

/-- R441: an uncorrectable error of a class counted and posted (R486). -/
def State.countUe (s : State) (n cls pa : Nat) : State :=
  (s.onContain n fun c => { c with ue := upd (fun x => satAdd (2 ^ 32 - 1) x 1) c.ue cls }).postErr n 3 0 pa cls

/-- HEALTH_THRESHOLD_CROSS (R440): array class `cur.k` of isle `cur.n`. -/
def execHealthThresholdCross (s : State) : Res :=
  let n := s.cur.n
  let c := (s.isle n).cont
  let thr := nth 0 c.thr s.cur.k
  if thr != 0 && decide (thr < c.ceCount s.pt s.cur.k) && !nth true c.crossed s.cur.k then
    .next (s.onContain n fun c => { c with
      steps := min 15 (c.steps + 1), crossed := upd (fun _ => true) c.crossed s.cur.k, holdUntil := some (s.pt + c.vhold) })
  else .next s

/-- VHOLD_EXPIRE (R440). -/
def execVholdExpire (s : State) : Res :=
  match (s.isle s.cur.n).cont.holdUntil with
  | some t => if t ≤ s.pt then .next (s.onContain s.cur.n fun c => { c with holdUntil := none }) else .next s
  | none => .next s

/-! ## Stores and arrays (R425, R434) -/

/-- CFGERR_RELOAD (R392, R434): the latches of element `cur.e` of stripe `cur.p`, none of whose rules fires in the cycle, are rewritten
from the configuration cache, else from memory; the task ends with status CONFIG when both copies fail. -/
def execCfgerrReload (cacheOk memOk : Bool) (s : State) : Res :=
  let n := s.cur.n
  let k := s.cur.k
  match s.seg n k with
  | none => .next s
  | some g =>
    if (g.live.stripe s.cur.p).res && !g.clockHeld && (g.live.elem s.cur.p s.cur.e).cyc.fired.isEmpty then
      let s := (s.countUe n 5 0).postErr n 1 g.id.toNat s.cur.p 8
      if cacheOk || memOk then .next (s.onSeg n k fun g => g.onElem s.cur.p s.cur.e fun el => { el with cyc := { el.cyc with noRules := true } })
      else .next (((s.settle n k).endSeg n k).failTask n g.task 1)
    else .next s

/-- R441: the class of the array of a place. -/
def ArrayPlace.cls (x : ArrayPlace) : Nat :=
  match x with
  | .memory pa => if anyLagoon pa then 0 else 10
  | .plane _ => 1
  | .acc _ => 2
  | .vreg _ => 3
  | .bStage _ => 3
  | .shadow => 4
  | .config => 5
  | .pass _ => 6
  | .replay _ => 7
  | .stackCache _ => 8
  | .checkCache _ => 9
  | .skerry _ => 11

/-- The address of a place, 0 where it has none. -/
def ArrayPlace.addr (x : ArrayPlace) : Nat :=
  match x with
  | .memory pa => pa
  | .stackCache pa => pa
  | .checkCache pa => pa
  | .skerry pa => pa
  | _ => 0

/-- R420: a line of the stack cache, or of the check-bit cache, is poisoned when the entry that holds it is dirty. -/
def State.lostDirty (s : State) (cache : List ScLine) (x : Nat) (lines : List Nat) : State :=
  if cache.any fun y => y.1 == x && y.2 then lines.foldl (fun s l => s.poison (64 * l)) s else s

/-- R420: what an uncorrectable error does to an element: the value that it strikes is poisoned. -/
def Elem.strike (x : ArrayPlace) (el : Elem) : Elem :=
  match x with
  | .plane t => { el with planes := upd (fun p => { p with prow := BitVec.allOnes 16 }) el.planes t }
  | .acc t => { el with acc := upd (fun a => { a with poison := true }) el.acc t }
  | .vreg v => { el with v := upd (fun r => { r with pois := true }) el.v v }
  | .bStage i => { el with stage := upd (fun b => { b with tok := { b.tok with poison := true }.sealed }) el.stage i }
  | _ => el

/-- R420: the effect of an uncorrectable error at a place of the unit of the step. A skerry line that is dirty has no other copy: its
line is poisoned in memory, where a hart takes its access fault (log 54). Shadow banks and configuration arrays show theirs at the restore or
reload that meets it (R410, R434). -/
def State.strike (s : State) (x : ArrayPlace) : State :=
  let n := s.cur.n
  match x with
  | .memory pa => if paPanel pa && paIsle pa == n then s.poison pa else s
  | .stackCache pa => s.lostDirty s.sc (pa / 64) [pa / 64]
  | .checkCache pa => s.lostDirty s.cb (pa / 64 / 16) ((List.range 16).map fun i => pa / 64 / 16 * 16 + i)
  | .skerry pa =>
    match (s.isle n).skFind pa with
    | some l => (if l.dirty then s.poison pa else s).skDrop n (skLine pa) 64
    | none => s
  | .pass i => s.onCurSeg fun g => g.onLive fun c => { c with parkd := upd (fun p => { p with slot := p.slot.poisoned }) c.parkd i }
  | .replay i => s.onCurSeg fun g => { g with replay := upd (fun t => { t with tok := { t.tok with poison := true }.sealed }) g.replay i }
  | _ => s.onCurElem (Elem.strike x)

/-- R420, R440, R441: an array of isle `cur.n` returns an error, which is counted. -/
def State.arrayError (s : State) (x : ArrayPlace) (corrected : Bool) : State :=
  let n := s.cur.n
  if !(s.isle n).up then s
  else if corrected then s.countCe n x.cls
  else (s.strike x).countUe n x.cls x.addr

/-- SCRUB_LINE (R425): stack line `cur.j` of isle `cur.n`. -/
def execScrubLine (r : ScrubResult) (s : State) : Res :=
  let pa := paOf s.cur.n (64 * s.cur.j)
  if paStack pa then
    match r with
    | .clean => .next s
    | .corrected => .next (s.countCe s.cur.n 10)
    | .uncorrectable => .next ((s.poison pa).countUe s.cur.n 10 pa)
  else .next s

end Sys2Proof.Machine
end

