-- ==== Sys2Proof/Machine/Sha3.lean ====
section
/-! DEFINITION. SHA3-256 (FIPS 202), which the digests of images and measurement registers name (R42, R43, R489; log 14). The tables of
the permutation are computed here: the rotations from the walk that rho and pi share, the round constants from their shift register. -/

namespace Sys2Proof.Machine

/-- The 1,600 bits as 25 words; the word of column `x` and row `y` stands at `x + 5 y`. -/
abbrev Sponge := List W64

def Sponge.word (a : Sponge) (x y : Nat) : W64 := nth 0 a (x % 5 + 5 * (y % 5))

/-- The place to which pi moves the word of a place. -/
def piStep (i : Nat) : Nat := i / 5 + 5 * ((2 * (i % 5) + 3 * (i / 5)) % 5)

/-- The 24 places that pi permutes in one cycle, from column 1 of row 0. -/
def piCycle : List Nat := (List.range 23).foldl (fun l _ => piStep (nth 0 l 0) :: l) [1]

/-- What stands at a place after rho and pi: the word of the place before it in the cycle, `t` steps along, rotated by the triangular number of
`t + 1`. Place 0 keeps its own. `piCycle` holds the cycle backwards. -/
def Sponge.moved (a : Sponge) (i : Nat) : W64 :=
  match findIdx (· == i) piCycle with
  | some k =>
    let t := (46 - k) % 24
    (nth 0 a (nth 0 piCycle (23 - t))).rotateLeft ((t + 1) * (t + 2) / 2 % 64)
  | none => nth 0 a i

/-- The exclusive or of a column, over its five rows. -/
def Sponge.parity (a : Sponge) (x : Nat) : W64 := (List.range 5).foldl (fun p y => p ^^^ a.word x y) 0

/-- What theta adds to every word of column `x`. -/
def Sponge.spread (a : Sponge) (x : Nat) : W64 := (a.parity (x + 1)).rotateLeft 1 ^^^ a.parity (x + 4)

/-- A step of the shift register of the round constants. -/
def rcShift (r : Nat) : Nat := if 128 ≤ r then 2 * r ^^^ 0x171 else 2 * r

/-- The constant of a round from the register as the round finds it, and the register as it leaves it: bit `2 ^ j - 1` for each of seven
steps `j`. -/
def rcRound (r : Nat) : Nat × Nat :=
  (List.range 7).foldl (fun (x : Nat × Nat) j => (x.1 + x.2 % 2 * 2 ^ (2 ^ j - 1), rcShift x.2)) (0, r)

/-- One round on words already mixed by theta, rho and pi: chi, with the round's constant at place 0. -/
def Sponge.nonlinear (b : Sponge) (rc : Nat) : Sponge :=
  (List.range 25).map fun i =>
    let v := b.word i (i / 5) ^^^ (b.word (i + 2) (i / 5) &&& ~~~b.word (i + 1) (i / 5))
    if i = 0 then v ^^^ BitVec.ofNat 64 rc else v

/-- The linear part of a round. -/
def Sponge.linear (a : Sponge) : Sponge :=
  let d := (List.range 5).map a.spread
  let t : Sponge := (List.range 25).map fun i => nth 0 a i ^^^ nth 0 d (i % 5)
  (List.range 25).map t.moved

/-- The permutation: 24 rounds, the shift register running on through them. -/
def Sponge.permute (a : Sponge) : Sponge :=
  ((List.range 24).foldl (fun (x : Sponge × Nat) _ => let c := rcRound x.2; (x.1.linear.nonlinear c.1, c.2)) (a, 1)).1

/-- A block of 17 words taken in. -/
def Sponge.absorb (a : Sponge) (block : List Byte) : Sponge :=
  Sponge.permute ((List.range 25).map fun i => nth 0 a i ^^^ BitVec.ofNat 64 (ofLe ((block.drop (8 * i)).take 8)))

/-- A message with the suffix of SHA-3 and the padding to whole blocks of 136 bytes: the suffix in the first byte past the message, the last
bit in the last byte. -/
def sha3Blocks (m : List Byte) : List Byte :=
  let n := (m.length / 136 + 1) * 136
  ((m ++ List.replicate (n - m.length) (0 : Byte)).zip (List.range n)).map fun x =>
    x.1 ^^^ (if x.2 = m.length then 0x06 else 0) ^^^ (if x.2 + 1 = n then 0x80 else 0)

/-- SHA3-256. -/
def sha3 (m : List Byte) : List Byte :=
  let p := sha3Blocks m
  let a := (List.range (p.length / 136)).foldl (fun (a : Sponge) i => a.absorb ((p.drop (136 * i)).take 136)) (List.replicate 25 0)
  (List.take 4 a).flatMap fun w => leBytes 8 w.toNat

end Sys2Proof.Machine
end

