-- ==== Sys2Proof/Machine/Loader.lean ====
section
/-! DEFINITION. The loader: a segment image parsed and checked, regions walked into extents, and the fills of the
configuration cache (R33 to R35, R39 to R49, R85, R195 to R197, R256, R348 to R352). -/

namespace Sys2Proof.Machine

/-! ## Reading an image (R41 to R47) -/

/-- An image as the loader reads it: its bytes by offset. -/
abbrev ImgBytes := Nat → Byte

/-- A little-endian field of an image (R23). -/
def imgNum (m : ImgBytes) (o n : Nat) : Nat := ofLe ((List.range n).map fun i => m (o + i))
def imgList (m : ImgBytes) (o n : Nat) : List Byte := (List.range n).map fun i => m (o + i)
def imgWords (m : ImgBytes) (o n : Nat) : List W := (List.range n).map fun i => BitVec.ofNat 32 (imgNum m (o + 4 * i) 4)
def imgHalves (m : ImgBytes) (o n : Nat) : List W16 := (List.range n).map fun i => BitVec.ofNat 16 (imgNum m (o + 2 * i) 2)

/-- R45: the configuration block. -/
def parseCfg (m : ImgBytes) (o : Nat) : Cfg :=
  let fch := imgNum m (o + 0x3C) 24
  { route := imgHalves m o 4
    yt := imgHalves m (o + 8) 8
    ltype := (List.range 8).map fun i => BitVec.ofNat 4 (fld (imgNum m (o + 0x18) 4) (4 * i) 4)
    ctr := [0, 1].map fun k =>
      let w := imgNum m (o + 0x1C + 8 * k) 8
      let ti := BitVec.ofNat 16 w
      let to_ := BitVec.ofNat 16 (w / 2 ^ 16)
      ⟨bitN w 32, bitN w 33, 0, 0, ti, to_, none, none, ti, to_⟩
    agc := [0, 1].map fun k =>
      let w := imgNum m (o + 0x2C + 8 * k) 8
      ⟨bitN w 48, w % 256, BitVec.ofNat 32 (w / 2 ^ 16), 0⟩
    fchain := (List.range 32).map fun j => BitVec.ofNat 6 (fld fch (6 * j) 6)
    mreset := BitVec.ofNat 32 (imgNum m (o + 0x54) 4)
    ii := imgNum m (o + 0x58) 2
    pace := imgNum m (o + 0x5A) 1 % 32
    ten := BitVec.ofNat 6 (imgNum m (o + 0x5B) 1)
    frm := imgNum m (o + 0x5C) 1 % 8
    ftz := bitN (imgNum m (o + 0x5C) 1) 3 }

/-- R44: an element image. -/
def parseElem (m : ImgBytes) (o : Nat) : ElemImg :=
  ⟨imgWords m o 32, imgWords m (o + 0x80) 32, imgWords m (o + 0x100) 32, imgWords m (o + 0x180) 8, parseCfg m (o + 0x1A0),
   imgList m o 512⟩

/-- The offset of stripe record `k` (R41). -/
def stripeOff (k : Nat) : Nat := 0x80 + 8256 * k

/-- R43: a stripe record. -/
def parseStripe (m : ImgBytes) (k : Nat) : StripeImg :=
  let o := stripeOff k
  ⟨BitVec.ofNat 16 (imgNum m (o + 2) 2), imgNum m (o + 4) 4, imgList m (o + 0x20) 32,
   (List.range 16).map fun e => parseElem m (o + 0x40 + 512 * e)⟩

/-- R47: list entries. -/
def parseChan (m : ImgBytes) (o : Nat) : ChanEnt :=
  let p := imgNum m (o + 4) 4
  ⟨imgNum m o 1, imgNum m (o + 1) 1, imgNum m (o + 2) 2, fld p 0 6, fld p 6 3, fld p 9 8⟩
def parseStream (m : ImgBytes) (o : Nat) : StreamEnt :=
  ⟨imgNum m o 1, imgNum m (o + 1) 1, imgNum m (o + 2) 1, imgNum m (o + 4) 2, imgNum m (o + 8) 4⟩
def parseRegion (m : ImgBytes) (o : Nat) : Region :=
  ⟨imgNum m o 8, imgNum m (o + 8) 5, imgNum m (o + 13) 1, imgNum m (o + 14) 1, imgNum m (o + 15) 1⟩
def parseOwner (m : ImgBytes) (o : Nat) : OwnerEnt :=
  ⟨imgNum m o 8, imgNum m (o + 8) 4, imgNum m (o + 12) 2, imgNum m (o + 14) 1, bitN (imgNum m (o + 15) 1) 0⟩

/-- R42: the whole image. -/
def parseImage (m : ImgBytes) (entry : Nat) : Image :=
  let n := imgNum m 6 2
  { entry := entry, nstripe := n, runmax := imgNum m 8 4, seed := imgNum m 0x10 8, len := imgNum m 0x34 4
    stateful := (List.range n).map fun k => bitN (imgNum m (imgNum m 0x18 4 + k / 8) 1) (k % 8)
    stripes := (List.range n).map (parseStripe m)
    chans := (List.range (imgNum m 0x20 2)).map fun i => parseChan m (imgNum m 0x1C 4 + 16 * i)
    streams := (List.range (imgNum m 0x22 2)).map fun i => parseStream m (imgNum m 0x28 4 + 16 * i)
    regions := (List.range (imgNum m 0x24 2)).map fun i => parseRegion m (imgNum m 0x2C 4 + 16 * i)
    owners := (List.range (imgNum m 0x26 2)).map fun i => parseOwner m (imgNum m 0x30 4 + 16 * i) }

/-! ## The first failing item (R49) -/

/-- R49: where a CONFIG fault lies and its cause. -/
structure CfgErr where
  vs : Nat
  elem : Nat
  slot : Nat
  cause : Nat
  deriving DecidableEq, Repr

/-- A fault of the image as a whole. -/
def CfgErr.whole (cause : Nat) : CfgErr := ⟨0xFFFF, 0x1F, 0x3F, cause⟩

/-- The first cause of a list of checks in order; each pairs a failure with its cause. -/
def firstCause (l : List (Bool × Nat)) : Option Nat := (l.find? (·.1)).map (·.2)

/-- A range of bytes that are all zero. -/
def imgZero (m : ImgBytes) (o n : Nat) : Bool := (List.range n).all fun i => m (o + i) == 0

/-- R42: a pointer to a list of `size` bytes. The pointer of an empty list is held to the same form (log 28). -/
def ptrBad (n len p size : Nat) : Bool := p % 16 != 0 || decide (p < stripeOff n) || decide (len < p + size)

/-- R42, R48, R49: the header in ascending order; `multi` says that the card selects more than one ring. -/
def headerCause (m : ImgBytes) (multi : Bool) : Option Nat :=
  let n := imgNum m 6 2
  let len := imgNum m 0x34 4
  let cnt := fun o => imgNum m o 2
  firstCause
    [(imgNum m 0 4 != 0x49434556, 1), (imgNum m 5 1 != 1, 1), (n == 0 || decide (4096 < n), 2),
     (imgNum m 8 4 == 0 || decide (16777215 < imgNum m 8 4), 2), (!imgZero m 0x0C 4, 4),
     (ptrBad n len (imgNum m 0x18 4) (ceilDiv n 8), 2), (ptrBad n len (imgNum m 0x1C 4) (16 * cnt 0x20), 2),
     (decide (256 < cnt 0x20), 2), (multi && cnt 0x20 != 0, 2), (decide (256 < cnt 0x22), 2), (decide (64 < cnt 0x24), 2), (decide (16 < cnt 0x26), 2),
     (ptrBad n len (imgNum m 0x28 4) (16 * cnt 0x22), 2), (ptrBad n len (imgNum m 0x2C 4) (16 * cnt 0x24), 2),
     (ptrBad n len (imgNum m 0x30 4) (16 * cnt 0x26), 2), (decide (len < stripeOff n), 2), (!imgZero m 0x38 40, 4),
     (imgList m 0x60 32 != sha3 ((List.range len).map fun i => if 0x60 ≤ i ∧ i < 0x80 then 0 else m i), 1)]

/-! ## Rules (R30 to R39, R46, R77, R101, R103, R158, R161, R162, R167, R176, R202) -/

/-- R49: the cause of a word that does not decode. -/
def decodeCause : DecodeErr → Nat
  | .emptySlot => 0
  | .reservedSelector => 6
  | .unassignedMajor => 3
  | .unassignedSubcode => 5
  | .reservedField => 4
  | .illegalOperand => 7
  | .scopeCode => 12

/-- The rules of an element with their slots. -/
def ElemImg.slots (i : ElemImg) : List (Nat × Instr) :=
  (List.range 32).filterMap fun j => match decodeRule (nth (0 : W) i.rules j).toNat with
    | .ok x => some (j, x)
    | .error _ => none

/-- The route kind of an out-channel, with an input binding as kind 8. -/
def Image.outKind (im : Image) (i : ElemImg) (k : Nat) : Nat :=
  let r := (nth 0 i.cfg.route k).toNat
  if routeKind r = 4 && (nth default im.streams (routeIdx r)).dir == 0 then 8
  else if routeKind r = 5 && (nth default im.chans (routeIdx r)).dir == 0 then 8
  else routeKind r

/-- The out-channels that a rule names. -/
def RuleInfo.outs (r : RuleInfo) : List Nat := (r.wr.filter fun x => x.1 == 2 && x.2 != 9).map (·.2)

/-- R72, R73, R209: the routed out-channels of an element, those that EMIT with D = 28 and the gate write. -/
def Image.routedOuts (im : Image) (i : ElemImg) : List Nat := [0, 1, 2, 3].filter fun k => im.outKind i k != 0 && im.outKind i k != 8

/-- R33, R98: the out-channels that a rule writes, every routed one for EMIT with D = 28. -/
def Image.outsWritten (im : Image) (i : ElemImg) (r : RuleInfo) : List Nat :=
  if r.wr.contains (2, 9) then r.outs ++ im.routedOuts i else r.outs

/-- R162: the B channel that a rule names without reading it. -/
def bNamed (i : Instr) : Option Nat :=
  match i with
  | .mma _ o => some o.ch.toNat
  | .mmas _ o => some o.ch.toNat
  | .mfwd _ ch _ => some ch.toNat
  | _ => none

/-- R158: the link types of the matrix path. -/
def matType (ty : BitVec 4) : Bool := decide (2 ≤ ty.toNat ∧ ty.toNat ≤ 8) || ty == 10

/-- R162, R163: the B channel of an element image. -/
def ElemImg.bChan (i : ElemImg) : Option Nat := i.slots.findSome? fun x => match x.2 with
  | .mma _ o => some o.ch.toNat
  | .mmas _ o => some o.ch.toNat
  | _ => none

/-- R167: how a rule loads a plane tile: the tile, the type of its channel and the sparse mode. -/
def ElemImg.loads (i : ElemImg) (x : Instr) : Option (Nat × BitVec 4 × Nat) :=
  match x with
  | .plw _ o => some (o.pl.toNat, nth 0 i.cfg.ltype o.ch.toNat, 0)
  | .plws _ o => some (o.pl.toNat, nth 0 i.cfg.ltype o.ch.toNat, o.sp.toNat)
  | _ => none

/-- R161: the first row of a load is a multiple of the rows of a token. -/
def rowBad (ty : BitVec 4) (row : Nat) : Bool := matType ty && row % max 1 (typeParts ty.toNat / 2) != 0

/-- R158, R161, R162, R167, R176: what the matrix rules of an element must agree on. R49 orders items and not the checks of one
rule: where a rule fails several, the first of these lists is reported, the choice of log 28. -/
def ElemImg.matrixCause (i : ElemImg) (x : Instr) : Option Nat :=
  let lt := fun (k : Nat) => nth (0 : BitVec 4) i.cfg.ltype k
  let all := i.slots.map (·.2)
  let others := all.filterMap i.loads
  let tile := fun (n : Nat) => others.find? fun y => y.1 == n
  let mm := fun (o : FmtMma) (sparse : Bool) => firstCause
    [(i.bChan != some o.ch.toNat, 7), (!matType (lt o.ch.toNat), 0xB), ((tile o.pl.toNat).isNone, 0xB),
     ((match tile o.pl.toNat with | some t => t.2.1 != lt o.ch.toNat | none => false), 0xB),
     ((match tile o.pl.toNat with | some t => (t.2.2 != 0) != sparse | none => false), 7)]
  match x with
  | .plw _ o => firstCause
      [(rowBad (lt o.ch.toNat) o.row.toNat, 7), (!matType (lt o.ch.toNat), 0xB),
       (others.any fun y => y.1 == o.pl.toNat && y.2.1 != lt o.ch.toNat, 0xB), (others.any fun y => y.1 == o.pl.toNat && y.2.2 != 0, 7)]
  | .plws _ o => firstCause
      [(rowBad (lt o.ch.toNat) o.row.toNat, 7), (!matType (lt o.ch.toNat), 0xB),
       (others.any fun y => y.1 == o.pl.toNat && y.2.1 != lt o.ch.toNat, 0xB),
       (others.any fun y => y.1 == o.pl.toNat && y.2.2 != o.sp.toNat, 7)]
  | .scld _ o => firstCause [(lt o.ch.toNat != 9, 0xB)]
  | .mma _ o => mm o false
  | .mmas _ o => mm o true
  | .mfwd _ ch _ => firstCause
      [(i.bChan != some ch.toNat, 7), (1 < (all.filter fun y => match y with | .mfwd .. => true | _ => false).length, 7)]
  | .accrd _ o => firstCause
      [(lt (4 + o.ch.toNat) != o.ty, 0xB),
       (all.any fun y => match y with | .accrd _ p => p.t == o.t && p.ty != o.ty | _ => false, 7)]
  | .accwr _ o => firstCause
      [(lt o.ch.toNat != o.ty, 0xB),
       (all.any fun y => match y with | .accwr _ p => p.t == o.t && p.ty != o.ty | _ => false, 7)]
  | _ => none

/-- R34: the conflict bits of two slots. -/
def ElemImg.conflicts (i : ElemImg) (a b : Nat) : Bool := tb (nth (0 : W) i.conf a) b || tb (nth (0 : W) i.conf b) a

/-- R35: two rules write one thing; EMIT all writes every routed out-channel. -/
def Image.shareWrite (im : Image) (i : ElemImg) (a b : RuleInfo) : Bool :=
  let full := fun (r : RuleInfo) => r.wr.flatMap fun x =>
    if x == (2, 9) then (im.routedOuts i).map fun k => (2, k) else [x]
  (full a).any fun x => (full b).contains x

/-- The chain and position of a rule that its image fixes (R202). -/
def ElemImg.fixedChain (i : ElemImg) (j : Nat) (r : RuleInfo) : Option (Nat × Nat) :=
  match r.chain with
  | some c => some c
  | none => if r.fch then let f := (nth 0 i.cfg.fchain j).toNat; some (f / 16, f % 16) else none

/-- R202: a rule before this one, in its element or a lower one of the stripe, holds the same chain and position. -/
def StripeImg.chainTaken (st : StripeImg) (e j : Nat) (cp : Nat × Nat) : Bool :=
  (List.range (e + 1)).any fun e' =>
    let i := nth default st.elems e'
    tb st.mask e' && i.slots.any fun x => (decide (e' < e) || decide (x.1 < j)) &&
      (match ruleInfo x.2 with | some r => i.fixedChain x.1 r == some cp | none => false)

/-- The first fault of the rule in slot `j`. Where one rule fails several checks, the order of this list decides (log 28). -/
def Image.ruleCause (im : Image) (st : StripeImg) (e j : Nat) : Option Nat :=
  let i := nth default st.elems e
  let w := (nth (0 : W) i.rules j).toNat
  match decodeRule w with
  | .error .emptySlot => if w % 2 ^ 26 = 0 then none else some 6
  | .error x => some (decodeCause x)
  | .ok x =>
    match ruleInfo x with
    | none => none
    | some r =>
      let gd := if r.sel < 32 then (nth (0 : W) i.guards r.sel).toNat else 0
      let kinds := r.outs.map fun k => im.outKind i k
      let all := i.slots
      let two := fun (f : Instr → Bool) => f x && 1 < (all.filter fun y => f y.2).length
      let isRep := fun (y : Instr) => match y with | .rep .. => true | _ => false
      let isReord := fun (y : Instr) => match y with | .reord .. => true | _ => false
      firstCause
        [(kinds.any fun k => k == 0, 7), (kinds.any fun k => k == 3 || k == 8, 8),
         (r.ctrs.any fun k => !(nth default i.cfg.ctr k).en, 7), (r.gens.any fun k => !(nth default i.cfg.agc k).en, 7),
         (two isRep, 7), (two isReord, 7),
         (isReord x && all.any fun y => match ruleInfo y.2 with | some q => q.cls == 2 | none => false, 7),
         ((match r.replyTo with | some y => routeKind (nth 0 i.cfg.yt y).toNat == 0 | none => false), 0xA),
         ((bNamed x).isNone && (match i.bChan with | some b => (chansOf r.srcs).contains b | none => false), 7),
         (r.sel < 32 && ((chansOf r.srcs).any fun k => !bitN (guardInreq gd) k), 8),
         (r.sel < 32 && ((im.outsWritten i r).any fun k => !bitN (guardOutreq gd) k), 8),
         (r.sel < 32 && (match bNamed x with | some b => bitN (guardInreq gd) b | none => false), 8),
         ((match i.fixedChain j r with | some cp => st.chainTaken e j cp | none => false), 7),
         ((i.matrixCause x).isSome, (i.matrixCause x).getD 0),
         (all.any fun y => decide (y.1 < j) && !i.conflicts y.1 j &&
            (match ruleInfo y.2 with | some q => q.cls != r.cls && im.shareWrite i q r | none => false), 9)]

/-- R32, R46: a guard entry. One whose OUTREQ names an out-channel of a wharf path or an input port gives cause 8 too, which R206 and
R209 state of rules (the model's choice, log 28). -/
def Image.guardCause (im : Image) (i : ElemImg) (k : Nat) : Option Nat :=
  let g := (nth (0 : W) i.guards k).toNat
  let kinds := ([0, 1, 2, 3].filter fun o => bitN (guardOutreq g) o).map fun o => im.outKind i o
  firstCause
    [(guardHead g != 0 && guardInreq g == 0, 6), ((List.range 8).any fun p => bitN g (8 + p) && !bitN g (16 + p), 6),
     (bitN g 7 && fld g 16 8 == 0, 6), (kinds.any fun x => x == 0, 7)]

/-! ## Routes and the configuration block (R45, R46, R64, R206, R209, R466) -/

/-- The in-channel that a route of element `e` of virtual stripe `vs` feeds; `k` is its out-channel, for the bindings of
input ports and crossings. -/
def Image.feeds (im : Image) (vs e k r : Nat) : Option (Nat × Nat × Nat) :=
  match routeKind r with
  | 1 => (routeElem e r).map fun e' => (vs, e', routeChan r)
  | 2 => (routeElem e r).map fun e' => (vs + 1, e', routeChan r)
  | 4 => if (nth default im.streams (routeIdx r)).dir = 0 then some (vs, e, k) else none
  | 5 => if (nth default im.chans (routeIdx r)).dir = 0 then some (vs, e, k) else none
  | _ => none

/-- The routes of an element in image order: out-channels, then reply targets, each with the in-channel it feeds and
the list entry it names. -/
def Image.routesOf (im : Image) (vs e : Nat) : List (Nat × Option (Nat × Nat × Nat)) :=
  let c := (nth default (nth default im.stripes vs).elems e).cfg
  (List.range 4).map (fun k => let r := (nth 0 c.route k).toNat; (r, im.feeds vs e k r)) ++
  (List.range 8).map (fun y => let r := (nth 0 c.yt y).toNat; (r, im.feeds vs e 0 r))

/-- R64, R209, R466: an earlier route feeds the same in-channel or names the same port entry. `pos` is the place among the
routes of its element. -/
def Image.routeTaken (im : Image) (vs e pos : Nat) : Bool :=
  match (im.routesOf vs e)[pos]? with
  | none => false
  | some (r, f) =>
    let port := routeKind r == 4 || routeKind r == 5
    let hit := fun (x : Nat × Option (Nat × Nat × Nat)) =>
      (f.isSome && x.2 == f) || (port && routeKind x.1 == routeKind r && routeIdx x.1 == routeIdx r)
    (List.range (vs + 1)).any fun v => (List.range 16).any fun e' =>
      if v < vs ∨ (v = vs ∧ e' < e) then (im.routesOf v e').any hit
      else v == vs && e' == e && ((im.routesOf v e').take pos).any hit

/-- R46: the form and reach of a route code. -/
def Image.routeCause (im : Image) (vs e k r : Nat) (reply : Bool) : Option Nat :=
  let i := nth default (nth default im.stripes vs).elems e
  let de := sextN 3 (fld r 10 3)
  let lt := fun (k : Nat) => (nth (0 : BitVec 4) i.cfg.ltype k).toNat
  let st := nth default im.streams (routeIdx r)
  let ch := nth default im.chans (routeIdx r)
  match routeKind r with
  | 0 => if r = 0 then none else some 4
  | 1 => firstCause [(r % 256 != 0, 4), (decide (de < -2 ∨ 2 < de) || (routeElem e r).isNone, 0xA)]
  | 2 => firstCause [(r % 256 != 0, 4), (decide (de < -1 ∨ 1 < de) || (routeElem e r).isNone || im.nstripe == vs + 1, 0xA)]
  | 3 => firstCause [(reply, 0xA), (r % 2 ^ 13 != 0, 4)]
  | 4 => firstCause
      [(reply, 0xA), (fld r 8 5 != 0, 4), (decide (im.streams.length ≤ routeIdx r), 0xA),
       (st.ty != (if st.dir = 0 then lt k else lt (4 + k)), 0xA)]
  | 5 => firstCause
      [(reply, 0xA), (fld r 8 5 != 0, 4), (decide (im.chans.length ≤ routeIdx r), 0xA),
       (ch.ty != (if ch.dir = 0 then lt k else lt (4 + k)), 0xA)]
  | _ => some 0xA

/-- R39, R45: the FCHAIN entry of a slot that holds no family rule. -/
def ElemImg.fchainBad (i : ElemImg) (j : Nat) : Bool :=
  !(i.slots.any fun x => x.1 == j && (match ruleInfo x.2 with | some r => r.fch | none => false)) && nth 0 i.cfg.fchain j != 0

/-- R39, R45: the slot and cause of the first fault of the configuration block after its routes. -/
def cfgCause (m : ImgBytes) (o : Nat) (i : ElemImg) : Option (Nat × Nat) :=
  let at_ := fun (l : List (Bool × Nat)) => (firstCause l).map fun c => (0x3F, c)
  (at_ [(i.cfg.ltype.any fun t => t == 15, 7), (fld (imgNum m (o + 0x1C) 8) 34 30 != 0, 4), (fld (imgNum m (o + 0x24) 8) 34 30 != 0, 4),
     (fld (imgNum m (o + 0x2C) 8) 8 8 != 0, 4), (fld (imgNum m (o + 0x2C) 8) 49 15 != 0, 4),
     (fld (imgNum m (o + 0x34) 8) 8 8 != 0, 4), (fld (imgNum m (o + 0x34) 8) 49 15 != 0, 4)]).orElse fun _ =>
  (((List.range 32).find? fun j => i.fchainBad j).map fun j => (j, 4)).orElse fun _ =>
  at_
    [(fld (imgNum m (o + 0x54) 4) 27 5 != 0, 4), (fld (imgNum m (o + 0x5A) 1) 5 3 != 0, 4), (fld (imgNum m (o + 0x5B) 1) 6 2 != 0, 4),
     (decide (5 ≤ i.cfg.frm), 7), (fld (imgNum m (o + 0x5C) 1) 4 4 != 0, 4), (!imgZero m (o + 0x5D) 3, 4)]

/-- The first fault of element `e` of virtual stripe `vs`: slot and cause. -/
def Image.elemErr (im : Image) (m : ImgBytes) (vs e : Nat) : Option (Nat × Nat) :=
  let st := nth default im.stripes vs
  let i := nth default st.elems e
  let o := stripeOff vs + 0x40 + 512 * e
  if !tb st.mask e then (if imgZero m o 512 then none else some (0x3F, 4))
  else
    let find := fun (n : Nat) (f : Nat → Option Nat) (slot : Nat → Nat) =>
      (List.range n).findSome? fun j => (f j).map fun c => (slot j, c)
    let none' := fun (_ : Nat) => 0x3F
    let route := fun (p : Nat) =>
      let r := (im.routesOf vs e)[p]?
      match r with
      | some x => match im.routeCause vs e p x.1 (decide (4 ≤ p)) with
        | some c => some c
        | none => if im.routeTaken vs e p then some 0xA else none
      | none => none
    (find 32 (fun j => im.ruleCause st e j) id).orElse fun _ =>
    (find 32 (fun k => im.guardCause i k) none').orElse fun _ =>
    (find 32 (fun k => if tb (nth (0 : W) i.conf k) k then some 9 else none) id).orElse fun _ =>
    (find 12 route none').orElse fun _ =>
    cfgCause m (o + 0x1A0) i

/-- R43, R82: a stripe header. -/
def Image.stripeCause (im : Image) (m : ImgBytes) (k : Nat) : Option Nat :=
  let o := stripeOff k
  let st := nth default im.stripes k
  let want := if nth false im.stateful k then 26624 * ((List.range 16).filter fun e => tb st.mask e).length else 0
  firstCause
    [(imgNum m o 2 != k, 2), (st.stateB != want, 2), (!imgZero m (o + 8) 24, 4),
     (st.digest != sha3 (imgList m (o + 0x40) 8192), 1)]

/-- The first fault of the stripe records. -/
def Image.stripesErr (im : Image) (m : ImgBytes) : Option CfgErr :=
  (List.range im.nstripe).findSome? fun k =>
    match im.stripeCause m k with
    | some c => some ⟨k, 0x1F, 0x3F, c⟩
    | none => (List.range 16).findSome? fun e => (im.elemErr m k e).map fun x => ⟨k, e, x.1, x.2⟩

/-! ## Lists (R47, R210, R256, R350) -/

def chanCause (m : ImgBytes) (o : Nat) : Option Nat :=
  firstCause
    [(decide (1 < imgNum m o 1), 2), (decide (14 < imgNum m (o + 1) 1), 7), (imgNum m (o + 2) 2 != 256, 2),
     (imgNum m (o + 4) 4 / 2 ^ 17 != 0, 4), (!imgZero m (o + 8) 8, 4)]

/-- R47, R210, R212: a stream entry; a region index is judged at each access (R199). -/
def streamCause (m : ImgBytes) (o : Nat) : Option Nat :=
  let x := parseStream m o
  let args := x.idx == 0xFFFF && x.dir == 0
  firstCause
    [(decide (1 < x.kind), 2), (decide (14 < x.ty), 7), (decide (1 < x.dir), 2), (!imgZero m (o + 3) 1, 4),
     (x.kind == 1 && decide (256 ≤ x.idx), 2), (!imgZero m (o + 6) 2, 4),
     (x.kind == 0 && (if args then x.stride != 0 else x.stride == 0 || x.stride % 64 != 0 || decide (2 ^ 31 ≤ x.stride)), 2),
     (!imgZero m (o + 12) 4, 4)]

/-- R348 to R351: the access bits of a record. -/
def Region.declared (r : Region) : Bool := r.mode % 8 != 0

/-- R350: a record that can be a forward target. -/
def Region.isTarget (r : Region) (len : Nat) : Bool :=
  r.mode % 8 == 0 && r.action == 0 && r.fwd == 0 && r.extent == len

/-- R350: a record on its own: the bounds of its range. -/
def Region.shapeBad (r : Region) : Bool :=
  r.extent == 0 || !canonical r.base ||
  (if r.base < 2 ^ 47 then decide (2 ^ 47 < r.base + r.extent) else decide (2 ^ 64 < r.base + r.extent))

/-- R350: record `k` of a task's list. -/
def regionCause (rs : List Region) (k : Nat) : Option Nat :=
  let r := nth default rs k
  let t := nth default rs r.fwd
  firstCause
    [(r.mode / 16 != 0 || r.action / 8 != 0 || r.fwd / 64 != 0, 4), (r.shapeBad, 2), (r.declared && r.base % 65536 != 0, 2),
     (bitN r.action 2 && (decide (rs.length ≤ r.fwd) || r.fwd == k || !t.isTarget r.extent), 2),
     (!bitN r.action 2 && r.fwd != 0, 4)]

/-- The first fault of a list. -/
def listErr (n : Nat) (f : Nat → Option Nat) : Option CfgErr := ((List.range n).findSome? f).map CfgErr.whole

/-! ## Regions and extents (R195 to R197, R218) -/

/-- What ends a walk of a region: a page that is absent or lacks a permission, or one that is not local. -/
inductive WalkEnd where
  | absent (va : Nat)
  | remote
  deriving DecidableEq, Repr

/-- R196: the leaf grants what the region's MODE needs. -/
def Leaf.serves (l : Leaf) (mode : Nat) : Bool :=
  (l.r || !(bitN mode 0 || bitN mode 2)) && (l.w || !(bitN mode 1 || bitN mode 2))

/-- R195: a leaf that the fabric can see: 64 KiB, 2 MiB or 1 GiB, on the isle. -/
def Leaf.localTo (l : Leaf) (n : Nat) : Bool := (l.log == 16 || l.log == 21 || l.log == 30) && paPanel l.pa && paIsle l.pa == n

/-- An extent joined to the last one of its region when both are contiguous and not compressed. -/
def joinExtent (x : Extent) : List Extent → List Extent
  | [] => [x]
  | y :: r =>
    if y.region = x.region ∧ !y.cmp ∧ !x.cmp ∧ y.pbase + y.len * 65536 = x.pbase ∧ y.roff + y.len * 65536 = x.roff then
      { y with len := y.len + x.len } :: r
    else x :: y :: r

/-- R196: region `idx` walked from offset `off`, its extents before `acc`, newest first; `fuel` bounds the pages. -/
def State.walkRegion (s : State) (tenant n idx : Nat) (r : Region) : Nat → Nat → List Extent → Except WalkEnd (List Extent)
  | 0, _, acc => .ok acc
  | f + 1, off, acc =>
    if r.extent ≤ off then .ok acc
    else
      let va := r.base + off
      match s.walk tenant va with
      | none => .error (.absent va)
      | some l =>
        if !l.localTo n then .error .remote
        else if !l.serves r.mode then .error (.absent va)
        else
          let next := min ((va / 2 ^ l.log + 1) * 2 ^ l.log - r.base) (ceilDiv r.extent 65536 * 65536)
          let x : Extent := ⟨idx, off, l.cmp, paOff (if l.cmp then l.base else l.pa), (next - off) / 65536⟩
          s.walkRegion tenant n idx r f next (joinExtent x acc)

/-- R196: the extents of the declared regions of a list, in order. -/
def State.extentsOf (s : State) (tenant n : Nat) (rs : List Region) : Except WalkEnd (List Extent) :=
  ((List.range rs.length).foldlM (fun acc k =>
    let r := nth default rs k
    if r.declared then s.walkRegion tenant n k r (r.extent / 65536 + 1) 0 acc else .ok acc) ([] : List Extent)).map List.reverse

/-- R196: the extent table holds 256, each generator 8. -/
def Image.extentsFit (im : Image) (xs : List Extent) : Bool :=
  decide (xs.length ≤ 256) && im.stripes.all fun st => st.elems.all fun e => e.cfg.agc.all fun a =>
    !a.en || decide ((xs.filter fun x => x.region == a.region).length ≤ 8)

/-- R256: an owner range, given the task's regions. -/
def State.ownerBad (s : State) (tenant : Nat) (im : Image) (rs : List Region) (k : Nat) : Bool :=
  let o := nth default im.owners k
  let stop := o.base + o.extent
  o.base % 64 != 0 || o.extent % 64 != 0 || decide (im.nstripe ≤ o.vs) || !(o.elem < 16 && tb (nth default im.stripes o.vs).mask o.elem) ||
  !(rs.any fun r => bitN r.mode 2 && decide (r.base ≤ o.base) && decide (stop ≤ r.base + r.extent)) ||
  !((List.range (o.extent / 64)).all fun i => match s.walk tenant (o.base + 64 * i) with | some l => paLagoon l.pa | none => false) ||
  (List.range k).any fun j => let p := nth default im.owners j; decide (o.base < p.base + p.extent) && decide (p.base < stop)

/-! ## The check at LAUNCH (R48, R196, R219, R333, R352) -/

/-- What the check of a task comes to: a page that must become present first, an end status with its CONFIG fault if it
is one, the COMPRESSED fault of a region (R219, R352), or the image and region list. -/
inductive Admit where
  | wait (va : Nat) (wr : Bool)
  | refuse (status : Nat) (e : Option CfgErr)
  | compressed (region : Nat)
  | ok (im : Image) (rs : List Region)
  deriving DecidableEq, Repr

/-- R48: the first page of a range that is absent or unreadable, or not local. -/
def endOfPages (walk : Nat → Option Leaf) (n va len : Nat) : Option WalkEnd :=
  (List.range ((va % 4096 + len + 4095) / 4096)).findSome? fun i =>
    let a := va / 4096 * 4096 + 4096 * i
    match walk a with
    | none => some (.absent a)
    | some l => if !(paPanel l.pa && paIsle l.pa == n) then some .remote else if !l.r then some (.absent a) else none

/-- R48: a range as the page table has it. -/
def State.pagesEnd (s : State) (tenant n va len : Nat) : Option WalkEnd := endOfPages (s.walk tenant) n va len

/-- R336: a range as the harbour's translation cache has it. -/
def State.heldEnd (s : State) (tenant n va len : Nat) : Option WalkEnd := endOfPages (s.hwalk n tenant) n va len

/-- R336: the byte at a virtual address that the harbour reads through its translation cache. -/
def State.heldByte (s : State) (n tenant va : Nat) : Byte :=
  match (s.hwalk n tenant (va % 2 ^ 64)).bind s.readPa with
  | some a => s.byte a
  | none => 0

/-- R336: the pages of a range that the harbour has translated, in its cache. -/
def State.harbourUseAll (s : State) (n tenant va len : Nat) : State :=
  (List.range ((va % 4096 + len + 4095) / 4096)).foldl (fun s i => s.harbourUse n tenant ((va / 4096 * 4096 + 4096 * i) % 2 ^ 64)) s

/-- R336: ENTRY, ARGS and REGS of a card translated. -/
def State.harbourCard (s : State) (n : Nat) (c : Card) : State :=
  let s := (s.harbourUseAll n c.tenant c.regs (16 * c.regn)).harbourUseAll n c.tenant c.args (c.argn * c.argsz)
  let s := s.harbourUseAll n c.tenant c.entry 128
  s.harbourUseAll n c.tenant c.entry (imgNum (fun o => s.heldByte n c.tenant (c.entry + o)) 0x34 4)

/-- The bytes at a virtual address of a tenant. -/
def State.vaByte (s : State) (tenant va : Nat) : Byte := (s.vaRead tenant (va % 2 ^ 64)).1

/-- R323: the task's region list: the card's records, then those of the image that they do not cover. -/
def joinRegions (card : List Region) (im : Image) : List Region := card ++ im.regions.drop card.length

/-- R352: the forward targets of a list. -/
def targetsOf (rs : List Region) : List Nat := ((rs.filter fun r => bitN r.action 2).map (·.fwd))

/-- R352: a forward target as the launch finds it. -/
def State.targetEnd (s : State) (tenant k : Nat) (r : Region) : Option Admit :=
  (List.range ((r.base % 4096 + r.extent + 4095) / 4096)).findSome? fun i =>
    let a := r.base / 4096 * 4096 + 4096 * i
    match s.walk tenant a with
    | none => some (.wait a true)
    | some l =>
      if paSpace l.pa != 0 then some (.refuse 1 (some (.whole 2)))
      else if l.cmp then some (.compressed k)
      else if !(l.w && l.a && l.d) then some (.wait a true) else none

/-- R333: a region that overlaps the buffer window lies wholly in one of the task's buffers. -/
def Harbour.bufferBad (h : Harbour) (c : Card) (r : Region) : Bool :=
  let stop := r.base + r.extent
  let inBuf := fun (on : Bool) (hd : Nat) => on && match lookupN (hd % 2 ^ 16) h.handles with
    | some x => decide (h.bwin + 65536 * x.first ≤ r.base) && decide (stop ≤ h.bwin + 65536 * (x.first + x.count))
    | none => false
  decide (r.base < h.bwin + 96 * 2 ^ 20) && decide (h.bwin < stop) && !(inBuf (bitN c.flags 0) c.result || inBuf (bitN c.flags 1) c.inh)

/-- R324: the rings that a card selects. -/
def Card.mask (c : Card) : List Nat := (List.range 6).filter fun k => c.rings % 64 == 0 || bitN c.rings k

/-- A list by its pointer put among lists in ascending order of their pointers. -/
def insList (x : Nat × Option CfgErr) : List (Nat × Option CfgErr) → List (Nat × Option CfgErr)
  | [] => [x]
  | y :: r => if x.1 < y.1 then x :: y :: r else y :: insList x r

/-- R47, R49: the first fault of the lists, in the order in which they stand in the image. The joined region list is judged
where the image's own stands (log 28). -/
def Image.listsErr (im : Image) (m : ImgBytes) (rs : List Region) : Option CfgErr :=
  let chan := fun i => chanCause m (imgNum m 0x1C 4 + 16 * i)
  let stream := fun i => streamCause m (imgNum m 0x28 4 + 16 * i)
  let owner := fun i => if fld (imgNum m (imgNum m 0x30 4 + 16 * i + 15) 1) 1 7 != 0 then some 4 else none
  let regs := if 64 < rs.length then some (CfgErr.whole 2) else listErr rs.length (regionCause rs)
  ([(imgNum m 0x30 4, listErr im.owners.length owner), (imgNum m 0x2C 4, regs), (imgNum m 0x28 4, listErr im.streams.length stream),
    (imgNum m 0x1C 4, listErr im.chans.length chan)].foldl (fun l x => insList x l) []).findSome? (·.2)

/-- The image read and checked alone (R48). -/
def State.loadImage (s : State) (n : Nat) (c : Card) (card : List Region) : Admit :=
  let m : ImgBytes := fun o => s.heldByte n c.tenant (c.entry + o)
  if c.entry % 64 ≠ 0 then .refuse 1 (some (.whole 2))
  else match s.heldEnd c.tenant n c.entry 128 with
  | some (.absent a) => .wait a false
  | some .remote => .refuse 1 (some (.whole 2))
  | none =>
    match s.heldEnd c.tenant n c.entry (imgNum m 0x34 4) with
    | some (.absent a) => .wait a false
    | some .remote => .refuse 1 (some (.whole 2))
    | none =>
      match headerCause m (decide (1 < c.mask.length)) with
      | some x => .refuse 1 (some (.whole x))
      | none =>
        let im := parseImage m c.entry
        let rs := joinRegions card im
        match (im.stripesErr m).orElse fun _ => im.listsErr m rs with
        | some e => .refuse 1 (some e)
        | none => .ok im rs

/-- The whole check of a task's image and regions. -/
def State.judgeCard (s : State) (n : Nat) (c : Card) (card : List Region) : Admit :=
  match s.loadImage n c card with
  | .ok im rs =>
    match s.extentsOf c.tenant n rs with
    | .error (.absent a) => .wait a false
    | .error .remote => .refuse 1 (some (.whole 0xD))
    | .ok xs =>
      if !im.extentsFit xs || (List.range im.owners.length).any (fun k => s.ownerBad c.tenant im rs k) then .refuse 1 (some (.whole 2))
      else match xs.find? fun x => x.cmp && fld (nth default rs x.region).mode 1 2 != 0 with
      | some x => .compressed x.region
      | none =>
        match (targetsOf rs).findSome? fun t => s.targetEnd c.tenant t (nth default rs t) with
        | some a => a
        | none => if rs.any fun r => (s.isle n).hb.bufferBad c r then .refuse 5 none else .ok im rs
  | a => a

/-- R49, R486: the CONFIG fault of a task in the isle's error log. -/
def State.postConfig (s : State) (n seg : Nat) (e : CfgErr) : State :=
  s.postErr n 0x0A seg (e.vs + e.elem * 2 ^ 16 + e.slot * 2 ^ 24) e.cause

/-! ## Fills of the configuration cache (R48, R85, R434) -/

/-- CONFIG_CACHE_FILL (R85): the image of virtual stripe `cur.j` of task `cur.e` enters the cache of ring `cur.k`. A copy in
memory that fails its digest ends the task with status CONFIG (R434). -/
def execConfigCacheFill (s : State) : Res :=
  let n := s.cur.n
  let k := s.cur.k
  let vs := s.cur.j
  match (s.isle n).hb.task s.cur.e with
  | none => .next s
  | some t =>
    let va := t.image.entry + stripeOff vs + 0x40
    if vs < t.image.nstripe ∧ ¬((s.isle n).ring k).cache.contains (t.no, vs) ∧ (s.heldEnd t.card.tenant n va 8192).isNone then
      if sha3 ((List.range 8192).map fun i => s.heldByte n t.card.tenant (va + i)) = (nth default t.image.stripes vs).digest then
        .next ((s.onRing n k fun r => r.cacheUse t.no vs).spillAll n k [(t.no, vs)])
      else
        let mine := match s.seg n k with | some g => g.task == t.no | none => false
        let s := s.postConfig n (match s.seg n k with | some g => if mine then g.id.toNat else 0 | none => 0) ⟨vs, 0x1F, 0x3F, 1⟩
        .next ((if mine then (s.settle n k).endSeg n k else s).failTask n t.no 1)
    else .next s

end Sys2Proof.Machine
end

