-- ==== Sys2Proof/Machine/Edge.lean ====
section
/-! DEFINITION. The edge unit (R353 to R359): flushes, invalidates and forwards of region records, in 64 KiB steps, for tasks
and for dock words. -/

namespace Sys2Proof.Machine

/-- A 48-bit virtual address in canonical form (R335). -/
def sext48 (a : Nat) : Nat := if a % 2 ^ 48 < 2 ^ 47 then a % 2 ^ 48 else a % 2 ^ 48 + (2 ^ 64 - 2 ^ 48)

/-- R354: a piece joined to the last one of a translation where it continues that. -/
def joinPiece (o len pa : Nat) (l : List (Nat × Nat × Nat)) : List (Nat × Nat × Nat) :=
  match l.getLast? with
  | some (o', n, p) => if o' + n = o ∧ p + n = pa then l.dropLast ++ [(o', n + len, p)] else l ++ [(o, len, pa)]
  | none => [(o, len, pa)]

/-- R353, R354: a virtual range as the page table translates it now, in pieces of offset, length and physical address, from the line
that holds its first byte on; pages that are not present are skipped. -/
def State.mapOf (s : State) (tenant base len : Nat) : List (Nat × Nat × Nat) :=
  let b := base / 64 * 64
  let stop := base % 64 + len
  (List.range ((b % 4096 + stop + 4095) / 4096)).foldl (fun l i =>
    let lo := if i = 0 then 0 else 4096 * i - b % 4096
    let hi := min stop (4096 * (i + 1) - b % 4096)
    match s.walk tenant ((b + lo) % 2 ^ 64) with
    | some x => joinPiece lo (hi - lo) x.pa l
    | none => l) []

/-- R353: the physical lines of the part of a translated range from byte `off` on. -/
def linesIn (map : List (Nat × Nat × Nat)) (off len : Nat) : List Nat :=
  dedup (map.flatMap fun x =>
    let lo := max off x.1
    let hi := min (off + len) (x.1 + x.2.1)
    if lo < hi then
      let a := (x.2.2 + (lo - x.1)) / 64
      (List.range ((x.2.2 + (hi - 1 - x.1)) / 64 + 1 - a)).map (a + ·)
    else [])

/-- R353, R354: the physical lines of a virtual range; pages that are not present are skipped. -/
def State.linesOf (s : State) (tenant base len : Nat) : List Nat := linesIn (s.mapOf tenant base len) 0 (base % 64 + len)

/-! ## Holders (R240, R353) -/

/-- The write-combine buffers of an isle drained of some lines. -/
def State.drainOf (s : State) (n : Nat) (lines : List Nat) : State :=
  (List.range 6).foldl (fun s k => match s.seg n k with
    | none => s
    | some g =>
      let hit := fun (l : WcLine) => lines.contains (l.pa / 64)
      (s.drainLines (g.live.stripes.flatMap fun st => st.wharf.wc.filter hit)).onSeg n k fun g => g.onLive fun c =>
        { c with stripes := c.stripes.map fun st => { st with wharf := { st.wharf with wc := st.wharf.wc.filter fun l => !hit l } } }) s

/-- R353: FLUSH on some lines. -/
def State.flushLines (s : State) (n : Nat) (ss : Bool) (lines : List Nat) : State :=
  let s := s.drainOf n lines
  let s := if ss then lines.foldl (fun s l => s.skClean n l) s else s
  { s with sc := s.sc.map fun x => if lines.contains x.1 && paIsle (x.1 * 64) == n then (x.1, false) else x }

/-- R353: INV on some lines of a SKERRY-SHARED region. -/
def State.invLines (s : State) (n : Nat) (lines : List Nat) : State :=
  lines.foldl (fun s l => s.skInv n (l * 64)) s

/-- R410: a line marked poisoned. -/
def State.poisonLine (s : State) (line : Nat) : State :=
  (List.range (64 / poisonSize (line * 64))).foldl (fun s i => s.poison (line * 64 + i * poisonSize (line * 64))) s

/-! ## The unit (R359) -/

/-- The mark that the copies of a forward carry. -/
def EdgeJob.key (j : EdgeJob) : Nat := j.who * 2 + j.isQueue.toNat
/-- R349: SKERRY-SHARED. -/
def Region.ss (r : Region) : Bool := bitN r.mode 3

/-- R356: a chunk of a forward handed to the ferry, when a slot is free. -/
def State.forwardChunk (s : State) (n : Nat) (j : EdgeJob) (off : Nat) : State × Bool :=
  match (List.range 1024).find? fun i => s.slotFree n i with
  | some slot =>
    let c : Copy := { (default : Copy) with
      op := 0, src := (j.reg.base + off) % 2 ^ 64, dst := (j.dst + off) % 2 ^ 64, len := min 65536 (j.reg.extent - off), tenant := j.tenant
      edge := some j.key, vs := j.rec_ }
    (s.startCopy n slot c true, true)
  | none => (s, false)

/-- R354: an action with the translation of its region as it starts. -/
def State.edgeStart (s : State) (j : EdgeJob) : EdgeJob :=
  match j.map with
  | some _ => j
  | none => { j with map := some (s.mapOf j.tenant j.reg.base j.reg.extent) }

/-- R356: the part of a forward's target from an offset on, to the next 64 KiB boundary, has left the panel view. -/
def State.targetGone (s : State) (n : Nat) (j : EdgeJob) (off : Nat) : Bool :=
  (List.range (min 65536 (j.reg.extent - off))).any fun i =>
    ((j.dst + off + i) % 4096 == 0 || i == 0) && match s.fwalk n j.tenant ((j.dst + off + i) % 2 ^ 64) with
      | some l => paPanel l.pa && paIsle l.pa != n && !(s.isle n).pview.members.any fun m => m.2 == paIsle l.pa
      | none => false

/-- R356: a forward whose target has left the view is abandoned, with one error record. -/
def State.abandon (s : State) (n : Nat) (j : EdgeJob) : State × EdgeJob :=
  (if j.gone then s else s.postErr n 6 0 0 (j.rec_ + j.who * 2 ^ 8), { j with gone := true })

/-- One step of an action, to the next 64 KiB boundary of the region; `none` when it is done. -/
def State.edgeChunk (s : State) (n : Nat) (j : EdgeJob) : State × Option EdgeJob :=
  let full := (j.reg.extent + 65535) / 65536 * 65536
  let j := s.edgeStart j
  let lines := fun (o : Nat) => linesIn (j.map.getD []) (j.reg.base % 64 + o) (min 65536 (j.reg.extent - o))
  let next := { j with off := j.off + 65536 }
  if j.act = 1 then
    if !j.reg.ss then (s, none)
    else (s.invLines n (lines j.off), if full ≤ j.off + 65536 then none else some next)
  else if j.act = 0 then (s.flushLines n j.reg.ss (lines j.off), if full ≤ j.off + 65536 then none else some next)
  else if j.off < full then (s.flushLines n j.reg.ss (lines j.off), some next)
  else if j.off < 2 * full && !j.gone then
    if s.targetGone n j (j.off - full) then let (s, j) := s.abandon n j; (s, some j)
    else
    let (s, ok) := s.forwardChunk n j (j.off - full)
    (s, some (if ok then next else j))
  else (s, if (s.isle n).ferry.copies.any fun c => c.2.edge == some j.key then some j else none)

/-- R359: the action in service: the highest priority, then the one that became ready first. -/
def edgePick : List EdgeJob → Option Nat
  | [] => none
  | l => findIdx (fun (j : EdgeJob) => l.all fun x => decide (x.prio ≤ j.prio)) l

/-- One step of the edge unit of an isle. -/
def State.edgeStep (s : State) (n : Nat) : State :=
  let h := (s.isle n).hb
  match edgePick h.edge with
  | none => s
  | some i =>
    match s.edgeChunk n (nth default h.edge i) with
    | (s, some j) => s.onHarbour n fun h => { h with edge := upd (fun _ => j) h.edge i }
    | (s, none) => s.onHarbour n fun h => { h with edge := dropAt h.edge i }

/-- The edge unit has work for a task or a queue. -/
def Harbour.edgeBusy (h : Harbour) (isQueue : Bool) (who : Nat) : Bool := h.edge.any fun j => j.isQueue == isQueue && j.who == who

/-- The records of a task's list with an action, as edge actions. -/
def Task.jobs (t : Task) (act : Nat) : List EdgeJob :=
  ((List.range t.regions.length).filter fun k => bitN (nth default t.regions k).action act).map fun k =>
    let r := nth default t.regions k
    { isQueue := false, who := t.no, act := act, prio := t.prio, tenant := t.card.tenant, reg := r, rec_ := k,
      dst := (nth default t.regions r.fwd).base, off := 0, map := none, gone := false }

/-! ## The start of a task (R355) -/

/-- A task whose launch is accepted and not held: its INV actions, queued once (R355), or ready when it has none. -/
def State.startTask (s : State) (n no : Nat) : State :=
  match (s.isle n).hb.task no with
  | none => s
  | some t =>
    let jobs := if t.begun then [] else t.jobs 1
    (s.onHarbour n fun h => { h with edge := h.edge ++ jobs }).onHarbour n fun h =>
      h.onTask no fun t => { t with begun := true, st := if jobs.isEmpty then .ready else .inv }

/-- EDGE_INV_ACTIONS (R355): a step of the unit; task `cur.e` may take a ring once its INV actions are done. -/
def execEdgeInvActions (s : State) : Res :=
  let n := s.cur.n
  match (s.isle n).hb.task s.cur.e with
  | some t =>
    if t.st = .inv then
      let s := if (s.isle n).hb.edgeBusy false t.no then s.edgeStep n else s
      if (s.isle n).hb.edgeBusy false t.no then .next s
      else .next (s.onHarbour n fun h => h.onTask t.no fun t => { t with st := .ready })
    else .next s
  | none => .next s

/-! ## The end of a task (R355, R410) -/

/-- R410: the write regions of a task whose context was lost. -/
def State.poisonTask (s : State) (t : Task) : State :=
  (t.regions.filter fun r => bitN r.mode 1 || bitN r.mode 2).foldl (fun s r =>
    (s.linesOf t.card.tenant r.base r.extent).foldl State.poisonLine s) s

/-- EDGE_END_ACTIONS (R355): a step of the end actions of task `cur.e`: FLUSH actions, then forwards. -/
def execEdgeEndActions (s : State) : Res :=
  let n := s.cur.n
  match (s.isle n).hb.task s.cur.e with
  | some t =>
    if t.st = .ending then
      let s := if (s.isle n).hb.edgeBusy false t.no then s.edgeStep n else s
      if (s.isle n).hb.edgeBusy false t.no then .next s
      else if t.phase = 0 then
        .next (s.onHarbour n fun h => { h with edge := h.edge ++ t.jobs 2 }.onTask t.no fun t => { t with phase := 1 })
      else .next (s.onHarbour n fun h => h.onTask t.no fun t => { t with st := .done })
    else .next s
  | none => .next s

/-- The end actions of a task queued; `State.endTask` decides when. -/
def State.beginEnd (s : State) (n : Nat) (t : Task) : State :=
  let s := if t.lost then s.poisonTask t else s
  s.onHarbour n fun h => { h with edge := h.edge ++ t.jobs 0 }.onTask t.no fun t => { t with st := .ending, phase := 0 }

end Sys2Proof.Machine
end

