-- ==== Sys2Proof/Machine/Tasks.lean ====
section
/-! DEFINITION. Tasks: their admission, conflicts, placement on rings, the dealing of runs, completion, and pre-emption
(R248, R325 to R333, R355 to R358, R376, R378, R466). -/

namespace Sys2Proof.Machine

/-! ## Conflicts (R357, R358) -/

/-- Two ranges overlap. -/
def overlap (a la b lb : Nat) : Bool := decide (a < b + lb) && decide (b < a + la)
def Region.overlaps (r : Region) (b lb : Nat) : Bool := overlap r.base r.extent b lb

/-- R357: record `k` of a task's list writes. -/
def Task.writes (t : Task) (k : Nat) : Bool :=
  bitN (nth default t.regions k).mode 1 || bitN (nth default t.regions k).mode 2 || (targetsOf t.regions).contains k

/-- R357: the image declares an owner range in the overlap of two records. -/
def Task.ownsIn (t : Task) (a b : Region) : Bool :=
  let lo := max a.base b.base
  let hi := min (a.base + a.extent) (b.base + b.extent)
  t.image.owners.any fun o => overlap o.base o.extent lo (hi - lo)

/-- R357: two records conflict. -/
def recsConflict (a b : Task) (i j : Nat) : Bool :=
  let x := nth default a.regions i
  let y := nth default b.regions j
  let accOnly := fun (r : Region) => bitN r.mode 2 && !bitN r.mode 1
  x.overlaps y.base y.extent && (a.writes i || b.writes j) &&
  !(accOnly x && accOnly y && !a.ownsIn x y && !b.ownsIn x y)

/-- R357: two tasks conflict; one whose image is not yet read may. -/
def tasksConflict (a b : Task) : Bool :=
  a.card.tenant == b.card.tenant &&
  (a.st == .heldImage || (List.range a.regions.length).any fun i => (List.range b.regions.length).any fun j => recsConflict a b i j)

/-- R358: a task conflicts with one launched earlier that has not completed. -/
def Harbour.blocked (h : Harbour) (t : Task) : Bool := h.tasks.any fun a => decide (a.no < t.no) && tasksConflict a t

/-! ## Admission (R48, R196, R358) -/

/-- A task that ends before its first run: no end actions (R355). -/
def State.refuseTask (s : State) (n no status : Nat) : State :=
  s.onHarbour n fun h => h.onTask no fun t => { t with status := some (t.status.getD status), dealt := true, st := .done }

/-- A task whose image and regions are known and present: held for a conflict, or started. -/
def State.enterTask (s : State) (n no : Nat) : State :=
  match (s.isle n).hb.task no with
  | some t =>
    if (s.isle n).hb.blocked t then s.onHarbour n fun h => h.onTask no fun t => { t with st := .heldConflict }
    else s.startTask n no
  | none => s

/-- R358: tasks held by a conflict that is gone are started. -/
def State.releaseHeld (s : State) (n : Nat) : State :=
  (s.isle n).hb.tasks.foldl (fun s t => if t.st = .heldConflict then s.enterTask n t.no else s) s

/-- The check of a task's image and regions: it waits for a page, ends, or goes on. `card` are the card's region records, the
first of the list. -/
def State.judgeTask (s : State) (n no : Nat) (card : List Region) : State :=
  match (s.isle n).hb.task no with
  | none => s
  | some t =>
    let s := s.harbourCard n t.card
    match s.judgeCard n t.card card with
    | .compressed k => (s.onHarbour n fun h => { h with cmpFault := some (no, k) }).refuseTask n no 4
    | .ok im rs =>
      (s.onHarbour n fun h => h.onTask no fun t => { t with image := im, regions := rs, st := .ready }).enterTask n no
    | .refuse status e =>
      let s := match e with | some x => s.postConfig n 0 x | none => s
      s.refuseTask n no status
    | .wait va wr =>
      let s := if t.miss = va then s else s.pageRequest n ⟨t.card.tenant, 1, wr, 0, va⟩
      s.onHarbour n fun h => h.onTask no fun t =>
        match s.loadImage n t.card card with
        | .ok im rs => { t with image := im, regions := rs, st := .heldPages, miss := va }
        | _ => { t with regions := card, st := .heldImage, miss := va }

/-- R358: a task checked; later tasks that its image, once read, does not conflict with are no longer held for it. -/
def State.admitTask (s : State) (n no : Nat) (card : List Region) : State := (s.judgeTask n no card).releaseHeld n

/-! ## Who waits for a ring (R326, R328, R329) -/

/-- R327: rings that hold a segment of a task. -/
def Isle.ringsOf (i : Isle) (no : Nat) : Nat := (i.rings.filter fun r => match r.seg with | some g => g.task == no | none => false).length

/-- A segment of the task stands off its ring. -/
def Isle.awayOf (i : Isle) (no : Nat) : Bool := i.rings.any fun r => r.saved.any (fun x => x.1.task == no) || r.scanned.any fun x => x.1.task == no

/-- R324: RMAX. -/
def Card.rmax (c : Card) : Nat := let r := fld c.rings 6 3; if r = 0 ∨ r = 7 then 6 else r

/-- R216: a promotion in progress holds launches whose write regions overlap its range. -/
def Harbour.promoHolds (h : Harbour) (t : Task) : Bool :=
  h.promo.any fun p => p.state == 1 && match p.job with
    | some (base, _, tenant) => tenant == t.card.tenant && t.regions.any fun r => fld r.mode 1 2 != 0 && r.overlaps base (2 ^ 21)
    | none => false

/-- R326: the task is eligible for ring `k`. -/
def Isle.eligible (i : Isle) (t : Task) (k : Nat) : Bool :=
  let held := i.ringsOf t.no
  (t.st == .ready || t.st == .running) && !t.dealt && decide (t.next < t.card.argn) && t.card.mask.contains k &&
  (i.ring k).stripes != 0 && decide (held < t.card.rmax) && !i.hb.promoHolds t &&
  !(t.image.streams.any (fun x => x.kind == 1) && (held != 0 || i.awayOf t.no))

/-- R328: of two tasks that wait, the one that the harbour takes first; `last` received the last run of the priority. -/
def Task.firstOf (last : Nat) (a b : Task) : Bool :=
  if a.prio != b.prio then decide (b.prio < a.prio)
  else if a.coll != b.coll then a.coll
  else if decide (last < a.no) != decide (last < b.no) then decide (last < a.no)
  else decide (a.no < b.no)

/-- R328: the task that ring `k` takes next, apart from one task. -/
def Isle.nextTask (i : Isle) (k skip : Nat) : Option Task :=
  let c := i.hb.tasks.filter fun t => t.no != skip && i.eligible t k
  match c with
  | [] => none
  | t :: r => some (r.foldl (fun best x => if x.firstOf (nth 0 i.hb.lastPrio x.prio) best then x else best) t)

/-- The priority of a task by number. -/
def Harbour.prioOf (h : Harbour) (no : Nat) : Nat := match h.task no with | some t => t.prio | none => 0

/-- R328, R215: the priority of a segment that waits to return to ring `k`; `cmd` marks a scanned-out one that is queued. -/
def Isle.backPrio (i : Isle) (k : Nat) : Option Nat :=
  let r := i.ring k
  let ps := (r.saved.map fun x => i.hb.prioOf x.1.task) ++ (r.scanned.filter fun x => x.1.cmd).map fun x => i.hb.prioOf x.1.task
  match ps with
  | [] => none
  | p :: l => some (l.foldl max p)

/-! ## Runs (R79, R327) -/

/-- R327: the last run dealt to the segment has finished. -/
def Seg.runOver (g : Seg) : Bool :=
  if g.runsDealt = 0 then true
  else if g.scrolls then
    g.live.parkd.isEmpty && decide (g.runsDealt ≤ g.nextRun) && !g.live.stripes.any fun st => (st.res || st.stg) && decide (st.run < g.runsDealt)
  else
    (List.range g.live.stripes.length).all fun p =>
      !(g.live.stripe p).res || (g.passedEnd p (g.runsDealt - 1) && (g.saveDue p).isNone &&
        (g.live.stripe p).elems.all fun el => el.oq.all fun q => q.isEmpty)

/-- R248: nothing of the segment is outstanding at its wharves. -/
def Seg.quiet (g : Seg) : Bool := g.live.stripes.all fun st => st.wharf.idle && st.wharf.wc.isEmpty

/-- R327: the length of a run. -/
def runLen (remaining rings cmin runmax : Nat) : Nat := min remaining (min (max (ceilDiv remaining (2 * rings)) (max cmin 1)) runmax)

/-- R139, R226: a stripe that serves run `no` when that is dealt with first index `a0`: its elements take their seeds and cursors at
the end of the cycle, or at once while its clock does not run. -/
def Stripe.deal (st : Stripe) (seed no a0 : Nat) (now : Bool) : Stripe :=
  { st with
    run := no
    elems := (List.range st.elems.length).map fun e =>
      let el := st.elem e
      let sr := srSeeds seed a0 st.vs e
      if !el.on then el
      else if now || !st.res then { el with sr := sr, gen := el.gen.map fun g => g.at_ a0 }
      else { el with cyc := { el.cyc with newSr := some sr, newGen := some a0 } } }

/-- R79, R327, R428, R431: a segment to which a run is dealt. The first is dealt as the segment is configured; a scrolling one may
already hold stripes of the next. -/
def Seg.takeRun (g : Seg) (a0 c : Nat) : Seg :=
  let no := g.runsDealt
  let serves := fun (st : Stripe) => if g.scrolls then (st.res || st.stg) && st.run == no else st.res
  let deal := fun (x : Core) =>
    { x with stripes := x.stripes.map fun st => if serves st then st.deal g.image.seed no a0 (no == 0) else st }
  { g with
    runs := (g.runs.filter fun r => r.no + 1 == no) ++ [⟨no, a0, c⟩]
    runsDealt := no + 1
    ports := g.portsAt no
    replay := []
    replaying := []
    origin := 0
    attempts := if g.attemptRun < no then 0 else g.attempts
    live := deal g.live
    start := if no = 0 then deal g.start else g.start }

/-- R327: the next run of its task dealt to the segment of ring `k`. -/
def State.dealRun (s : State) (n k : Nat) : State :=
  match s.seg n k with
  | none => s
  | some g =>
    match (s.isle n).hb.task g.task with
    | none => s
    | some t =>
      let c := runLen (t.card.argn - t.next) (max 1 ((s.isle n).ringsOf t.no)) t.card.cmin g.image.runmax
      let s := s.onSeg n k fun g => g.takeRun t.next c
      let s := s.onHarbour n fun h =>
        { h with lastPrio := upd (fun _ => t.no) h.lastPrio t.prio }.onTask t.no fun t =>
          { t with next := t.next + c, dealt := t.dealt || t.next + c == t.card.argn, st := .running }
      s.postTrace n k g.tenant 5 false g.id.toNat 0xFFFF 0x1F 0x3F c t.next

/-- RUN_DEAL (R327, R328): ring `cur.k` has finished a run, and no other task of its priority waits for it. -/
def execRunDeal (s : State) : Res :=
  let n := s.cur.n
  let k := s.cur.k
  match s.seg n k with
  | none => .next s
  | some g =>
    match (s.isle n).hb.task g.task with
    | none => .next s
    | some t =>
      let waits := (match (s.isle n).nextTask k t.no with | some x => decide (t.prio ≤ x.prio) | none => false) ||
        (match (s.isle n).backPrio k with | some p => decide (t.prio ≤ p) | none => false)
      if !g.stopped && g.frz.isNone && g.halt == .none && g.runOver && !t.dealt && !waits then .next (s.dealRun n k) else .next s

/-! ## Placement (R326, R328, R376, R466) -/

/-- R17: the ring holds no segment, or one that leaves it. -/
def State.ringFree (s : State) (n k : Nat) : Bool :=
  ((s.isle n).ring k).stripes != 0 &&
  match s.seg n k with
  | none => true
  | some g =>
    match (s.isle n).hb.task g.task with
    | none => true
    | some t =>
      let waits := (match (s.isle n).nextTask k t.no with | some x => decide (t.prio ≤ x.prio) | none => false) ||
        (match (s.isle n).backPrio k with | some p => decide (t.prio ≤ p) | none => false)
      !g.stopped && g.frz.isNone && g.halt == .none && g.runOver && g.quiet && (t.dealt || waits)

/-- R466: entry `x` of a segment on ring `k` of isle `n` and entry `y` of a peer name each other. -/
def pairs (n k : Nat) (g : Seg) (x : Nat) (h : Seg) : Bool :=
  let a := nth default g.image.chans x
  match h.image.chans[a.peer]? with
  | some b => b.dir != a.dir && b.ty == a.ty && b.isle == n && b.ring == k && b.peer == x
  | none => false

/-- R466: an entry of a segment that is placed names ring `k` of isle `n`, and entry `y` of its new segment does not answer. -/
def crossedBad (n k : Nat) (g : Seg) (c f : Nat) (h : Seg) : Bool :=
  (List.range h.image.chans.length).any fun y =>
    let b := nth default h.image.chans y
    b.isle == n && b.ring == k && !h.joined.contains y && b.peer < g.image.chans.length && !pairs c f h y g

/-- R466: the pairing of a new segment fails. -/
def State.pairingBad (s : State) (n k : Nat) (g : Seg) : Bool :=
  ((List.range g.image.chans.length).any fun x =>
    let a := nth default g.image.chans x
    match s.seg a.isle a.ring with
    | some h => decide (a.peer < h.image.chans.length) && !pairs n k g x h
    | none => false) ||
  (!g.image.chans.isEmpty && (List.range 40).any fun c => (List.range 6).any fun f =>
    match s.seg c f with | some h => (c != n || f != k) && crossedBad n k g c f h | none => false)

/-- R326, R466: the entries of the segment on ring `k` joined with peers that are configured. -/
def State.joinAll (s : State) (n k : Nat) : State :=
  match s.seg n k with
  | none => s
  | some g =>
    (List.range g.image.chans.length).foldl (fun s x =>
      let a := nth default g.image.chans x
      match s.seg a.isle a.ring with
      | some h =>
        if pairs n k g x h then
          (s.onSeg n k fun g => { g with joined := g.joined ++ [x] }).onSeg a.isle a.ring fun h => { h with joined := h.joined ++ [a.peer] }
        else s
      | none => s) s

/-- R376: the mailboxes that a segment names. -/
def Image.mailboxes (im : Image) : List Nat := (im.streams.filter fun x => x.kind == 1).map (·.idx)

/-- R377, R378: a segment whose binding has been released: its ports end, and its task is dealt no further run. -/
def State.releaseBinding (s : State) (n seg : Nat) : State :=
  let go := fun (g : Seg) => if g.id.toNat = seg then { g with released := true } else g
  let s := s.onIsle n fun i => { i with rings := i.rings.map fun r =>
    { r with seg := r.seg.map go, saved := r.saved.map fun x => (go x.1, x.2), scanned := r.scanned.map fun x => (go x.1, x.2) } }
  s.onHarbour n fun h => { h with tasks := h.tasks.map fun t => if t.segs.contains seg then { t with dealt := true } else t }

/-- R376: a segment registers as a binding of mailbox `b` with a serial. -/
def State.bindMbx (s : State) (n b seg serial : Nat) : State :=
  let m := (s.isle n).mailbox b
  match m.cur with
  | none => s.onMbx n b fun m => { m with cur := some (seg, serial), ser := BitVec.ofNat 32 serial, handed := 0, acted := 0 }
  | some _ =>
    let s := match m.next with | some x => s.releaseBinding n x.1 | none => s
    s.onMbx n b fun m => { m with next := some (seg, serial) }

/-- R85: the slots of a segment's state area. -/
def Image.areaSlots (im : Image) : Nat :=
  ceilDiv (2 * ((List.range im.nstripe).filter fun v => nth false im.stateful v).foldl (fun acc v => acc + (nth default im.stripes v).stateB) 0)
    (2 ^ 25)

/-- R85: a run of consecutive free context slots. -/
def Harbour.freeSlots (h : Harbour) (cnt : Nat) : Option (List Nat) :=
  ((List.range h.ctxSlots).find? fun b => decide (b + cnt ≤ h.ctxSlots) && (List.range cnt).all fun i => !h.ctxUsed.contains (b + i)).map
    fun b => (List.range cnt).map (b + ·)

/-- R85: the state area of a task's segment on ring `k`, allotted at its first placement. -/
def Harbour.area (h : Harbour) (t : Task) (k : Nat) : Option (List Nat) :=
  match lookupN k t.areas with
  | some a => some a
  | none => if t.image.areaSlots = 0 then some [] else h.freeSlots t.image.areaSlots

/-- R326: a new segment of a task for ring `k`; it starts with the current views acknowledged (R306). -/
def State.newSeg (s : State) (n k : Nat) (t : Task) (xs : List Extent) : Seg :=
  let cnt := ((s.isle n).hb.placements + 1) % 2 ^ 23
  let g : Seg := { (default : Seg) with
    id := BitVec.ofNat 32 (k + n * 8 + cnt * 512), task := t.no, tenant := t.card.tenant, image := t.image, regions := t.regions, extents := xs
    placedPt := s.pt, halt := .none, ackP := (s.memb n false).num, ackS := (s.memb n true).num }
  ({ g with ports := g.portsAt 0 } : Seg).window ((s.isle n).ring k).stripes 0

/-- R80, R436, R447: the segment set on its ring, with its spares, bindings, crossings and LOAD records. -/
def State.install (s : State) (n k : Nat) (t : Task) (g : Seg) (area : List Nat) : State :=
  let s := (s.endSeg n k).onRing n k fun r => { r with seg := some g }.aimSpares g
  let s := s.onHarbour n fun h =>
    { h with placements := (h.placements + 1) % 2 ^ 23, ctxUsed := area.foldl (fun u a => insSet a u) h.ctxUsed }.onTask t.no fun t =>
      { t with runsOut := t.runsOut + 1, segs := t.segs ++ [g.id.toNat]
               areas := if area.isEmpty then t.areas else insertN k area t.areas }
  let s := g.image.mailboxes.foldl (fun s b => s.bindMbx n b g.id.toNat (if bitN t.card.flags 1 then t.card.inh else 0)) s
  let s := s.joinAll n k
  (List.range g.live.stripes.length).foldl (fun s p =>
    if (g.live.stripe p).res then s.traceStripe n k g 3 p (g.live.stripe p).vs false else s) (s.noteStart n k)

/-- R325: a task that ends at the configuration of a segment, with its CONFIG fault. -/
def State.configFail (s : State) (n : Nat) (t : Task) (cause : Nat) : State :=
  (s.postConfig n 0 (.whole cause)).failTask n t.no 1

/-- RING_PLACE (R328): ring `cur.k` takes the task whose turn it is. -/
def execRingPlace (s : State) : Res :=
  let n := s.cur.n
  let k := s.cur.k
  let skip := match s.seg n k with | some g => g.task | none => 0
  match (s.isle n).nextTask k skip with
  | none => .next s
  | some t =>
    let back := match (s.isle n).backPrio k with | some p => decide (t.prio ≤ p) | none => false
    let w := min t.image.nstripe (((s.isle n).ring k).stripes - 1)
    if !s.ringFree n k || back || !(List.range w).all fun v => ((s.isle n).ring k).cache.contains (t.no, v) then .next s
    else
      match s.extentsOf t.card.tenant n t.regions with
      | .error (.absent va) =>
        .next ((s.pageRequest n ⟨t.card.tenant, 1, false, 0, va⟩).onHarbour n fun h => h.onTask t.no fun t => { t with st := .heldPages, miss := va })
      | .error .remote => .next (s.configFail n t 0xD)
      | .ok xs =>
        let g := s.newSeg n k t xs
        if t.image.mailboxes.any fun b => !((s.isle n).mailbox b).en || ((s.isle n).mailbox b).tenant != t.card.tenant then .next (s.configFail n t 2)
        else if s.pairingBad n k g then .next (s.configFail n t 0xA)
        else
          match (s.isle n).hb.area t k with
          | none => .next s
          | some a => .next ((s.install n k t g a).dealRun n k)

/-! ## Completion (R248, R325, R332, R333) -/

/-- R332: tasks that hold a handle. -/
def Harbour.holders (h : Harbour) (hd : Nat) : List Task :=
  h.tasks.filter fun t => (bitN t.card.flags 0 && t.card.result == hd) || (bitN t.card.flags 1 && t.card.inh == hd)

/-- R332: a handle's id and whether it names an allotted buffer of a tenant in its current generation. -/
def Harbour.handleOk (h : Harbour) (hd tenant : Nat) : Bool :=
  match lookupN (hd % 2 ^ 16) h.handles with
  | some x => x.owner == some tenant && x.gen == hd / 2 ^ 16 % 2 ^ 16
  | none => false

/-- R332, R344: a buffer freed: its generation rises. -/
def Harbour.freeHandle (h : Harbour) (hd : Nat) : Harbour :=
  match lookupN (hd % 2 ^ 16) h.handles with
  | some x => { h with handles := insertN (hd % 2 ^ 16) { x with owner := none, gen := (x.gen + 1) % 2 ^ 16, count := 0, freein := false } h.handles }
  | none => h

/-- R333: the IN buffer of a completed task, freed when asked for and no other holder remains. -/
def Harbour.dropIn (h : Harbour) (t : Task) : Harbour :=
  let ask := fun (h : Harbour) (hd : Nat) => { h with handles := h.handles.map fun x => if x.1 = hd % 2 ^ 16 then (x.1, { x.2 with freein := true }) else x }
  let sweep := fun (h : Harbour) (hd : Nat) =>
    if (match lookupN (hd % 2 ^ 16) h.handles with | some x => x.freein | none => false) && h.handleOk hd t.card.tenant && (h.holders hd).isEmpty then
      h.freeHandle hd
    else h
  let h := if bitN t.card.flags 1 && bitN t.card.flags 2 then ask h t.card.inh else h
  let h := if bitN t.card.flags 1 then sweep h t.card.inh else h
  if bitN t.card.flags 0 then sweep h t.card.result else h

/-- R325: a task that is done leaves the harbour and signals. -/
def State.finishTask (s : State) (n : Nat) (t : Task) : State :=
  let status := t.status.getD 0
  let s := s.onIsle n fun i => { i with ops := i.ops.filter fun o => !t.segs.contains o.2.seg }
  let s := s.onHarbour n fun h =>
    let gone := t.areas.flatMap (·.2)
    { h with tasks := h.tasks.filter fun x => x.no != t.no, ctxUsed := h.ctxUsed.filter fun c => !gone.contains c }.dropIn t
  let s := s.onQueue n t.queue fun q => { q with infl := q.infl - 1 }
  let s := if status = 0 then s.semSignal n t.card.tenant t.card.donesem t.card.doneadd
    else
      let s := s.onQueue n t.queue fun q => { q with taskCard := t.va % 2 ^ 48, taskStatus := status }
      if t.card.failsem = 0xFFFF then s.onQueue n t.queue fun q => { q with halt := true, wait := false, cause := 9, detail := status, out := none }
      else s.semSignal n t.card.tenant t.card.failsem 1
  s.releaseHeld n

/-- R248: the runs of a task have ended and nothing of its segments is outstanding. -/
def State.taskOver (s : State) (n : Nat) (t : Task) : Bool :=
  (t.dealt || t.card.argn == 0) && !(s.isle n).awayOf t.no &&
  (s.isle n).rings.all (fun r => match r.seg with
    | some g => g.task != t.no || (!g.stopped && g.frz.isNone && g.runOver && g.quiet)
    | none => true) &&
  !((s.isle n).ferry.copies.any fun c => match c.2.seg with | some id => t.segs.contains id | none => false) &&
  !(s.isle n).ops.any fun o => t.segs.contains o.2.seg && o.2.status.isNone

/-- The segments of a task taken off their rings. -/
def State.freeRings (s : State) (n no : Nat) : State :=
  (List.range 6).foldl (fun s k => match s.seg n k with
    | some g => if g.task = no then s.endSeg n k else s
    | none => s) s

/-- TASK_COMPLETE (R248, R325, R355): task `cur.e`: its runs have ended and its end actions begin, or they are done and it
completes. -/
def execTaskComplete (s : State) : Res :=
  let n := s.cur.n
  match (s.isle n).hb.task s.cur.e with
  | none => .next s
  | some t =>
    if t.st = .done then .next (s.finishTask n t)
    else if (t.st = .ready ∨ t.st = .running) ∧ s.taskOver n t then
      let s := s.freeRings n t.no
      if t.next = 0 ∧ t.card.argn ≠ 0 then .next (s.onHarbour n fun h => h.onTask t.no fun t => { t with st := .done })
      else .next (s.beginEnd n t)
    else .next s

/-! ## Pre-emption (R329 to R331) -/

/-- R329: a segment that a task of priority `p` may take the ring of. -/
def State.preemptible (s : State) (n k p : Nat) : Bool :=
  match s.seg n k with
  | some g => decide ((s.isle n).hb.prioOf g.task < p) && decide (g.placedPt + 2000 ≤ s.pt) && !g.stopped && g.frz.isNone && g.halt == .none
  | none => false

/-- R329: ring `k` comes before ring `j`: lower priority, longer resident, lower ring. -/
def State.preemptBefore (s : State) (n k j : Nat) : Bool :=
  let a := s.segD n k
  let b := s.segD n j
  let pa := (s.isle n).hb.prioOf a.task
  let pb := (s.isle n).hb.prioOf b.task
  if pa != pb then decide (pa < pb)
  else if a.placedPt != b.placedPt then decide (a.placedPt < b.placedPt)
  else decide (k ≤ j)

/-- R329: a pre-emption for task `no` is under way. -/
def Isle.oustingFor (i : Isle) (no : Nat) : Bool :=
  i.rings.any fun r => match r.seg with | some g => (g.halt == .preempting || g.halt == .saving) && g.ousts == some no | none => false

/-- R329: a waiting task for which ring `k` is pre-empted. -/
def State.preemptFor (s : State) (n k : Nat) : Option Task :=
  (s.isle n).hb.tasks.find? fun t => !(s.isle n).oustingFor t.no &&
    let ks := (List.range 6).filter fun j => (s.isle n).eligible t j
    ks.contains k && !(ks.any fun j => s.ringFree n j) && s.preemptible n k t.prio &&
    ks.all fun j => !s.preemptible n j t.prio || s.preemptBefore n k j

/-- R330: no request that has issued is outstanding, replies apart. -/
def Seg.saveReady (g : Seg) : Bool := g.live.stripes.all fun st =>
  st.wharf.atoms.isEmpty && st.wharf.fly.isEmpty && st.wharf.parked.isEmpty &&
  st.wharf.pend.all fun x => x.got.isSome || st.wharf.chains.any (fun c => c.any fun q => q.no == x.no) ||
    st.wharf.rq.any fun e => match e with | some r => r.req.no == x.no | none => false

/-- R85, R86, R330: the bytes of the part of a context that goes to the context slot at once: scroll position, parked tokens and the
records that stand in the cache. Their layout is not given (log 31). -/
def Seg.ctxLen (g : Seg) : Nat :=
  64 + 128 * g.live.parkd.length + 26624 * (g.srecs.filter fun x => !x.spilled).foldl (fun acc x => acc + (x.elems.filter (·.on)).length) 0

/-- R330, R409: the bytes of a context written out whole, 32 KiB for each element besides. -/
def Seg.outLen (g : Seg) : Nat :=
  g.ctxLen + 32768 * g.live.stripes.foldl (fun acc st => acc + (if st.res || st.stg then (st.elems.filter (·.on)).length else 0)) 0

/-- R330: the contexts in the shadow banks of ring `k` written to their own slots. -/
def State.oustShadows (s : State) (n k : Nat) : State :=
  let r := (s.isle n).ring k
  let s := r.saved.foldl (fun s x => if x.1.inSlot then s else s.writeOpen (s.slotPa n x.2) x.1.outLen) s
  s.onRing n k fun r => { r with saved := r.saved.map fun x => ({ x.1 with inSlot := true }, x.2) }

/-- PREEMPT (R329, R330): ring `cur.k`: its ports are told to stop, or its context is saved once it has settled: into the shadow
banks, and its scroll position, parked tokens and state records into its slot. -/
def execPreempt (s : State) : Res :=
  let n := s.cur.n
  let k := s.cur.k
  match s.seg n k with
  | none => .next s
  | some g =>
    if g.halt = .saving then
      match (s.isle n).hb.freeSlots 1 with
      | some (slot :: _) =>
        if g.saveReady then
          let s := (s.oustShadows n k).writeOpen (s.slotPa n slot) g.ctxLen
          .next ((s.onRing n k fun r => { r with seg := none, saved := (g.lowered, slot) :: r.saved }).onHarbour n fun h =>
            { h with ctxUsed := insSet slot h.ctxUsed })
        else .next s
      | _ => .next s
    else
      match s.preemptFor n k with
      | some t =>
        if ((s.isle n).hb.freeSlots 1).isSome then .next (s.onSeg n k fun g => { g with halt := .preempting, ousts := some t.no }) else .next s
      | none => .next s

/-- A segment that returns to its ring: its translations walked anew, its input ports with nothing kept for replay (R428), its stall
counter at 0 (R88). A ring that has lost a stripe meanwhile shows it (R439). -/
def State.putBack (s : State) (n k : Nat) (g : Seg) (xs : List Extent) : State :=
  let s := s.resumeTimers n g
  (s.onRing n k fun r => { r with seg := some { g with
    halt := .none, extents := xs, placedPt := s.pt, replay := [], replaying := [], start := g.live, stall := 0, inSlot := false
    ousts := none, gapRun := if g.runsDealt = 0 then none else some g.oldest } }).windowLost n k |>.noteStart n k

/-- R331, R410: a context of ring `k` cannot be read: a line of what its slot or its state area holds of it is poisoned. -/
def State.ctxBad (s : State) (n k : Nat) (g : Seg) (slot : Nat) : Bool :=
  s.poisIn (s.slotPa n slot) (if g.inSlot then g.outLen else g.ctxLen) || s.recordsBad n k g

/-- PREEMPT_RESTORE (R331, R410): the pre-empted segment of the highest priority returns to ring `cur.k`. -/
def execPreemptRestore (bad : Bool) (s : State) : Res :=
  let n := s.cur.n
  let k := s.cur.k
  let r := (s.isle n).ring k
  let prio := fun (x : Seg × Nat) => (s.isle n).hb.prioOf x.1.task
  match r.saved with
  | [] => .next s
  | x0 :: rest =>
    let x := rest.foldl (fun best x => if prio best < prio x then x else best) x0
    let first := (match (s.isle n).backPrio k with | some p => decide (p ≤ prio x) | none => true) &&
      match (s.isle n).nextTask k 0 with | some t => decide (t.prio ≤ prio x) | none => true
    if !s.ringFree n k || !first then .next s
    else
      let s := ((s.endSeg n k).onRing n k fun r => { r with saved := r.saved.filter fun y => y.2 != x.2 }).onHarbour n fun h =>
        { h with ctxUsed := delSet x.2 h.ctxUsed }
      if bad || s.ctxBad n k x.1 x.2 then
        .next (((s.unplace n k x.1).failTask n x.1.task 3).onHarbour n fun h => h.onTask x.1.task fun t => { t with lost := true })
      else
        match s.extentsOf x.1.tenant n x.1.regions with
        | .ok xs => .next (s.putBack n k x.1 xs)
        | .error _ =>
          .next ((s.onRing n k fun r => { r with saved := x :: r.saved }).onHarbour n fun h => { h with ctxUsed := insSet x.2 h.ctxUsed })

end Sys2Proof.Machine
end

