-- ==== Sys2Proof/Machine/Paging.lean ====
section
/-! DEFINITION. Re-latches, scan-outs, promotions, host page counters and communicator registers (R213 to R217, R220, R221,
R300, R312, R370). -/

namespace Sys2Proof.Machine

/-! ## Scan-out (R215) -/

/-- R215: the segment of ring `k` scanned out for a page at `va`. -/
def State.scanOut (s : State) (n k va : Nat) : State :=
  match s.seg n k with
  | none => s
  | some g =>
    let g := { g.lowered with relatchAt := none, sopend := false, stopPt := s.pt, halt := .none }
    let s := s.onRing n k fun r => { r with seg := none, scanned := r.scanned ++ [(g, va)] }
    let s := s.onHarbour n fun h => { h with relatch := { h.relatch with scanout := true } }
    s.pageRequest n ⟨g.tenant, 0, false, g.id.toNat, va⟩

/-- The extents of a segment walked anew, or the page that is not there. A page that is no longer local counts as one that is
not present. -/
def State.rewalk (s : State) (n : Nat) (g : Seg) (va0 : Nat) : Except Nat (List Extent) :=
  match s.extentsOf g.tenant n g.regions with
  | .ok xs => .ok xs
  | .error (.absent va) => .error va
  | .error .remote => .error va0

/-- R402: a stopped segment whose scan-out waits, scanned out at its resume; another resumes. -/
def State.resumeOrScan (s : State) (n k : Nat) : State :=
  match s.seg n k with
  | none => s
  | some g =>
    let s' := (s.resumeSeg n k).windowLost n k
    if g.sopend then
      match s.rewalk n g 0 with
      | .error va => s'.scanOut n k va
      | .ok xs => s'.onSeg n k fun g => { g with sopend := false, extents := xs }
    else s'

/-! ## Re-latch (R213, R214) -/

/-- R213: a segment's regions overlap a range of its tenant. -/
def Seg.touches (g : Seg) (base len t : Nat) : Bool := g.tenant == t && g.regions.any fun r => r.declared && r.overlaps base len

/-- R213: the token enters every chain of a segment behind the requests already in it. -/
def Seg.token (base len t : Nat) (g : Seg) : Seg := if g.touches base len t then { g with relatchAt := some g.no } else g

/-- RELATCH_GO (R213, R214): a write to RLCTL. -/
def execRelatchGo (v : BitVec 32) (s : State) : Res :=
  let n := s.cur.n
  let t := fld v.toNat 0 6
  let r := (s.isle n).hb.relatch
  let s := s.onHarbour n fun h => { h with relatch := { h.relatch with tenant := t } }
  if bitN v.toNat 6 && r.act.isNone && r.pages != 0 then
    let base := sext48 r.va
    let s := s.onHarbour n fun h => { h with relatch := { h.relatch with act := some (base, r.pages, t) } }
    .next (s.onIsle n fun i => { i with rings := i.rings.map fun x => x.onSeg (Seg.token base (r.pages * 65536) t) })
  else .next s

/-- R213, R237: a write-combine line of a segment holds bytes of a range: the stores ahead of the token are not performed. -/
def Seg.holdsLine (g : Seg) (n base len : Nat) (l : WcLine) : Bool :=
  l.bytes.any fun b => (g.vasOf n (l.pa + b.1)).any fun v => decide (base ≤ v) && decide (v < base + len)

/-- R213: the requests ahead of the token at the wharves of a segment have been performed. -/
def State.tokenThrough (s : State) (n : Nat) (g : Seg) : Bool :=
  g.stopped || match g.relatchAt with
  | none => true
  | some no =>
    let ahead := fun (q : Req) => decide (q.no < no) && s.reqRelatching n g q
    g.live.stripes.all fun st =>
      st.wharf.chains.all (fun c => !c.any ahead) && !st.wharf.parked.any ahead && !st.wharf.fly.any (fun f => ahead f.req) &&
      !st.wharf.atoms.any fun a => ahead a.req

/-- R300: an operation in flight holds pages of a range. -/
def CollOp.holds (o : CollOp) (base len : Nat) : Bool :=
  o.status.isNone && (overlap o.src o.srcLen base len || overlap o.dst o.dstLen base len)

/-- R213: the write-combine lines of a segment that hold bytes of a range drained: the stores ahead of the token are performed through
the old translation. -/
def State.drainRange (s : State) (n k base len t : Nat) : State :=
  match s.seg n k with
  | some g =>
    if g.touches base len t then
      let hit := fun (l : WcLine) => g.holdsLine n base len l
      (s.drainLines (g.live.stripes.flatMap fun st => st.wharf.wc.filter hit)).onSeg n k fun g => g.onLive fun c =>
        { c with stripes := c.stripes.map fun st => { st with wharf := { st.wharf with wc := st.wharf.wc.filter fun l => !hit l } } }
    else s
  | none => s

/-- R213, R300: the token of the re-latch in progress has left every node. -/
def State.relatchThrough (s : State) (n : Nat) : Bool :=
  match (s.isle n).hb.relatch.act with
  | none => false
  | some (base, pages, t) =>
    (s.isle n).rings.all (fun r => match r.seg with | some g => s.tokenThrough n g | none => true) &&
    !(s.isle n).ops.any fun o => o.2.tenant == t && o.2.holds base (pages * 65536)

/-- R370: an installed handler whose ranges overlap a re-latched range. -/
def Handler.hit (h : Handler) (base len : Nat) : Bool := overlap h.code h.clen base len || overlap h.data h.dlen base len

/-- R213, R215: the node of ring `k` after the token. -/
def State.relatchRing (s : State) (n base len t k : Nat) : State :=
  match s.seg n k with
  | some g =>
    if g.touches base len t then
      let s := s.drainRange n k base len t
      match s.rewalk n g base with
      | .ok xs => s.onSeg n k fun g => { g with extents := xs, relatchAt := none }
      | .error va => if g.stopped then s.onSeg n k fun g => { g with sopend := true, relatchAt := none } else s.scanOut n k va
    else s
  | none => s

/-- R215: the pre-empted and scanned-out segments of ring `k` after a re-latch. A scanned-out segment whose pages are there is
queued for its return; one that stands pre-empted counts as scanned out while a page is missing. -/
def State.relatchAway (s : State) (n base len t k : Nat) : State :=
  let r := (s.isle n).ring k
  let s := r.saved.foldl (fun s x =>
    if x.1.touches base len t then
      match s.rewalk n x.1 base with
      | .ok _ => s
      | .error va => (s.onHarbour n fun h => { h with relatch := { h.relatch with scanout := true } }).pageRequest n ⟨t, 0, false, x.1.id.toNat, va⟩
    else s) s
  r.scanned.foldl (fun s x =>
    if x.1.tenant = t ∧ base ≤ x.2 ∧ x.2 < base + len then
      let set := fun (y : Seg × Nat) (s : State) => s.onRing n k fun r =>
        { r with scanned := r.scanned.map fun z => if z.1.id = x.1.id then y else z }
      match s.rewalk n x.1 base with
      | .ok xs => set ({ x.1 with cmd := true, extents := xs }, x.2) s
      | .error va =>
        let s := if va = x.2 then s else s.pageRequest n ⟨t, 0, false, x.1.id.toNat, va⟩
        set (x.1, va) s
    else s) s

/-- R196, R215, R355: held launches that wait for a page of the range are checked again; a task that has begun goes on to its ring. -/
def State.relatchLaunches (s : State) (n base len t : Nat) : State :=
  (s.isle n).hb.tasks.foldl (fun s x =>
    if (x.st = .heldImage ∨ x.st = .heldPages) ∧ x.card.tenant = t ∧ base ≤ x.miss ∧ x.miss < base + len then
      (if x.begun then s.onHarbour n fun h => h.onTask x.no fun t => { t with st := if t.next = 0 then .ready else .running }
       else s.admitTask n x.no (x.regions.take x.card.regn))
    else s) s

/-- R278: suspended copies whose page a re-latch finds present and permitted. -/
def State.relatchCopies (s : State) (n base len t : Nat) : State :=
  s.onFerry n fun f => { f with copies := f.copies.map fun c =>
    match c.2.susp with
    | some (_, _, side, va) =>
      if c.2.tenant == t && decide (base ≤ va) && decide (va < base + len) && accessFault (s.fwalk n t va) (side == .dst) == 0 then
        (c.1, { c.2 with found := true })
      else c
    | none => c }

/-- Everything a re-latch finds. Its token removes the entries of the ferry TLB (R272) and of the harbour's cache (R336). -/
def State.relatchDone (s : State) (n base len t : Nat) : State :=
  let s := s.onHarbour n fun h => { h with relatch := { h.relatch with act := none }, tlb := tlbPurge h.tlb t base len }
  let s := s.onFerry n fun f => { f with tlb := tlbPurge f.tlb t base len }
  let s := s.onHandler n t fun h => if h.en && h.hit base len then { h with en := false } else h
  let s := [0, 1, 2, 3, 4, 5].foldl (fun s k => s.relatchAway n base len t k) s
  let s := [0, 1, 2, 3, 4, 5].foldl (fun s k => s.relatchRing n base len t k) s
  (s.relatchLaunches n base len t).relatchCopies n base len t

/-- RELATCH_COMPLETE (R213). -/
def execRelatchComplete (s : State) : Res :=
  let n := s.cur.n
  match (s.isle n).hb.relatch.act with
  | some (base, pages, t) => if s.relatchThrough n then .next (s.relatchDone n base (pages * 65536) t) else .next s
  | none => .next s

/-- SCANOUT_RESTORE (R215, R410): a scanned-out segment queued for its return takes ring `cur.k`; `cur.j` is its id. -/
def execScanoutRestore (bad : Bool) (s : State) : Res :=
  let n := s.cur.n
  let k := s.cur.k
  match ((s.isle n).ring k).scanned.find? fun x => x.1.id.toNat == s.cur.j && x.1.cmd with
  | none => .next s
  | some x =>
    let p := (s.isle n).hb.prioOf x.1.task
    let first := (match (s.isle n).backPrio k with | some q => decide (q ≤ p) | none => true) &&
      match (s.isle n).nextTask k 0 with | some t => decide (t.prio ≤ p) | none => true
    if !s.ringFree n k || !first then .next s
    else
      let s := (s.endSeg n k).onRing n k fun r => { r with scanned := r.scanned.filter fun y => y.1.id != x.1.id }
      if bad then
        .next (((s.unplace n k x.1).failTask n x.1.task 3).onHarbour n fun h => h.onTask x.1.task fun t => { t with lost := true })
      else .next (s.putBack n k { x.1 with cmd := false } x.1.extents)

/-! ## Promotion (R216, R217) -/

/-- R216: the 64 KiB leaves of a 2 MiB range; `none` when one is not a present uncompressed 64 KiB leaf of this isle's stack. -/
def State.promoLeaves (s : State) (n t base : Nat) : Option (List Leaf) :=
  (List.range 32).mapM fun i =>
    match s.walk t ((base + 65536 * i) % 2 ^ 64) with
    | some l => if l.log = 16 ∧ paStack l.pa ∧ paIsle l.pa = n ∧ !bitN l.pte 9 then some l else none
    | none => none

/-- R216: a W or ACC region of a running task overlaps the range. -/
def Harbour.writeSet (h : Harbour) (t base : Nat) : Bool :=
  h.tasks.any fun x => (x.st == .running || x.st == .ending) && x.card.tenant == t &&
    x.regions.any fun r => fld r.mode 1 2 != 0 && r.overlaps base (2 ^ 21)

/-- PROMOTE_GO (R216, R217): a write to PRCTL of controller `cur.k`. GO is ignored while STATE = 1; the tenant is written all the same. -/
def execPromoteGo (v : BitVec 32) (s : State) : Res :=
  let n := s.cur.n
  let m := s.cur.k
  let t := fld v.toNat 0 6
  let p := nth default (s.isle n).hb.promo m
  let set := fun (st : Nat) => s.onHarbour n fun h => { h with promo := upd (fun x =>
    { x with tenant := t, state := st, job := if p.state = 1 then x.job else if st = 1 then some (sext48 x.va, x.dst, t) else none }) h.promo m }
  if p.state = 1 ∨ ¬bitN v.toNat 6 then .next (set p.state)
  else
    let base := sext48 p.va
    if (s.isle n).hb.writeSet t base then .next (set 3)
    else if (s.promoLeaves n t base).isNone then .next (set 4)
    else if fld p.dst 21 2 ≠ m ∨ ¬paStack (paOf n p.dst) then .next (set 5)
    else .next (set 1)

/-- R216: one frame copied, with its poison. -/
def State.copyFrame (s : State) (src dst len : Nat) : State :=
  let bad := s.pois.filter fun u => decide (src ≤ u) && decide (u < src + len)
  let s := (List.range (len / 64)).foldl (fun s i => (s.scTouch (src + 64 * i) false).scTouch (dst + 64 * i) true) (s.setBytes dst (s.bytes src len))
  bad.foldl (fun s u => s.poison (dst + (u - src))) { s with pois := s.pois.filter fun u => !(decide (dst ≤ u) && decide (u < dst + len)) }

/-- R216: the address of the level-1 entry of a virtual address. -/
def State.slot1 (s : State) (t va : Nat) : Nat :=
  let at_ := fun (table lvl : Nat) => table + 8 * fld va (12 + 9 * lvl) 9
  let t2 := fld (s.num (at_ (nth 0 s.ptRoot t) 3) 8) 10 44 * 4096
  let t1 := fld (s.num (at_ t2 2) 8) 10 44 * 4096
  at_ t1 1

/-- R216: the 2 MiB leaf: the destination with the permissions of the first entry. -/
def promoLeaf (pte dst : Nat) : Nat := fld pte 0 10 + dst / 4096 * 2 ^ 10 + fld pte 61 2 * 2 ^ 61

/-- PROMOTE_COMPLETE (R216): the copy of controller `cur.k` ends, of the range that its GO checked; a re-latch of it follows. -/
def execPromoteComplete (s : State) : Res :=
  let n := s.cur.n
  let m := s.cur.k
  let p := nth default (s.isle n).hb.promo m
  match p.job with
  | none => .next s
  | some (base, frame, tenant) =>
  if p.state = 1 ∧ (s.isle n).hb.relatch.act.isNone then
    match s.promoLeaves n tenant base with
    | none => .next (s.onHarbour n fun h => { h with promo := upd (fun x => { x with state := 4, job := none }) h.promo m })
    | some ls =>
      let dst := paOf n frame
      let s := (List.range 32).foldl (fun s i => s.copyFrame (nth default ls i).pa (dst + 65536 * i) 65536) s
      let s := s.setBytes (s.slot1 tenant base) (leBytes 8 (promoLeaf (nth default ls 0).pte dst))
      let s := s.onHarbour n fun h =>
        { h with
          promo := upd (fun x => { x with state := 2, job := none }) h.promo m
          relatch := { h.relatch with act := some (base, 32, tenant) } }
      .next (s.onIsle n fun i => { i with rings := i.rings.map fun x => x.onSeg (Seg.token base (2 ^ 21) tenant) })
  else .next s

/-! ## Host page counters (R220, R221) -/

/-- R220: marked notices posted in table order while the ring has space. -/
def State.hpcDrain (s : State) (n : Nat) : List HpCtr → State
  | [] => s
  | c :: r =>
    if c.marked then
      match s.hpcPost n c true with
      | (s, true) => (s.onFerry n fun f => { f with hpc := f.hpc.map fun x => if x.page = c.page then { x with marked := false } else x }).hpcDrain n r
      | (s, false) => s
    else s.hpcDrain n r

/-- HPC_HEAD_WRITE (R220): a write to HPCHEAD. -/
def execHpcHeadWrite (v : BitVec 32) (s : State) : Res :=
  let n := s.cur.n
  let s := s.onFerry n fun f => { f with hpcHead := fld v.toNat 0 16 }
  .next (s.hpcDrain n (s.isle n).ferry.hpc)

/-- HPC_RELEASE (R221): a write to HPCREL. A page is named by its number in [63:21]. -/
def execHpcRelease (v : BitVec 64) (s : State) : Res :=
  .next (s.onFerry s.cur.n fun f => { f with hpc := f.hpc.map fun c =>
    if c.page = v.toNat / 2 ^ 21 then { c with count := 0, queued := false, marked := false } else c })

/-! ## Communicators (R312) -/

/-- `size` bytes of a register replaced from byte `o` on. -/
def setPart (old o size v : Nat) : Nat :=
  let m := 2 ^ (8 * size)
  old % 2 ^ (8 * o) + v % m * 2 ^ (8 * o) + old / 2 ^ (8 * (o + size)) * 2 ^ (8 * (o + size))

/-- R312: a communicator after a write at byte `r` of its registers. -/
def Comm.put (c : Comm) (r size v : Nat) : Comm :=
  if r < 4 then
    let w := setPart (c.en.toNat + c.sys.toNat * 2 + c.tenant * 4) r (min size 4) v
    { c with en := bitN w 0, sys := bitN w 1, tenant := fld w 2 6, seq := if !c.en && bitN w 0 then 0 else c.seq }
  else if 8 ≤ r ∧ r < 16 then { c with imask := setPart c.imask (r - 8) size v % 2 ^ 40 }
  else if 16 ≤ r ∧ r < 24 then { c with pmask := setPart c.pmask (r - 16) size v % 2 ^ 64 }
  else c

/-- R312: a write to the view block of isle `n`, ignored while an operation of the communicator is in flight. -/
def State.commWrite (s : State) (n off size v : Nat) : State :=
  let c := (off - 0x100) / 0x20
  if off < 0x100 ∨ 16 ≤ c ∨ (s.isle n).ops.any fun o => o.2.comm == c && o.2.status.isNone then s
  else s.onIsle n fun i => { i with comms := upd (fun x => x.put ((off - 0x100) % 0x20) size v) i.comms c }

/-- COMM_WRITE (R312): `size` bytes at offset `off` of the view block. -/
def execCommWrite (off size : Nat) (v : BitVec 64) (s : State) : Res :=
  .next (s.commWrite s.cur.n off size v.toNat)

end Sys2Proof.Machine
end

