-- ==== Sys2Proof/Machine/Dock.lean ====
section
/-! DEFINITION. The dock words (R50 to R52, R314 to R346, R361 to R363): how a queue reads, executes, waits and halts, the
seventeen words, the messages between harbours, and the registers of a queue that act when they are written. A queue is
`cur.k` of isle `cur.n`. -/

namespace Sys2Proof.Machine

/-! ## A queue's progress (R314 to R317) -/

/-- The queue of the step. -/
def State.q (s : State) : Queue := (s.isle s.cur.n).queue s.cur.k
def State.onQ (s : State) (f : Queue → Queue) : State := s.onQueue s.cur.n s.cur.k f

/-- What the word in execution has gathered, forgotten. -/
def Queue.fresh (q : Queue) : Queue := { q with wait := false, out := none, answer := none, work := 0 }

/-- R317: the queue halts; HEAD stays. -/
def State.dockHalt (s : State) (cause detail : Nat) : State :=
  s.onQ fun q => { q.fresh with halt := true, cause := cause, detail := detail }

/-- R315: HEAD advanced past a word. -/
def State.dockNext (s : State) (words : Nat) : State := s.onQ fun q => { q.fresh with head := q.head + 8 * words }

/-- R316: the word at HEAD waits. -/
def State.dockWait (s : State) : State := s.onQ fun q => { q with wait := true }

/-- R314: RUN; TYPE 0b11 acts as EN = 0. -/
def Queue.runs (q : Queue) : Bool := q.en && !q.halt && q.ty != 3

/-- R51: the words of an instruction. -/
def dockLen (op : Nat) : Nat := if op ∈ [2, 3, 4, 0xB, 0xC] then 2 else 1

/-- What a queue finds at HEAD (R315, R317): nothing to do, a halt, or a word and the 64 bits after it. -/
inductive DockRead where
  | idle
  | stop (cause : Nat)
  | word (w v : Nat)
  deriving DecidableEq, Repr

/-- R315: the word at HEAD. -/
def State.dockRead (s : State) : DockRead :=
  let q := s.q
  let n := s.cur.n
  if !(s.isle n).up || !q.runs || q.head == q.tail then .idle
  else if q.head < q.base ∨ q.limit ≤ q.head then .stop 1
  else
    let w := s.num (paOf n q.head) 8
    if s.isPois (paOf n q.head) then .stop 10
    else if dockLen (fld w 56 8) = 1 then .word w 0
    else if q.limit ≤ q.head + 8 then .stop 1
    else if q.head + 8 = q.tail then .idle
    else if s.isPois (paOf n (q.head + 8)) then .stop 10
    else .word w (s.num (paOf n (q.head + 8)) 8)

/-- R52, R316: the checks of every word, then its wait for SYNC; `bad` is a breach of its operand's form or of the queue type. -/
def State.dockWord (s : State) (w : DockW) (bad : Bool) (f : State → State) : State :=
  if w.rsv != 0 || w.queue.toNat != s.cur.k || bad then s.dockHalt 1 0
  else if w.sync && s.q.infl != 0 then s.dockWait
  else f s

/-! ## Reading and writing for a queue -/

/-- R335: an operand that is a virtual address. -/
def dockVa (w : DockW) : Nat := sext48 w.arg.toNat

/-- A range of a tenant's space is present and readable. -/
def State.vaReadable (s : State) (tenant va len : Nat) : Bool :=
  (List.range len).all fun i => match s.walk tenant ((va + i) % 2 ^ 64) with | some l => l.r | none => false

/-- A range of a tenant's space is present and writable. -/
def State.vaWritable (s : State) (tenant va len : Nat) : Bool :=
  (List.range len).all fun i => match s.walk tenant ((va + i) % 2 ^ 64) with | some l => l.w | none => false

/-- A byte of a range reads as poisoned (R317). -/
def State.vaPois (s : State) (tenant va len : Nat) : Bool := (List.range len).any fun i => (s.vaRead tenant ((va + i) % 2 ^ 64)).2.isSome

/-- Bytes that the harbour writes at a virtual address. -/
def State.vaWrite (s : State) (tenant va : Nat) (bs : List Byte) : State :=
  let cells := (bs.zip (List.range bs.length)).filterMap fun x => (s.walk tenant ((va + x.2) % 2 ^ 64)).map fun l => (l.pa, x.1)
  cells.foldl (fun s c => s.chargeMem tenant c.1 1) (s.perform cells)

/-- A number at a virtual address. -/
def State.vaNum (s : State) (tenant va n : Nat) : Nat := ofLe ((List.range n).map fun i => s.vaByte tenant (va + i))

/-! ## LAUNCH (R322 to R325, R336) -/

/-- R322: a job card; `zeros` gathers the fields marked 0. -/
def State.readCard (s : State) (tenant va : Nat) : Card :=
  let f := fun o n => s.vaNum tenant (va + o) n
  { entry := f 0 8, args := f 8 8, argsz := f 0x10 2, argn := f 0x12 4, cmin := f 0x16 2, regs := f 0x18 8, regn := f 0x20 1,
    prio := f 0x21 1 % 4, tenant := f 0x22 1 % 64, flags := f 0x24 2, rings := f 0x26 2, donesem := f 0x28 2, failsem := f 0x2A 2,
    doneadd := f 0x2C 4, result := f 0x30 4, inh := f 0x34 4,
    zeros := f 0x21 1 / 4 + f 0x22 1 / 64 + f 0x23 1 + f 0x24 2 / 8 + f 0x26 2 / 2 ^ 9 + f 0x38 8 }

/-- R324, check 1, of what the card names. -/
def State.cardPages (s : State) (n : Nat) (c : Card) : Bool :=
  (c.argn * c.argsz = 0 || (s.heldEnd c.tenant n c.args (c.argn * c.argsz)).isNone) &&
  (c.regn = 0 || (s.heldEnd c.tenant n c.regs (16 * c.regn)).isNone)

/-- R324, check 3. -/
def Card.formed (c : Card) : Bool := c.zeros == 0 && decide (c.argsz ≤ 256) && c.argsz % 8 == 0 && decide (c.regn ≤ 64)

/-- R324, checks 5 and 6. -/
def Isle.cardHandles (i : Isle) (c : Card) : Bool :=
  (!bitN c.flags 0 || i.hb.handleOk c.result c.tenant) && (!bitN c.flags 1 || i.hb.handleOk c.inh c.tenant)
def Isle.cardRings (i : Isle) (c : Card) : Bool := c.mask.any fun k => (i.ring k).stripes != 0

/-- R320: a name that a card or word may hold. -/
def semName (name : Nat) : Bool := name / 2 ^ 14 == 0 && decide (semIsle name < 40)

/-- R321: a message of the word in execution, to another isle's harbour; the queue waits for its answer. -/
def State.askHarbour (s : State) (kind name : Nat) (v : W64) (tenant : Nat) : State :=
  let n := s.cur.n
  let id := (s.isle n).hb.msgNo
  let s := s.onHarbour n fun h => { h with msgNo := h.msgNo + 1 }
  let s := s.harbourMsg n (semIsle name) (.sem kind s.cur.k id (semIdx name) v tenant)
  s.onQ fun q => { q with wait := true, out := some (id, s.pt, semIsle name, false), answer := none }

/-- What check 4 of R324 comes to. -/
inductive SemCheck where
  | pass
  | fail
  | lost
  | wait
  | ask (name : Nat)
  deriving DecidableEq, Repr

/-- R320, R324: check 4 over the names that are left; the answers that have come passed those before them. -/
def State.checkSems (s : State) (tenant : Nat) : List Nat → SemCheck
  | [] => .pass
  | name :: r =>
    if name = 0xFFFF then s.checkSems tenant r
    else if !semName name then .fail
    else if semIsle name = s.cur.n then
      if (s.isle s.cur.n).hb.semAllowed (semIdx name) tenant then s.checkSems tenant r else .fail
    else if !s.inView s.cur.n (semIsle name) then .lost
    else
      match s.q.out, s.q.answer with
      | none, _ => .ask name
      | some _, none => .wait
      | some _, some (_, false) => .fail
      | some _, some (_, true) => .ask name

/-- R320: the names of a card whose check is not yet passed: `work` counts the answers that passed one. -/
def State.semsLeft (s : State) (c : Card) : List Nat :=
  let names := [c.donesem, c.failsem]
  let far := names.filter fun x => x != 0xFFFF && semIsle x != s.cur.n
  match s.q.work, far with
  | 0, _ => names
  | 1, a :: _ => if names.head? = some a then names.drop 1 else []
  | _, _ => []

/-- An answer that has come counted, and the queue ready to ask again. -/
def State.takeAnswer (s : State) : State :=
  match s.q.out, s.q.answer with
  | some _, some (_, true) => s.onQ fun q => { q with work := q.work + 1, out := none, answer := none }
  | _, _ => s

/-- R325, R336: the task of an accepted LAUNCH. -/
def State.newTask (s : State) (va : Nat) (c : Card) : Task :=
  let q := s.q
  { (default : Task) with
    no := (s.isle s.cur.n).hb.taskNo + 1, queue := s.cur.k, va := va, card := c, prio := min c.prio q.cap.toNat, coll := q.ty == 2
    st := .heldImage, dealt := c.argn == 0, miss := 2 ^ 64 }

/-- R336: a LAUNCH accepted: the task created, INFL raised, HEAD past the word, then the image checked. -/
def State.accept (s : State) (va : Nat) (c : Card) : State :=
  let n := s.cur.n
  let t := s.newTask va c
  let regs := (List.range c.regn).map fun i => parseRegion (fun o => s.heldByte n c.tenant (c.regs + o)) (16 * i)
  let s := s.onHarbour n fun h => { h with taskNo := t.no, tasks := h.tasks ++ [t] }
  ((s.onQ fun q => { q with infl := q.infl + 1 }).dockNext 1).admitTask n t.no regs

/-- R324: the checks of a card after the first, in order. -/
def State.checkCard (s : State) (va : Nat) (c : Card) : State :=
  let i := s.isle s.cur.n
  if c.tenant ≠ s.q.tenant.toNat then s.dockHalt 4 2
  else if !c.formed then s.dockHalt 4 3
  else
    let s := s.takeAnswer
    match s.checkSems c.tenant (s.semsLeft c) with
    | .fail => s.dockHalt 4 4
    | .lost => s.dockHalt 6 0
    | .wait => s.dockWait
    | .ask name => s.askHarbour 3 name 0 c.tenant
    | .pass =>
      if !i.cardHandles c then s.dockHalt 4 5
      else if !i.cardRings c then s.dockHalt 4 6
      else if s.vaPois c.tenant c.regs (16 * c.regn) then s.dockHalt 10 3
      else s.accept va c

/-- R316: LAUNCH and COPYQ wait while the isle holds 64 tasks or INFL is 255. -/
def State.launchFull (s : State) : Bool := decide (64 ≤ (s.isle s.cur.n).hb.tasks.length) || s.q.infl == 255

/-- LAUNCH (R324, R336). -/
def execLaunch (w : DockW) (s : State) : Res :=
  .next (s.dockWord w (s.q.ty == 1 || fld w.arg.toNat 0 6 != 0) fun s =>
    let n := s.cur.n
    let tenant := s.q.tenant.toNat
    if s.launchFull then s.dockWait
    else if (s.pagesEnd tenant n (dockVa w) 64).isSome then s.dockHalt 4 1
    else if s.vaPois tenant (dockVa w) 64 then s.dockHalt 10 1
    else
      let c := s.readCard tenant (dockVa w)
      if !s.cardPages n c then s.dockHalt 4 1 else s.checkCard (dockVa w) c)

/-! ## Semaphore words (R320, R321, R337) -/

/-- R51: an operand that is a semaphore name. -/
def badSem (w : DockW) : Bool := !semName w.arg.toNat

/-- R321: a semaphore word that names another isle: sent once, and complete with the answer. -/
def State.remoteSem (s : State) (kind name : Nat) (v : W64) : State :=
  if !s.inView s.cur.n (semIsle name) then s.dockHalt 6 0
  else
    match s.q.out, s.q.answer with
    | none, _ => s.askHarbour kind name v s.q.tenant.toNat
    | some _, some (_, true) => s.dockNext 2
    | some _, some (_, false) => s.dockHalt 5 0
    | some _, none => s.dockWait

/-- A semaphore word: permission first, then its effect here. -/
def State.semWord (s : State) (kind name : Nat) (v : W64) (f : State → State) : State :=
  if semIsle name = s.cur.n then
    if (s.isle s.cur.n).hb.semAllowed (semIdx name) s.q.tenant.toNat then f s else s.dockHalt 5 0
  else s.remoteSem kind name v

/-- WAITGE (R337). -/
def execWaitge (w : DockW) (v : W64) (s : State) : Res :=
  .next (s.dockWord w (badSem w) fun s =>
    s.semWord 0 w.arg.toNat v fun s =>
      if v.ule (nth 0 (s.isle s.cur.n).hb.sem (semIdx w.arg.toNat)) then s.dockNext 2 else s.dockWait)

/-- SIGNAL (R337): the value rises by `v` modulo 2^64. -/
def execSignal (w : DockW) (v : W64) (s : State) : Res :=
  .next (s.dockWord w (badSem w) fun s =>
    s.semWord 1 w.arg.toNat v fun s => (s.semChange s.cur.n (semIdx w.arg.toNat) (· + v)).dockNext 2)

/-- SEMSET (R337). -/
def execSemset (w : DockW) (v : W64) (s : State) : Res :=
  .next (s.dockWord w (badSem w) fun s =>
    s.semWord 2 w.arg.toNat v fun s => (s.semChange s.cur.n (semIdx w.arg.toNat) fun _ => v).dockNext 2)

/-- Messages between harbours keep their order (R321). -/
def Payload.isSem (b : Payload) : Bool := match b with | .sem .. => true | .semAns .. => true | _ => false
def State.firstMsg (s : State) (j : Nat) (f : Flit) : Bool :=
  !(s.net.take j).any fun g => g.src == f.src && g.dst == f.dst && Payload.isSem g.body

/-- R320, R321: a message checked and taken at the semaphore's harbour, and its answer. -/
def State.takeSem (s : State) (n : Nat) (src : Nat) (kind q id idx : Nat) (v : W64) (tenant : Nat) : State :=
  let ok := (s.isle n).hb.semAllowed idx tenant
  let answer := fun (s : State) (ok final : Bool) => s.harbourMsg n src (.semAns q id ok final)
  if kind = 4 then s.semArrive n idx tenant v
  else if !ok then answer s false true
  else if kind = 0 then
    let s := answer s true false
    if v.ule (nth 0 (s.isle n).hb.sem idx) then answer s true true
    else s.onHarbour n fun h => { h with watches := h.watches ++ [⟨idx, v, src, q, id⟩] }
  else if kind = 1 then answer (s.semChange n idx (· + v)) true true
  else if kind = 2 then answer (s.semChange n idx fun _ => v) true true
  else answer s true true

/-- SEMAPHORE_MESSAGE_RECEIVE (R320, R321): flit `cur.j` at isle `cur.n`. -/
def execSemaphoreMessageReceive (s : State) : Res :=
  match s.flitFor s.cur.n s.cur.j with
  | some f =>
    match f.body with
    | .sem kind q id idx v tenant =>
      if s.firstMsg s.cur.j f then .next ((s.dropFlit s.cur.j).takeSem s.cur.n f.src.2 kind q id idx v tenant) else .next s
    | _ => .next s
  | none => .next s

/-- SEMAPHORE_MESSAGE_TIMEOUT (R321): queue `cur.k` halts with SEMLOST: no answer for 100,000 pt, or the target left the view. -/
def execSemaphoreMessageTimeout (s : State) : Res :=
  match s.q.out with
  | some (_, sent, isle, acked) =>
    if (!acked && s.q.answer.isNone && decide (sent + 100000 ≤ s.pt)) || !s.inView s.cur.n isle then .next (s.dockHalt 6 0) else .next s
  | none => .next s

/-- SEMAPHORE_WRITE (R320): a write of all 8 bytes of semaphore `cur.j` acts as SEMSET. -/
def execSemaphoreWrite (v : W64) (s : State) : Res := .next (s.semChange s.cur.n s.cur.j fun _ => v)

/-! ## COPYQ (R338) -/

/-- R338: the 64 B descriptor as a copy of a queue, and whether it is well formed. -/
def State.readCopyq (s : State) (tenant va : Nat) (desc k : Nat) : Copy × Bool :=
  let f := fun o n => s.vaNum tenant (va + o) n
  let l := Lanes.ofFn fun i => if i < 12 then BitVec.ofNat 32 (f (4 * i) 4) else 0
  let c := { Copy.ofLanes (f 0x30 1) l with
    tenant := tenant, queue := some (k, desc, f 0x32 2, f 0x34 2, f 0x38 4) }
  (c, c.formed l && f 0x31 1 == 0 && f 0x36 2 == 0 && f 0x3C 4 == 0)

/-- COPYQ (R338): the descriptor to the ferry, which starts the copy once it has a slot free (R276); the word has passed HEAD by then
(R316). -/
def execCopyq (w : DockW) (s : State) : Res :=
  .next (s.dockWord w (s.q.ty != 1 || fld w.arg.toNat 0 6 != 0) fun s =>
    let n := s.cur.n
    let tenant := s.q.tenant.toNat
    if s.launchFull then s.dockWait
    else if !s.vaReadable tenant (dockVa w) 64 then s.dockHalt 8 0
    else if s.vaPois tenant (dockVa w) 64 then s.dockHalt 10 2
    else
      let (c, formed) := s.readCopyq tenant (dockVa w) w.arg.toNat s.cur.k
      if 5 ≤ c.op then s.dockHalt 8 0
      else
        (((s.onQ fun q => { q with infl := q.infl + 1 }).dockNext 1).onFerry n fun f =>
          { f with waiting := f.waiting ++ [(c, formed)] }).ferryNext n)

/-! ## Control words (R339 to R342, R346) -/

/-- The window holds an address. -/
def Queue.holds (q : Queue) (a : Nat) : Bool := decide (q.base ≤ a) && decide (a < q.limit)

/-- JMP (R339). -/
def execJmp (w : DockW) (s : State) : Res :=
  .next (s.dockWord w (fld w.arg.toNat 0 3 != 0 || !s.q.holds w.arg.toNat) fun s =>
    s.onQ fun q => { q.fresh with head := w.arg.toNat })

/-- R339: the target of a LOOP. -/
def loopTo (w : DockW) (x : Nat) : Int := x + 8 * sextN 32 w.arg.toNat

/-- R339: LOOP's counting. -/
def Queue.loop (q : Queue) (m to_ : Nat) : Queue :=
  let lc := (if q.lc = 0 ∨ q.laddr ≠ q.head then m else q.lc) - 1
  if 0 < lc then { q with lc := lc, laddr := q.head, head := to_ } else { q with lc := 0, laddr := 0, head := q.head + 8 }

/-- LOOP (R339). -/
def execLoop (w : DockW) (s : State) : Res :=
  let m := fld w.arg.toNat 32 16
  let to_ := loopTo w s.q.head
  .next (s.dockWord w (m == 0 || decide (to_ < s.q.base) || decide ((s.q.limit : Int) ≤ to_)) fun s =>
    s.onQ fun q => q.fresh.loop m to_.toNat)

/-- IRQ (R340). -/
def execIrq (w : DockW) (s : State) : Res :=
  .next (s.dockWord w (w.arg.toNat / 2 ^ 13 != 0) fun s => (s.sendIrq (fld w.arg.toNat 11 2) (fld w.arg.toNat 0 11)).dockNext 1)

/-- DFENCE (R341): SIGNAL and SEMSET are applied when their word completes. -/
def execDfence (w : DockW) (s : State) : Res :=
  let sc := w.arg.toNat
  .next (s.dockWord w (decide (7 ≤ sc) || sc == 0) fun s => if s.q.infl = 0 then s.dockNext 1 else s.dockWait)

/-- PRIO (R342). -/
def execPrio (w : DockW) (s : State) : Res :=
  .next (s.dockWord w (decide (4 ≤ w.arg.toNat)) fun s =>
    (s.onQ fun q => { q with cap := BitVec.ofNat 2 (min w.arg.toNat q.maxprio.toNat) }).dockNext 1)

/-- DHALT (R346). -/
def execDhalt (w : DockW) (s : State) : Res :=
  .next (s.dockWord w (w.arg != 0) fun s => (s.dockNext 1).dockHalt 2 0)

/-- UNASSIGNED_DOCK_OP (R52). -/
def execUnassignedDockOp (_w : DockW) (_op : BitVec 8) (s : State) : Res := .next (s.dockHalt 1 0)

/-! ## Buffers (R332, R343 to R345) -/

/-- R345: the tasks launched before the HANDOFF in execution that have not completed and hold a handle as RESULT; `work` keeps the
number after the last one launched then. -/
def State.handoffWaits (s : State) (hd : Nat) : Bool :=
  let h := (s.isle s.cur.n).hb
  h.tasks.any fun t => bitN t.card.flags 0 && t.card.result == hd && (s.q.work == 0 || decide (t.no < s.q.work))

/-- HANDOFF (R345). -/
def execHandoff (w : DockW) (v : W64) (s : State) : Res :=
  let hd := w.arg.toNat
  .next (s.dockWord w (s.q.ty != 0 || hd / 2 ^ 32 != 0) fun s =>
    let n := s.cur.n
    let tenant := s.q.tenant.toNat
    let va := sext48 v.toNat
    let here := fun o => match s.walk tenant ((va + o) % 2 ^ 64) with | some l => paPanel l.pa && paIsle l.pa == n && l.w | none => false
    if !(s.isle n).hb.handleOk hd tenant then s.dockHalt 7 2
    else if s.handoffWaits hd then
      (s.onQ fun q => { q with work := if q.work = 0 then (s.isle n).hb.taskNo + 1 else q.work }).dockWait
    else if !(here 0x24 && here 0x25 && here 0x34 && here 0x37) then s.dockHalt 7 3
    else if s.vaPois tenant (va + 0x24) 2 then s.dockHalt 10 1
    else
      let fl := s.vaNum tenant (va + 0x24) 2
      ((s.vaWrite tenant (va + 0x34) (leBytes 4 hd)).vaWrite tenant (va + 0x24) (leBytes 2 (fl ||| 2))).dockNext 2)

/-- R332: frames held by buffers. -/
def Harbour.frameUsed (h : Harbour) (f : Nat) : Bool :=
  h.handles.any fun x => x.2.owner.isSome && decide (x.2.first ≤ f) && decide (f < x.2.first + x.2.count)

/-- R343: the lowest free run of frames of the pool. -/
def Harbour.freeRun (h : Harbour) (cnt : Nat) : Option Nat :=
  ((List.range (h.bpCount + 1 - cnt)).find? fun i => (List.range cnt).all fun j => !h.frameUsed (h.bpFirst + i + j)).map (h.bpFirst + ·)

/-- R343: the lowest free id. -/
def Harbour.freeId (h : Harbour) : Option Nat :=
  (List.range 1024).find? fun i => match lookupN i h.handles with | some x => x.owner.isNone | none => true

/-- R343: frames zeroed, with every granule emptied; a whole write clears poison (R424). -/
def State.clearFrames (s : State) (n first cnt : Nat) : State :=
  let lo := paOf n (0x8000000000 + 65536 * first)
  let hi := lo + 65536 * cnt
  { s with mem := s.mem.filter fun c => !(decide (lo ≤ c.1) && decide (c.1 < hi))
           full := s.full.filter fun g => !(decide (lo ≤ 8 * g) && decide (8 * g < hi))
           pois := s.pois.filter fun u => !(decide (lo ≤ u) && decide (u < hi)) }

/-- R343: where the handle goes: refused when the address may not be written. -/
def State.putHandle (s : State) (form addr hd bva : Nat) : Option State :=
  let n := s.cur.n
  let q := s.q
  let tenant := q.tenant.toNat
  if form = 2 then
    if q.holds addr then some (s.perform (cellsAt (paOf n (addr / 8 * 8)) (leBytes 4 hd))) else none
  else
    let bs := if form = 0 then leBytes 4 hd ++ leBytes 4 0 ++ leBytes 8 bva else leBytes 4 hd
    if s.vaWritable tenant (sext48 addr) bs.length then some (s.vaWrite tenant (sext48 addr) bs) else none

/-- BALLOC (R343). -/
def execBalloc (w : DockW) (v : W64) (s : State) : Res :=
  let size := w.arg.toNat
  let form := fld v.toNat 62 2
  let cnt := ceilDiv size 65536
  .next (s.dockWord w (size / 2 ^ 40 != 0 || form == 3 || fld v.toNat 48 14 != 0) fun s =>
    let n := s.cur.n
    let h := (s.isle n).hb
    if size = 0 ∨ h.bpCount < cnt then s.dockHalt 7 1
    else
      match h.freeRun cnt, h.freeId with
      | some first, some id =>
        let gen := match lookupN id h.handles with | some x => x.gen | none => 0
        let s := s.clearFrames n first cnt
        match s.putHandle form (fld v.toNat 0 48) (gen * 2 ^ 16 + id) (h.bwin + 65536 * first) with
        | none => s.dockHalt 7 4
        | some s =>
          (s.onHarbour n fun h => { h with handles := insertN id ⟨gen, some s.q.tenant.toNat, first, cnt, false⟩ h.handles }).dockNext 2
      | _, _ => s.dockWait)

/-- BFREE (R344). -/
def execBfree (w : DockW) (s : State) : Res :=
  let hd := w.arg.toNat
  .next (s.dockWord w (hd / 2 ^ 32 != 0) fun s =>
    let n := s.cur.n
    if !(s.isle n).hb.handleOk hd s.q.tenant.toNat then s.dockHalt 7 2
    else if !((s.isle n).hb.holders hd).isEmpty then s.dockWait
    else (s.onHarbour n fun h => h.freeHandle hd).dockNext 1)

/-! ## FLUSHR, INVR and FWDR (R361 to R363) -/

/-- R362: a record breaks R350, its 64 KiB alignment apart. -/
def Region.wordBad (r : Region) : Bool := r.mode / 16 != 0 || r.action / 8 != 0 || r.fwd / 64 != 0 || r.shapeBad

/-- R362: the record at an address, or the cause and detail of the halt. -/
def State.readRecord (s : State) (tenant va : Nat) : Except (Nat × Nat) Region :=
  if !s.vaReadable tenant va 16 then .error (4, 1)
  else if s.vaPois tenant va 16 then .error (10, 3)
  else
    let r := parseRegion (fun o => s.vaByte tenant (va + o)) 0
    if r.wordBad then .error (4, 3) else .ok r

/-- R362, R352: the base of FWDR's target, or the halt. -/
def State.readTarget (s : State) (tenant va : Nat) (r : Region) : Except (Nat × Nat) Region :=
  if r.fwd = 0 then .error (4, 3)
  else
    match s.readRecord tenant (va + 16 * r.fwd) with
    | .error e => .error e
    | .ok t => if t.extent = r.extent then .ok t else .error (4, 3)

/-- R363: the action of a word queued with the edge unit, under the cap of its queue (R359). -/
def State.edgeWord (s : State) (act tenant : Nat) (r : Region) (dst : Nat) : State :=
  let k := s.cur.k
  let j : EdgeJob := { isQueue := true, who := k, act := act, prio := s.q.cap.toNat, tenant := tenant, reg := r, rec_ := 0, dst := dst, off := 0, map := none, gone := false }
  (s.onHarbour s.cur.n fun h => { h with edge := h.edge ++ [j] }).onQ fun q => { q with work := 1 }

/-- R363: one step of the edge unit for a word in execution; the word completes with its action. -/
def State.edgeGo (s : State) : State :=
  let s := if (s.isle s.cur.n).hb.edgeBusy true s.cur.k then s.edgeStep s.cur.n else s
  if (s.isle s.cur.n).hb.edgeBusy true s.cur.k then s.dockWait else s.dockNext 1

/-- R362: the start of a region word. A target page that is missing posts one page request and the word waits. -/
def State.edgeBegin (s : State) (act va : Nat) : State :=
  let tenant := s.q.tenant.toNat
  match s.readRecord tenant va with
  | .error (c, d) => s.dockHalt c d
  | .ok r =>
    if act ≠ 2 then (s.edgeWord act tenant r 0).edgeGo
    else
      match s.readTarget tenant va r with
      | .error (c, d) => s.dockHalt c d
      | .ok t =>
        match s.targetEnd tenant r.fwd t with
        | some (.wait a wr) =>
          let s := if s.q.work = a + 2 then s else s.pageRequest s.cur.n ⟨tenant, 2, wr, 0, a⟩
          (s.onQ fun q => { q with work := a + 2 }).dockWait
        | some _ => s.dockHalt 4 3
        | none => (s.edgeWord 2 tenant r t.base).edgeGo

/-- A region word. -/
def State.regionWord (s : State) (act : Nat) (w : DockW) : State :=
  s.dockWord w (fld w.arg.toNat 0 4 != 0) fun s => if s.q.work = 1 then s.edgeGo else s.edgeBegin act (dockVa w)

/-- FLUSHR (R363). -/
def execFlushr (w : DockW) (s : State) : Res := .next (s.regionWord 0 w)

/-- INVR (R363). -/
def execInvr (w : DockW) (s : State) : Res := .next (s.regionWord 1 w)

/-- FWDR (R363). -/
def execFwdr (w : DockW) (s : State) : Res := .next (s.regionWord 2 w)

/-! ## A queue's word executed again -/

/-- The meaning of a dock word. -/
def dockExec (i : Instr) (s : State) : Res :=
  match i with
  | .launch w => execLaunch w s
  | .waitge w v => execWaitge w v s
  | .signal w v => execSignal w v s
  | .semset w v => execSemset w v s
  | .copyq w => execCopyq w s
  | .jmp w => execJmp w s
  | .loop w => execLoop w s
  | .irq w => execIrq w s
  | .dfence w => execDfence w s
  | .prio w => execPrio w s
  | .handoff w v => execHandoff w v s
  | .balloc w v => execBalloc w v s
  | .bfree w => execBfree w s
  | .flushr w => execFlushr w s
  | .invr w => execInvr w s
  | .fwdr w => execFwdr w s
  | .dhalt w => execDhalt w s
  | .unassignedDockOp w op => execUnassignedDockOp w op s
  | _ => .next s

/-- The word at HEAD executed. -/
def State.runDock (s : State) : Res :=
  match s.dockRead with
  | .idle => .next s
  | .stop c => .next (s.dockHalt c 0)
  | .word w v => dockExec (decodeDock w v) s

/-- BLOCKED_WORD_RESUME (R316): the waiting word of queue `cur.k` looks at its condition again. -/
def execBlockedWordResume (s : State) : Res := if s.q.wait then s.runDock else .next s

/-- WAITGE_SATISFIED (R337): the waiting WAITGE of queue `cur.k`. -/
def execWaitgeSatisfied (s : State) : Res :=
  match s.dockRead with
  | .word w v => if s.q.wait ∧ fld w 56 8 = 2 then dockExec (decodeDock w v) s else .next s
  | _ => .next s

/-- SEMAPHORE_ANSWER_RECEIVE (R321): flit `cur.j` at isle `cur.n`; the word that waits for it goes on. -/
def execSemaphoreAnswerReceive (s : State) : Res :=
  match s.flitFor s.cur.n s.cur.j with
  | some f =>
    match f.body with
    | .semAns q id ok final =>
      if s.firstMsg s.cur.j f then
        let s := s.dropFlit s.cur.j
        let s := { s with cur := { s.cur with k := q } }
        match s.q.out with
        | some (x, sent, isle, acked) =>
          if x = id then
            if final then (s.onQ fun q => { q with answer := some (id, ok) }).runDock
            else .next (s.onQ fun q => { q with out := some (x, sent, isle, acked || ok) })
          else .next s
        | none => .next s
      else .next s
    | _ => .next s
  | none => .next s

/-! ## Queue registers (R314, R315, R484) -/

/-- R315: a doorbell that has reached the harbour. -/
def Queue.ringDoor (q : Queue) (t : Nat) : Queue := if q.base ≤ t ∧ t ≤ q.limit ∧ t % 8 = 0 then { q with tail := t } else { q with dberr := true }

/-- DOORBELL (R315, R484): a 64-bit write through bridge `cur.k` by function `cur.e` (0 the PF, t + 1 the VF of tenant t). -/
def execDoorbell (v : W64) (s : State) : Res :=
  let x := v.toNat
  let n := fld x 40 6
  let q := fld x 46 4
  let bad := fld x 0 3 != 0 || fld x 50 14 != 0 || decide (40 ≤ n) || !(s.isle n).up ||
    (s.cur.e != 0 && ((s.isle n).queue q).tenant.toNat + 1 != s.cur.e)
  if bad then
    .next { s with ports := upd (fun p => { p with dbdrop := BitVec.ofNat 32 (satAdd (2 ^ 32 - 1) p.dbdrop.toNat 1) }) s.ports s.cur.k }
  else .next (s.onQueue n q fun q => q.ringDoor (fld x 0 40))

/-- R314: QCFG written. TYPE and TENANT hold while the queue runs; TYPE 0b11 acts as EN = 0. -/
def Queue.configure (q : Queue) (v : BitVec 32) : Queue :=
  let fixed := q.runs
  let q := { q with ty := if fixed then q.ty else v.extractLsb' 0 2, tenant := if fixed then q.tenant else v.extractLsb' 2 6
                    maxprio := v.extractLsb' 8 2, en := tb v 10 }
  if tb v 10 then { q with cap := q.maxprio } else q

/-- QCFG_WRITE (R314). -/
def execQcfgWrite (v : BitVec 32) (s : State) : Res := .next (s.onQ fun q => q.configure v)

/-- R314: GO. -/
def Queue.go (q : Queue) : Queue := if q.halt then { q with halt := false, cause := 0, detail := 0 } else q

/-- QUEUE_GO (R314). -/
def execQueueGo (s : State) : Res := .next (s.onQ Queue.go)

/-- R314, R316: STOP; the action of a waiting region word is withdrawn. -/
def State.stopQueue (s : State) : State :=
  if s.q.halt then s
  else (s.dockHalt 3 0).onHarbour s.cur.n fun h => { h with edge := h.edge.filter fun j => !(j.isQueue && j.who == s.cur.k) }

/-- QUEUE_STOP (R314). -/
def execQueueStop (s : State) : Res := .next s.stopQueue

/-- PRQ_HEAD_WRITE (R319, R334): held requests follow as HEAD frees space. -/
def execPrqHeadWrite (v : BitVec 32) (s : State) : Res :=
  let n := s.cur.n
  .next ((s.onHarbour n fun h => { h with prqHead := v.toNat % 2 ^ 16 }).prqDrain n (s.isle n).hb.prqHeld)

end Sys2Proof.Machine
end

