-- ==== Sys2Proof/Machine/Scan.lean ====
section
/-! DEFINITION. The scan window of a frozen segment (R403 to R406, with R87, R140, R160, R175, R197 and R267): what FRZRD
reads and FRZWR writes, eight bytes at a time. -/

namespace Sys2Proof.Machine

/-! ## The scroll registers (R87) -/

/-- R79: the order of the pairs of a segment's sequence. -/
def pairLt (a b : Stripe) : Bool := decide (a.run < b.run) || (a.run == b.run && decide (a.vs < b.vs))

/-- R87: SCROLL of a ring: the virtual stripes of its first and last resident pair, and the mode. -/
def Seg.scrollReg (g : Seg) : Nat :=
  let rs := g.live.stripes.filter fun st => st.res
  let lo := rs.foldl (fun acc st => if pairLt st acc then st else acc) (nth default rs 0)
  let hi := rs.foldl (fun acc st => if pairLt acc st then st else acc) (nth default rs 0)
  lo.vs % 4096 + hi.vs % 4096 * 2 ^ 12 + (if g.stopped then 3 else if g.scrolls then 2 else 1) * 2 ^ 24

def Ring.scrollReg (r : Ring) : Nat := match r.seg with | some g => g.scrollReg | none => 0
def Slot.tok? (x : Slot) : Option Token := match x with | .tok t => some t | .rsv _ => none
/-- The tokens of an arc, head first. -/
def tokensOf (q : List Slot) : List Token := q.filterMap Slot.tok?

/-- R87: the tokens parked; a place kept for a reply holds none. -/
def Ring.passOcc (r : Ring) : Nat := match r.seg with | some g => (tokensOf (g.live.parkd.map (·.slot))).length | none => 0

/-! ## Words of the window -/

def setLane64 (l : Lanes) (k v : Nat) : Lanes :=
  Lanes.ofFn fun j => if j = k then lo32 v else if j = k + 1 then hi32 v else l.get j

/-- Eight bytes of a list, from an offset. -/
def bytes64 (l : List Byte) (o : Nat) : Nat := ofLe ((List.range 8).map fun i => nth 0 l (o + i))

/-- R406: the eight bytes at offset `o` of a token's 128. -/
def Token.scan (t : Token) (o : Nat) : Nat := if o < 64 then lane64 t.lanes (o / 4) else if o = 64 then t.tag else 0

/-- R406: a token patched, its check recomputed. -/
def Token.patch (o v : Nat) (t : Token) : Token :=
  if o < 64 then { t with lanes := setLane64 t.lanes (o / 4) v }.sealed
  else if o = 64 then { t with poison := bitN v 6, seqv := bitN v 7, seq := BitVec.ofNat 16 (v / 256) }.sealed
  else t

/-- The `i`-th token of an arc changed. -/
def updTok (f : Token → Token) : List Slot → Nat → List Slot
  | [], _ => []
  | .rsv x :: r, i => .rsv x :: updTok f r i
  | .tok t :: r, 0 => .tok (f t) :: r
  | .tok t :: r, i + 1 => .tok t :: updTok f r i

/-- A FIFO area: COUNT at 0, token `t` at 0x80 + 0x80·t. -/
def fifoScan (ts : List Token) (o : Nat) : Nat :=
  if o = 0 then ts.length
  else if o < 0x80 then 0
  else match ts.drop ((o - 0x80) / 0x80) with
    | t :: _ => t.scan (o % 0x80)
    | [] => 0

/-- The major opcode and sub-code of a request. -/
def ReqOp.code (op : ReqOp) : Nat × Nat :=
  match op with
  | .ld => (0x67, 0) | .ldq => (0x68, 0) | .st => (0x69, 0) | .lds => (0x6A, 0) | .stf => (0x6B, 0) | .sto => (0x6C, 0)
  | .sete => (0x6D, 0) | .pfx => (0x6E, 0) | .srd => (0x6F, 0) | .swr => (0x70, 0)
  | .atom f => (0x73, f)
  | .cpy f => (0x74, f) | .cpyx => (0x74, 5)
  | .binit => (0x75, 0) | .barv => (0x75, 1) | .bexp => (0x75, 2) | .bwait => (0x75, 3)
  | .coll f => (0x76, f) | .cwait => (0x76, 5) | .cabrt => (0x76, 6)

/-! ## Segment block and extent table -/

/-- R404: SSTAT. -/
def Seg.sstat (g : Seg) : Nat :=
  (g.stopped && !g.cmd).toNat + g.cmt.toNat * 2 + g.sopend.toNat * 4 + g.halted.toNat * 8 + g.cmd.toNat * 16 + g.kind * 2 ^ 16

/-- R404: SMAP of a physical stripe. -/
def Stripe.smap (st : Stripe) : Nat :=
  (if st.res || st.stg then st.vs % 4096 else 0) + st.res.toNat * 2 ^ 12 + st.stg.toNat * 2 ^ 13 +
  match st.arm with | some a => 2 ^ 14 + a.ord * 2 ^ 16 | none => 0

def Seg.blockScan (g : Seg) (r : Ring) (o : Nat) : Nat :=
  if o = 0 then g.sstat else if o = 8 then g.fck else if o = 0x10 then g.dck else if o = 0x18 then g.nrec
  else if o = 0x20 then r.scrollReg + r.passOcc * 2 ^ 32
  else if 0x40 ≤ o ∧ o < 0x80 then bytes64 g.first (o - 0x40)
  else if 0x100 ≤ o ∧ o < 0x100 + 8 * 34 then (g.live.stripe ((o - 0x100) / 8)).smap
  else 0

/-- R197. -/
def Seg.extentScan (g : Seg) (o : Nat) : Nat :=
  match g.extents.drop (o / 16) with
  | x :: _ => if o % 16 = 0 then x.roff + x.region * 2 ^ 40 + x.cmp.toNat * 2 ^ 46 + 2 ^ 47 else paOff x.pbase + x.len * 2 ^ 40
  | [] => 0

/-! ## The wharf (R267, R405) -/

def Dest.target (d : Dest) : Nat := match d with | .reply y => y | _ => 0

/-- R267. -/
def Repair.scan (x : Repair) (o : Nat) : Nat :=
  let q := x.req
  if o = 0 then 1 + x.cause * 2 + q.op.code.2 * 2 ^ 3 + q.rpl.toNat * 2 ^ 7 + q.dest.target * 2 ^ 8 + q.chain * 2 ^ 11 +
    q.pos * 2 ^ 13 + q.ord * 2 ^ 32
  else if o = 8 then x.lmask.toNat + x.failm.toNat * 2 ^ 16 + x.act * 2 ^ 32
  else if o < 0x40 then 0
  else if o < 0x80 then lane64 q.addr ((o - 0x40) / 4)
  else if o < 0xC0 then lane64 q.data ((o - 0x80) / 4)
  else if o < 0x100 then lane64 q.swap ((o - 0xC0) / 4)
  else lane64 x.old ((o - 0x100) / 4)

def Repair.patch (o v : Nat) (x : Repair) : Repair :=
  if o = 8 then { x with act := fld v 32 2 }
  else if o < 0x40 then x
  else if o < 0x80 then { x with req := { x.req with addr := setLane64 x.req.addr ((o - 0x40) / 4) v } }
  else if o < 0xC0 then { x with req := { x.req with data := setLane64 x.req.data ((o - 0x80) / 4) v } }
  else if o < 0x100 then { x with req := { x.req with swap := setLane64 x.req.swap ((o - 0xC0) / 4) v } }
  else x

/-- R405: a chain entry. -/
def Req.scan (q : Req) (o : Nat) : Nat :=
  if o = 0 then 1 + q.pos * 2 + q.ord * 2 ^ 5 + q.op.code.1 * 2 ^ 40 + q.op.code.2 * 2 ^ 48 + q.sz * 2 ^ 52
  else if o < 0x40 then 0
  else if o < 0x80 then lane64 q.addr ((o - 0x40) / 4)
  else if o < 0xC0 then lane64 q.data ((o - 0x80) / 4)
  else 0

def Req.patch (o v : Nat) (q : Req) : Req :=
  if o < 0x40 then q
  else if o < 0x80 then { q with addr := setLane64 q.addr ((o - 0x40) / 4) v }
  else if o < 0xC0 then { q with data := setLane64 q.data ((o - 0x80) / 4) v }
  else q

/-- R405: a write-combine line. -/
def WcLine.scan (l : WcLine) (o : Nat) : Nat :=
  if o = 0 then l.pa
  else if o = 8 then l.bytes.foldl (fun acc b => acc ||| 2 ^ b.1) 0
  else if 0x40 ≤ o then ofLe ((List.range 8).map fun i => (lookupN (o - 0x40 + i) l.bytes).getD 0)
  else 0

/-- The wharf area but for held replies, fences and arrival records, whose layout the spec does not give. -/
def Wharf.scan (w : Wharf) (o : Nat) : Nat :=
  if o < 0x500 then (match nth none w.rq (o / 0x140) with | some x => x.scan (o % 0x140) | none => 0)
  else if o < 0x1000 then 0
  else if o < 0x5000 then
    match (nth [] w.chains (o / 0x1000 - 1)).drop (o % 0x1000 / 0x100) with
    | q :: _ => q.scan (o % 0x100)
    | [] => 0
  else if o < 0x5800 then (match w.wc.drop ((o - 0x5000) / 0x80) with | l :: _ => l.scan (o % 0x80) | [] => 0)
  else 0

def Wharf.patch (o v : Nat) (w : Wharf) : Wharf :=
  if o < 0x500 then { w with rq := upd (Option.map (Repair.patch (o % 0x140) v)) w.rq (o / 0x140) }
  else if o < 0x1000 then w
  else if o < 0x5000 then
    { w with chains := upd (fun l => upd (Req.patch (o % 0x100) v) l (o % 0x1000 / 0x100)) w.chains (o / 0x1000 - 1) }
  else w

/-! ## The element (R160, R175, R405, R406) -/

/-- The element has a REORD rule, so that its plane store holds the tokens of the window. -/
def Elem.reorders (el : Elem) : Bool := el.usedSlots.any fun j => match el.ruleAt j with | some (.reord ..) => true | _ => false

/-- R159: the bits of a value of a plane tile. -/
def PlaneTile.valBits (t : PlaneTile) : Nat := min 16 (typeWidth t.fmt.toNat)

def PlaneTile.scan (t : PlaneTile) (o : Nat) : Nat :=
  if o = 0 then t.fc.toNat + t.filling.toNat * 2 ^ 4 + t.busy * 2 ^ 5 + t.sparse.toNat * 2 ^ 8 + t.fmt.toNat * 2 ^ 10 +
    t.prow.toNat * 2 ^ 16 + t.apois.toNat * 2 ^ 32 + t.bpois.toNat * 2 ^ 33
  else if o < 0x18 then bytes64 t.ascale (o - 8)
  else if o < 0x28 then bytes64 t.bscale (o - 0x18)
  else 0

/-- Bytes of a list replaced by eight bytes. -/
def setBytes64 (l : List Byte) (o v : Nat) : List Byte :=
  (List.range 8).foldl (fun l i => upd (fun _ => BitVec.ofNat 8 (v / 256 ^ i)) l (o + i)) l

def PlaneTile.patch (o v : Nat) (t : PlaneTile) : PlaneTile :=
  if o = 0 then { t with fc := BitVec.ofNat 4 v, filling := bitN v 4, prow := BitVec.ofNat 16 (v / 2 ^ 16),
                         apois := bitN v 32, bpois := bitN v 33 }
  else if o < 0x18 then { t with ascale := setBytes64 t.ascale (o - 8) v }
  else if o < 0x28 then { t with bscale := setBytes64 t.bscale (o - 0x18) v }
  else t

def AccTile.state (t : AccTile) : Nat := t.xfer.toNat + t.cur.toNat * 4 + t.pend * 2 ^ 6 + t.poison.toNat * 2 ^ 9
def AccTile.patch (v : Nat) (t : AccTile) : AccTile :=
  { t with xfer := BitVec.ofNat 2 v, cur := BitVec.ofNat 4 (v / 4), poison := bitN v 9 }

def AccTile.patchVals (i v : Nat) (t : AccTile) : AccTile :=
  { t with vals := upd (fun _ => hi32 v) (upd (fun _ => lo32 v) t.vals i) (i + 1) }

def VReg.scan (x : VReg) (o : Nat) : Nat :=
  if o < 64 then lane64 x.lanes (o / 4)
  else if o = 64 then x.pres.toNat + x.pois.toNat * 2 + x.seqv.toNat * 4 + x.wr.toNat * 8 + x.seq.toNat * 2 ^ 16
  else 0
def VReg.patch (o v : Nat) (x : VReg) : VReg :=
  if o < 64 then { x with lanes := setLane64 x.lanes (o / 4) v }
  else if o = 64 then { x with pres := bitN v 0, pois := bitN v 1, seqv := bitN v 2, seq := BitVec.ofNat 16 (v / 2 ^ 16) }
  else x

/-- R406: a counter's 16 bytes. -/
def Counter.scan (c : Counter) (o : Nat) : Nat :=
  if o = 0 then c.ki.toNat + c.ko.toNat * 2 ^ 16 + c.ti.toNat * 2 ^ 32 + c.to_.toNat * 2 ^ 48
  else (c.pti.getD 0).toNat + (c.pto.getD 0).toNat * 2 ^ 16 + c.pti.isSome.toNat * 2 ^ 32 + c.pto.isSome.toNat * 2 ^ 33

/-- R406: the status block. -/
def Elem.statusScan (el : Elem) (o : Nat) : Nat :=
  if o < 0x10 then [0, 1, 2, 3].foldl (fun acc i => acc + (nth 0 el.pred (o / 2 + i)).toNat * 2 ^ (16 * i)) 0
  else if o = 0x10 then el.fflags.toNat + el.ermask.toNat * 2 ^ 32
  else if o = 0x18 then el.ord.toNat + el.mdone.toNat * 2 ^ 32
  else if o = 0x20 then el.nextSeq.toNat + el.holdLeft.toNat * 2 ^ 32
  else if o < 0x48 then (nth default el.ctr ((o - 0x28) / 16)).scan ((o - 0x28) % 16)
  else if o < 0x58 then (nth default el.gen ((o - 0x48) / 8)).cursor.toNat
  else if o = 0x58 then el.fires.toNat
  else if o < 0xA0 then lane64 el.sr ((o - 0x60) / 4)
  else 0

def Elem.statusPatch (el : Elem) (o v : Nat) : Elem :=
  if o < 0x10 then { el with pred := [0, 1, 2, 3].foldl (fun l i => upd (fun _ => BitVec.ofNat 16 (v / 2 ^ (16 * i))) l (o / 2 + i)) el.pred }
  else if o = 0x10 then { el with fflags := BitVec.ofNat 6 v, ermask := BitVec.ofNat 16 (v / 2 ^ 32) }
  else if 0x48 ≤ o ∧ o < 0x58 then { el with gen := upd (fun g => { g with cursor := BitVec.ofNat 40 v }) el.gen ((o - 0x48) / 8) }
  else el

/-- R405: the free slots and reserved reply slots of out-channel `k`, as the stopped segment stands. -/
def Seg.outScan (g : Seg) (p e k : Nat) : Nat :=
  let h := { g with start := g.live }
  let c := g.live
  let el := c.elem p e
  let r := el.route k
  let rsvs := fun (q : List Slot) => q.length - (tokensOf q).length
  let rs := match routeKind r, routeElem e r with
    | 1, some e' => rsvs (nth [] (c.elem p e').inq (routeChan r))
    | 2, some e' =>
      rsvs ((c.parkd.filter fun x => x.vs == (c.stripe p).vs + 1 && x.elem == e' && x.ch == routeChan r).map (·.slot)) +
      (match c.successor p with | some q => rsvs (nth [] (c.elem q e').inq (routeChan r)) | none => 0)
    | _, _ => rsvs (nth [] el.oq k)
  min 7 (h.freeOf p e k) + min 7 rs * 2 ^ 4

/-- R405: the element area but for the plane array queue, whose entries have no stated layout. -/
def Seg.elemScan (g : Seg) (p e o : Nat) : Nat :=
  let el := g.live.elem p e
  if o < 0x4000 then
    if el.reorders then (match nth none el.reord (o / 64) with | some t => lane64 t.lanes (o % 64 / 4) | none => 0)
    else let t := nth default el.planes (o / 1024)
      [0, 1, 2, 3].foldl (fun acc i => acc + (nth 0 t.vals (o % 1024 / 2 + i)).toNat * 2 ^ (16 * i)) 0
  else if o < 0x6000 then let t := nth default el.acc ((o - 0x4000) / 1024); lane64 t.vals (o % 1024 / 4)
  else if o < 0x6400 then (nth default el.planes ((o - 0x6000) / 64)).scan (o % 64)
  else if o < 0x6440 then (nth default el.acc ((o - 0x6400) / 8)).state
  else if o = 0x6440 then el.stage.length + el.mqUsed * 2 ^ 6
  else if o < 0x6800 then 0
  else if o < 0x7000 then (nth default el.v ((o - 0x6800) / 128)).scan (o % 128)
  else if o < 0x7200 then el.statusScan (o - 0x7000)
  else if o < 0x7280 then el.holdTok.scan (o - 0x7200)
  else if o < 0x8000 then 0
  else if o < 0x9000 then (if o % 0x400 < 0x280 then fifoScan (tokensOf (nth [] el.inq ((o - 0x8000) / 0x400))) (o % 0x400) else 0)
  else if o < 0x9100 then (if o % 0x40 = 0 then g.outScan p e ((o - 0x9000) / 0x40) else 0)
  else if o < 0x9400 then 0
  else if o < 0xA400 then (match el.stage.drop ((o - 0x9400) / 128) with | x :: _ => x.tok.scan (o % 128) | [] => 0)
  else if o < 0xAC00 then (match nth none el.reord ((o - 0xA400) / 8) with | some t => 1 + t.tag % 2 ^ 32 * 2 ^ 8 | none => 0)
  else if o < 0xAE00 then bytes64 el.img.raw (o - 0xAC00)
  else 0

def Elem.patch (el : Elem) (o v : Nat) : Elem :=
  if o < 0x4000 then
    if el.reorders then { el with reord := upd (Option.map (Token.patch (o % 64) v)) el.reord (o / 64) }
    else { el with planes := upd (fun t => { t with vals := [0, 1, 2, 3].foldl (fun l i =>
      upd (fun _ => BitVec.ofNat 16 (v / 2 ^ (16 * i) % 2 ^ t.valBits)) l (o % 1024 / 2 + i)) t.vals }) el.planes (o / 1024) }
  else if o < 0x6000 then
    { el with acc := upd (AccTile.patchVals (o % 1024 / 4) v) el.acc ((o - 0x4000) / 1024) }
  else if o < 0x6400 then { el with planes := upd (PlaneTile.patch (o % 64) v) el.planes ((o - 0x6000) / 64) }
  else if o < 0x6440 then { el with acc := upd (AccTile.patch v) el.acc ((o - 0x6400) / 8) }
  else if o < 0x6800 then el
  else if o < 0x7000 then { el with v := upd (VReg.patch (o % 128) v) el.v ((o - 0x6800) / 128) }
  else if o < 0x7200 then el.statusPatch (o - 0x7000) v
  else if o < 0x7280 then { el with holdTok := el.holdTok.patch (o - 0x7200) v }
  else if o < 0x8000 then el
  else if o < 0x9000 then
    (if 0x80 ≤ o % 0x400 ∧ o % 0x400 < 0x280 then
      { el with inq := upd (fun q => updTok (Token.patch (o % 0x80) v) q ((o % 0x400 - 0x80) / 0x80)) el.inq ((o - 0x8000) / 0x400) }
     else el)
  else if 0x9400 ≤ o ∧ o < 0xA400 then
    { el with stage := upd (fun x => { x with tok := x.tok.patch (o % 128) v }) el.stage ((o - 0x9400) / 128) }
  else el

/-! ## The window (R389, R403) -/

/-- The offset names a part whose content the spec does not lay out. -/
def Seg.scanOpen (g : Seg) (o : Nat) : Bool :=
  if 0x400000 ≤ o ∧ o < 0x400000 + 0x10000 * 34 then
    let w := (o - 0x400000) % 0x10000
    let st := g.live.stripe ((o - 0x400000) / 0x10000)
    decide (0x5800 ≤ w ∧ w < 0x6000) && (!st.wharf.pend.isEmpty || !st.wharf.fences.isEmpty || st.wharf.arr.any Option.isSome)
  else if 0x2000000 ≤ o ∧ o < 0x2000000 + 0x100000 * 34 then
    let x := (o - 0x2000000) % 0x10000
    let el := g.live.elem ((o - 0x2000000) / 0x100000) ((o - 0x2000000) / 0x10000 % 16)
    decide (0xAE00 ≤ x ∧ x < 0xAE40) && el.on && decide ((x - 0xAE00) / 16 < el.mqUsed)
  else false

/-- R403: eight bytes of the scan window of the segment of a ring. -/
def Seg.scanRead (g : Seg) (r : Ring) (o : Nat) : Nat :=
  if o < 0x1000 then g.blockScan r o
  else if o < 0x2000 then g.extentScan (o - 0x1000)
  else if 0x400000 ≤ o ∧ o < 0x400000 + 0x10000 * 34 then
    (g.live.stripe ((o - 0x400000) / 0x10000)).wharf.scan ((o - 0x400000) % 0x10000)
  else if 0x800000 ≤ o ∧ o < 0x800000 + 0x10000 * 256 then
    (if o % 0x10000 < 0x8080 then fifoScan (nth [] g.live.xin ((o - 0x800000) / 0x10000)) (o % 0x10000) else 0)
  else if 0x2000000 ≤ o ∧ o < 0x2000000 + 0x100000 * 34 then
    let p := (o - 0x2000000) / 0x100000
    let e := (o - 0x2000000) / 0x10000 % 16
    if (g.live.elem p e).on then g.elemScan p e (o % 0x10000) else 0
  else 0

/-- Token `i` of a crossing FIFO changed. -/
def Core.patchCross (c : Core) (x i : Nat) (f : Token → Token) : Core := { c with xin := upd (fun l => upd f l i) c.xin x }

/-- R403, R405, R406: eight bytes written; what is read-only keeps its value. -/
def Seg.scanWrite (g : Seg) (o v : Nat) : Seg :=
  if o < 0x400000 then g
  else if o < 0x400000 + 0x10000 * 34 then g.onWharf ((o - 0x400000) / 0x10000) fun w => w.patch ((o - 0x400000) % 0x10000) v
  else if 0x800000 ≤ o ∧ o < 0x800000 + 0x10000 * 256 then
    if 0x80 ≤ o % 0x10000 ∧ o % 0x10000 < 0x8080 then
      g.onLive fun c => c.patchCross ((o - 0x800000) / 0x10000) ((o % 0x10000 - 0x80) / 0x80) (Token.patch (o % 0x80) v)
    else g
  else if 0x2000000 ≤ o ∧ o < 0x2000000 + 0x100000 * 34 then
    g.onElem ((o - 0x2000000) / 0x100000) ((o - 0x2000000) / 0x10000 % 16) fun el => if el.on then el.patch (o % 0x10000) v else el
  else g

end Sys2Proof.Machine
end

