-- ==== Sys2Proof/Machine/Debug.lean ====
section
/-! DEFINITION. Trace control and sampling, cuts and dumps (R445 to R448, R451 to R455, R482). -/

namespace Sys2Proof.Machine

/-! ## Trace (R445, R447) -/

/-- R445: TCTL written; EN going to 1 clears TLOST. -/
def Trace.control (t : Trace) (v : Nat) : Trace :=
  { t with
    en := bitN v 0, wrap := bitN v 1, tenant := fld v 2 6, anyt := bitN v 8, kmask := fld v 9 7, dthr := fld v 16 16
    log := if bitN v 0 && !t.en then { t.log with lost := 0 } else t.log }

/-- TCTL_WRITE (R445). -/
def execTctlWrite (v : BitVec 32) (s : State) : Res :=
  .next (s.onIsle s.cur.n fun i => { i with trace := i.trace.control v.toNat })

/-- R447: the SAMPLE record of a ring. -/
def State.sampleRing (s : State) (n k : Nat) : State :=
  let r := (s.isle n).ring k
  match r.seg with
  | none => s
  | some g =>
    let lo := g.scrollReg % 4096
    let ord := match g.live.stripes.find? fun st => st.res && st.vs == lo with
      | some st => (match st.elems.find? fun el => el.on with | some el => el.ord.toNat | none => 0)
      | none => 0
    s.postTrace n k g.tenant 7 false g.id.toNat lo 0x1F 0x3F ord r.passOcc

/-- TRACE_SAMPLE (R447): a sample of every ring of isle `cur.n` that holds a segment. -/
def execTraceSample (s : State) : Res :=
  let n := s.cur.n
  let t := (s.isle n).trace
  if t.en ∧ t.tsamp ≠ 0 ∧ t.lastSample + t.tsamp ≤ s.pt then
    .next ((List.range 6).foldl (fun s k => s.sampleRing n k)
      (s.onIsle n fun i => { i with trace := { i.trace with lastSample := s.pt } }))
  else .next s

/-! ## The start of a cut (R451, R452) -/

def State.onDump (s : State) (n : Nat) (f : Dump → Dump) : State := s.onIsle n fun i => { i with dump := f i.dump }

/-- R451: a cut that the isle coordinates runs. -/
def Dump.busy (d : Dump) : Bool := d.job.isSome

/-- What the registers hold for a cut that starts now. -/
def Dump.asJob (d : Dump) : CutJob := ⟨d.resume, d.stack, d.mem, d.mask, d.base, d.len⟩

/-- R451: the cut that the isle coordinates, as the registers had it at its GO. -/
def Dump.cut_ (d : Dump) : CutJob := d.job.getD d.asJob

/-- R451: a cut runs on an isle of a mask. -/
def State.cutBusy (s : State) (mask : Nat) : Bool :=
  s.isles.any fun i => i.dump.busy && (List.range 40).any fun m => bitN mask m && bitN i.dump.cut_.mask m

/-- The isles of a coordinator's cut. -/
def Dump.isles (d : Dump) : List Nat := (List.range 40).filter fun m => bitN d.cut_.mask m

/-- DUMP_GO (R451, R452): DCTL written with GO; the coordinator is isle `cur.n`. A refusal shows in STATE; the cut that runs goes on. -/
def execDumpGo (v : BitVec 32) (s : State) : Res :=
  let n := s.cur.n
  let w := v.toNat
  let s := s.onDump n fun d => { d with resume := bitN w 1, tenant := fld w 2 6, stack := bitN w 8, mem := bitN w 9 }
  if !bitN w 0 then .next s
  else if s.cutBusy (s.isle n).dump.mask then .next (s.onDump n fun d => { d with state := 4 })
  else
    let num := ((s.isle n).dump.cut + 1) % 2 ^ 32
    let ten := fld w 2 6
    let s := s.onDump n fun d => { d with cut := num, state := 1, off := 0, job := some d.asJob }
    .next ((s.isle n).dump.isles.foldl (fun s m =>
      if m = n then s.onDump n fun d => { d with coord := some (n, num, ten), written := false, small := false }
      else if s.inView n m then s.harbourMsg n m (.cut ten num true) else s) s)

/-! ## The record of a segment (R452, R453) -/

/-- R452: the cut whose marker a producer of segment `g` has appended to one of its crossings. -/
def State.cutMarker (s : State) (g : Seg) : Option (Nat × Nat × Nat) :=
  (g.joined.map fun x => nth default g.image.chans x).findSome? fun c =>
    match (s.isle c.isle).dump.coord, s.seg c.isle c.ring with
    | some (q, num, ten), some h => if h.cutNo = num ∧ num ≠ 0 ∧ c.dir = 0 ∧ ten = g.tenant then some (q, num, ten) else none
    | _, _ => none

/-- R452: a segment records: its clock stops at the end of a cycle, or it stays as it stands; a freeze under way comes first. -/
def Seg.record (g : Seg) (num pt : Nat) : Seg :=
  if g.cutNo = num then g
  else if g.stopped || g.halt == .saving then { g with cutNo := num }
  else if g.frz.isSome || g.live != g.start then g
  else { g with cutNo := num, halt := .cut, stopPt := pt }

/-- R452: the segments of a ring record, those that stand off it from their saved contexts. -/
def Ring.record (r : Ring) (tenant num pt : Nat) : Ring :=
  let f := fun (g : Seg) => if g.tenant = tenant then g.record num pt else g
  let off := fun (g : Seg) => if g.tenant = tenant then { g with cutNo := num } else g
  { r with seg := r.seg.map f, saved := r.saved.map fun x => (off x.1, x.2), scanned := r.scanned.map fun x => (off x.1, x.2) }

/-- CUT_RECORD (R452): isle `cur.n` takes the request of flit `cur.j`, or learns of the cut by a marker, and the segments of ring
`cur.k` record. -/
def execCutRecord (s : State) : Res :=
  let n := s.cur.n
  let k := s.cur.k
  let s := match s.flitFor n s.cur.j with
    | some f =>
      match f.body with
      | .cut ten num true =>
        (s.dropFlit s.cur.j).onDump n fun d => { d with coord := some (f.src.2, num, ten), written := false, small := false }
      | _ => s
    | none => s
  let s := match (s.isle n).dump.coord, s.seg n k with
    | none, some g =>
      (match s.cutMarker g with
       | some c => s.onDump n fun d => { d with coord := some c, written := false, small := false }
       | none => s)
    | _, _ => s
  match (s.isle n).dump.coord with
  | some (_, num, ten) => .next (s.onRing n k fun r => r.record ten num s.pt)
  | none => .next s

/-! ## The dump (R454, R455) -/

/-- R455: the header of a section. -/
def secBytes (ty n seg cut pt : Nat) (body : List Byte) : List Byte :=
  leBytes 4 ty ++ leBytes 4 n ++ leBytes 8 body.length ++ leBytes 4 seg ++ leBytes 4 cut ++ leBytes 8 pt ++ body

/-- R403: the mapped areas of a segment's scan window. -/
def Seg.mapped (g : Seg) : List (Nat × Nat) :=
  let ps := List.range g.live.stripes.length
  [(0, 0x1000), (0x1000, 0x1000)] ++ (ps.map fun p => (0x400000 + 0x10000 * p, 0x10000)) ++
  ((List.range g.image.chans.length).map fun c => (0x800000 + 0x10000 * c, 0x8080)) ++
  ps.flatMap fun p => ((List.range 16).filter fun e => (g.live.elem p e).on).map fun e => (0x2000000 + 0x100000 * p + 0x10000 * e, 0x10000)

/-- R455: the body of a type 2 section. A word whose layout the spec does not give is a free value (log 31). -/
def Seg.windowBytes (g : Seg) (r : Ring) (free : Nat) : List Byte :=
  g.mapped.flatMap fun a => leBytes 4 a.1 ++ leBytes 4 a.2 ++ (List.range (a.2 / 8)).flatMap fun i =>
    let o := a.1 + 8 * i
    leBytes 8 (if g.scanOpen o then (Config.freeWord (free + o)).toNat else g.scanRead r o)

/-- The segments of a tenant on an isle, on their rings or off them. -/
def Isle.segsOf (i : Isle) (tenant : Nat) : List (Seg × Ring) :=
  (i.rings.flatMap fun r =>
    ((match r.seg with | some g => [g] | none => []) ++ r.saved.map (·.1) ++ r.scanned.map (·.1)).map fun g => (g, r)).filter
      fun x => x.1.tenant == tenant

/-- R455: the sections of an isle: bodies whose layout R455 does not give are free (log 22). -/
def State.sections (s : State) (n num tenant : Nat) (mem : Bool) : List (List Byte) :=
  let i := s.isle n
  let open_ := fun (ty seg pt x : Nat) => secBytes ty n seg num pt (Config.freeBytes (s.free + x))
  let segs := i.segsOf tenant
  [open_ 1 0 s.pt 0] ++
  ((List.range segs.length).flatMap fun x =>
    let g := (nth default segs x).1
    [secBytes 2 n g.id.toNat num g.stopPt (g.windowBytes (nth default segs x).2 s.free), open_ 3 g.id.toNat g.stopPt (2 * x + 3)] ++
    (if g.image.chans.isEmpty then [] else [open_ 4 g.id.toNat g.stopPt (2 * x + 4)])) ++
  [open_ 5 0 s.pt 1, open_ 6 0 s.pt 2] ++
  (if mem then (i.hb.tasks.filter fun t => t.card.tenant == tenant).flatMap fun t =>
    (t.regions.filter fun r => bitN r.mode 1 || bitN r.mode 2).map fun r =>
      secBytes 7 n 0 num s.pt (leBytes 8 r.base ++ (List.range r.extent).map fun o => s.vaByte tenant (r.base + o))
   else [])

/-- R455: the longest run of sections that leaves room for the end section. -/
def fitSections (room : Nat) : List (List Byte) → List (List Byte)
  | [] => []
  | x :: r => if x.length + 32 ≤ room then x :: fitSections (room - x.length) r else []

/-- R452, R454: every segment of the set on an isle has recorded, and what it had sent toward a bank is performed. -/
def Isle.recorded (i : Isle) (tenant num : Nat) : Bool := (i.segsOf tenant).all fun x => x.1.cutNo == num && x.1.settled

/-- R454: the isles of the cut that are in the coordinator's view have recorded. -/
def State.allRecorded (s : State) (c num tenant : Nat) : Bool :=
  (s.isle c).dump.isles.all fun m => !(m == c || s.inView c m) ||
    ((s.isle m).dump.coord == some (c, num, tenant) && (s.isle m).recorded tenant num)

/-- DUMP_WRITE (R455, R482): isle `cur.n` writes its sections and its end section, into its own region or through the lighthouse. -/
def execDumpWrite (s : State) : Res :=
  let n := s.cur.n
  match (s.isle n).dump.coord with
  | none => .next s
  | some (c, num, ten) =>
    let d := (s.isle c).dump
    let job := d.cut_
    if (s.isle n).dump.written || !s.allRecorded c num ten || !bitN job.mask n then .next s
    else
      let all := s.sections n num ten job.mem
      let room := if job.stack then 4096 * job.len else 4096 * s.ldLen - d.off
      let fit := fitSections room all
      let bs := (fit.flatMap id) ++ (if 32 ≤ room then secBytes 8 n 0 num s.pt [] else [])
      let at_ := if job.stack then paOf n job.base else hostPa s.ldBridge (s.ldBase + d.off)
      let s := { s.perform (cellsAt at_ bs) with free := s.free + 2 ^ 32 }
      let s := s.onDump n fun x => { x with written := true, small := decide (fit.length < all.length) }
      .next (s.onDump c fun x => { x with state := 2, off := if job.stack then x.off else x.off + bs.length })

/-- R455: a segment after the dump: restarted at the cycle after its record. -/
def State.endCut (s : State) (n k num tenant : Nat) (resume : Bool) : State :=
  let mine := fun (g : Seg) => g.cutNo == num && g.tenant == tenant
  let clear := fun (g : Seg) => if g.cutNo = num then { g with cutNo := 0 } else g
  let s := match s.seg n k with
    | some g =>
      if mine g && g.halt == Halt.cut then
        if resume then (s.resumeTimers n g).onSeg n k fun g => { g with halt := .none, start := g.live, stall := 0 } else s.killSeg n k
      else s
    | none => s
  let off := (((s.isle n).ring k).saved ++ ((s.isle n).ring k).scanned).filter fun x => mine x.1 && !x.1.stopped
  let s := if resume then s
    else off.foldl (fun s x =>
      ((s.unplace n k x.1).failTask n x.1.task 2).onHarbour n fun h => { h with ctxUsed := delSet x.2 h.ctxUsed }) s
  s.onRing n k fun r =>
    { r with
      seg := r.seg.map clear
      saved := (if resume then r.saved else r.saved.filter fun x => !mine x.1 || x.1.stopped).map fun x => (clear x.1, x.2)
      scanned := (if resume then r.scanned else r.scanned.filter fun x => !mine x.1 || x.1.stopped).map fun x => (clear x.1, x.2) }

/-- DUMP_FINISH (R455): coordinator `cur.n`: every isle of the cut that is still in the view has written its end section. -/
def execDumpFinish (s : State) : Res :=
  let c := s.cur.n
  let d := (s.isle c).dump
  let here := d.isles.filter fun m => m == c || s.inView c m
  if d.busy && here.all fun m => (s.isle m).dump.written && (match (s.isle m).dump.coord with | some x => x.1 == c | none => false) then
    let small := here.any fun m => (s.isle m).dump.small
    let st := if here.length < d.isles.length then 6 else if small then 5 else 3
    let s := (List.range 40).foldl (fun s m => match (s.isle m).dump.coord with
      | some (q, num, ten) =>
        if q = c then
          ((List.range 6).foldl (fun s k => s.endCut m k num ten d.cut_.resume) s).onDump m fun x => { x with coord := none, written := false, small := false }
        else s
      | none => s) s
    .next (s.onDump c fun x => { x with state := st, job := none })
  else .next s

end Sys2Proof.Machine
end

