-- ==== Sys2Proof/Machine/Streams.lean ====
section
/-! DEFINITION. The marker gate and the stream ports (R72 to R74, R209 to R212, R375, R376, R378, R399, R428, R470). The port of
stream entry `cur.j` belongs to the segment on ring `cur.k` of isle `cur.n`. -/

namespace Sys2Proof.Machine

/-! ## The marker gate -/

/-- R436: an EOI of a stripe has passed when the last of its configured elements with a gate has passed it. -/
def Seg.eoiWhole (g : Seg) (p e : Nat) : Bool :=
  let me := g.live.elem p e
  (List.range 16).all fun x =>
    let el := g.live.elem p x
    !el.on || !g.passes p x || decide (me.erun < el.erun) || (el.erun == me.erun && decide (me.ord.toNat ≤ el.ord.toNat))

/-- MARKER_GATE_FIRE (R72, R73): the gate of element `cur.e` of stripe `cur.p`, in a cycle that takes no rule of it. -/
def execMarkerGateFire (s : State) : Res :=
  let n := s.cur.n
  let k := s.cur.k
  let p := s.cur.p
  let e := s.cur.e
  match s.seg n k with
  | none => .next s
  | some g =>
    let lv := g.live.elem p e
    match g.gateReady p e with
    | none => .next s
    | some kind =>
      if g.clockHeld || !lv.cyc.fired.isEmpty || lv.cyc.gate || !(g.selected p e).isEmpty || !(g.live.stripe p).res then .next s
      else
        let s := s.onCurElem fun lv => { lv with cyc := { lv.cyc with taken := dedup (lv.cyc.taken ++ g.gateChans p e), gate := true } }
        let s := (s.putMarkers kind).gateActs kind
        let whole := kind == .eoi && (s.segD n k).eoiWhole p e
        .next (if whole then s.onRing n k fun r => { r with spares := upd (fun x => { x with eois := x.eois + 1 }) r.spares p } else s)

/-! ## Ports -/

def Seg.port (g : Seg) (j : Nat) : Port := nth default g.ports j
def Seg.onPort (g : Seg) (j : Nat) (f : Port → Port) : Seg := { g with ports := upd f g.ports j }
def Seg.stream (g : Seg) (j : Nat) : StreamEnt := nth default g.image.streams j

/-- R209: the element and channel whose route names stream entry `j`, on the stripe that `ok` admits. -/
def Core.portOf (c : Core) (j : Nat) (ok : Stripe → Bool) : Option (Nat × Nat × Nat) :=
  ((List.range c.stripes.length).flatMap fun p => (List.range 16).flatMap fun e => [0, 1, 2, 3].map fun k => (p, e, k)).find? fun x =>
    let el := c.elem x.1 x.2.1
    ok (c.stripe x.1) && el.on && routeKind (el.route x.2.2) == 4 && routeIdx (el.route x.2.2) == j

/-- The virtual stripe of the element whose route names a port (R395). -/
def Image.portVs (im : Image) (j : Nat) : Nat :=
  (findIdx (fun (st : StripeImg) => st.elems.any fun e => e.cfg.route.any fun r => routeKind r.toNat == 4 && routeIdx r.toNat == j) im.stripes).getD 0xFFFF

/-- R395: the record of a port's fault. -/
def Seg.portRec (g : Seg) (pt j kind cause d0 d1 : Nat) : Rec :=
  let p := g.port j
  { Rec.blank with
    kind := kind, cause := cause, pt := pt, vs := g.image.portVs j, ord := p.inv, argix := g.argix p.run p.inv
    d0 := d0, d1 := d1, port := j + 1 }

/-- A port detects a fault; the token it holds stays (R398, R399). -/
def State.portFault (s : State) (j kind cause d0 d1 : Nat) : State := s.onCurSeg fun g => g.detect (g.portRec s.pt j kind cause d0 d1)

/-- R199, R210: the cause of a port's access to a region, 0 when it may be made. -/
def Seg.portCheck (g : Seg) (reg off mode : Nat) : Nat :=
  let r := nth default g.regions reg
  if g.regions.length ≤ reg then 1 else if r.extent < off + 64 then 2 else if !bitN r.mode mode then 3 else 0

/-- The bytes of a port's access: their addresses. -/
def State.portBytes (s : State) (n : Nat) (g : Seg) (reg off : Nat) : List (Option Nat) :=
  match g.extentOf reg off with
  | some x => (List.range 64).map fun i => s.extByte g n x (off + i)
  | none => []

/-! ## Input ports (R74, R210, R212, R399, R428) -/

/-- Where an input port delivers: an in-channel with a free slot that it has not used in this cycle. -/
def Seg.portDest (g : Seg) (j : Nat) : Option (Nat × Nat × Nat) :=
  match g.live.portOf j fun st => st.res && st.run == (g.port j).run with
  | some (p, e, k) =>
    let was := nth [] (g.start.elem p e).inq k
    if (g.start.stripe p).res && was.length < 4 && (nth [] (g.live.elem p e).inq k).length == was.length then some (p, e, k) else none
  | none => none

/-- R399, R330: the port delivers at all: no freeze detected in an earlier cycle, no stop, and no new invocation once pre-emption has begun. -/
def Seg.portRuns (g : Seg) (j : Nat) : Bool :=
  !g.clockHeld && (match g.frz with | some d => decide (g.sck ≤ d) | none => true) && !(g.halt == .preempting && !(g.port j).begun)

/-- A token put into an in-channel. -/
def Seg.deliver (g : Seg) (at_ : Nat × Nat × Nat) (t : Token) : Seg :=
  g.onElem at_.1 at_.2.1 fun el => { el with inq := pushAt el.inq at_.2.2 (.tok t) }

/-- The invocations of the run that a port is in; none before the harbour deals it. -/
def Seg.portRun (g : Seg) (j : Nat) : Option Nat :=
  if (g.port j).run < g.runsDealt then (g.runs.find? fun r => r.no == (g.port j).run).map (·.count) else none

/-- R74: EOI at the end of an invocation, END after the run's last. -/
def Seg.portMark (g : Seg) (j : Nat) (at_ : Nat × Nat × Nat) (kind : Kind) : Seg :=
  (g.deliver at_ (markerTok kind (BitVec.ofNat 4 (g.stream j).ty))).onPort j fun p =>
    if kind = .eoi then { p with inv := p.inv + 1, tok := 0, begun := false } else { p with run := p.run + 1, inv := 0, tok := 0, begun := false }

/-- R210: the bytes that an input port reads next: their addresses, none past the end of an argument record. -/
def State.recordBytes (s : State) (n : Nat) (g : Seg) (a tok : Nat) : List (Option Nat) :=
  match (s.isle n).hb.task g.task with
  | some t => (List.range 64).map fun i =>
      if 64 * tok + i < t.card.argsz then
        (match s.hwalk n g.tenant ((t.card.args + a * t.card.argsz + 64 * tok + i) % 2 ^ 64) with | some l => s.readPa l | none => none)
      else none
  | none => []

/-- R426, R428, R470: a data token delivered, and kept for replay with the address it was read from. -/
def Seg.deliverKept (g : Seg) (j : Nat) (at_ : Nat × Nat × Nat) (t : Token) (addr : Nat) : Seg :=
  let p := g.port j
  let g := if t.poison && addr != 0 then g.noteOrigin addr else g
  let kept := g.replay ++ [⟨p.run, p.inv, j, t, addr⟩]
  let g := { g with replay := if 32768 < kept.length then kept.drop 1 else kept }
  (g.deliver at_ t).onPort j fun p => { p with tok := p.tok + 1, begun := true }

/-- R430: the kept token that comes next at a port during a replay. -/
def Seg.keptNext (g : Seg) (j : Nat) : Option Kept :=
  let p := g.port j
  match g.replaying.find? fun x => x.port == j with
  | some x => if x.run = p.run ∧ x.inv = p.inv then some x else none
  | none => none

/-- R210: the next data token of an input port, read from memory. -/
def State.readPort (s : State) (j : Nat) (at_ : Nat × Nat × Nat) : State :=
  let n := s.cur.n
  let g := s.segD n s.cur.k
  let x := g.stream j
  let p := g.port j
  let a := g.argix p.run p.inv
  let off := a * x.stride + 64 * p.tok
  let cause := if x.idx = 0xFFFF then 0 else g.portCheck x.idx off 0
  if cause ≠ 0 then s.portFault j 1 cause j off
  else
    let bs := if x.idx = 0xFFFF then s.recordBytes n g a p.tok else s.portBytes n g x.idx off
    let vals := bs.map fun (b : Option Nat) => match b with | some pa => s.byte pa | none => (0 : Byte)
    let bad := (bs.filterMap id).find? fun pa => s.isPois pa
    let t : Token := ⟨lanesOfBytes vals, .data, BitVec.ofNat 4 x.ty, bad.isSome, false, 0, 0⟩
    let s := (dedup ((bs.filterMap id).map (· / 64))).foldl (fun s l => s.scTouch (l * 64) false) s
    let s := (bs.filterMap id).foldl (fun s pa => s.chargeMem g.tenant pa 1) s
    s.onCurSeg fun g => g.deliverKept j at_ t.sealed (match bad with | some pa => poisonUnit pa | none => 0)

/-- INPUT_PORT_DELIVER (R74, R210): the next token or marker of input port `cur.j`. -/
def execInputPortDeliver (s : State) : Res :=
  let j := s.cur.j
  match s.seg s.cur.n s.cur.k with
  | none => .next s
  | some g =>
    let x := g.stream j
    let p := g.port j
    match g.portDest j, g.portRun j with
    | some at_, some count =>
      if x.kind ≠ 0 ∨ x.dir ≠ 0 ∨ ¬g.portRuns j then .next s
      else if count ≤ p.inv then .next (s.onCurSeg fun g => g.portMark j at_ .fin)
      else if s.portTokens s.cur.n g x ≤ p.tok then .next (s.onCurSeg fun g => g.portMark j at_ .eoi)
      else
        match g.keptNext j with
        | some t =>
          .next (s.onCurSeg fun g =>
            { g.deliverKept j at_ t.tok t.addr with replaying := g.replaying.filter fun y => !(y.port == j && y == t) })
        | none => .next (s.readPort j at_)
    | _, _ => .next s

/-- R377: a next binding may become current. -/
def Mbx.mayPromote (m : Mbx) : Bool := m.cur.isNone || !m.open_ || (m.follow && m.handed == m.acted)

/-- R377: a next binding becomes current before anything else happens at the mailbox. -/
def Mbx.promoDue (m : Mbx) : Bool := m.next.isSome && m.mayPromote

/-- R377: an observation of the open episode handed to the current binding. -/
def Mbx.hand (m : Mbx) (t : Token) : Mbx :=
  { m with obs := m.obs.drop 1
           handed := if m.open_ && (t.lanes.get 0).extractLsb' 0 16 == m.epi then m.handed + 1 else m.handed }

/-- MBX_OBSERVATION_DELIVER (R212, R376, R378): input port `cur.j` of KIND 1: the next observation, its EOI, or END. Only the
current binding receives; a released one ends its run. -/
def execMbxObservationDeliver (s : State) : Res :=
  let n := s.cur.n
  let j := s.cur.j
  match s.seg n s.cur.k with
  | none => .next s
  | some g =>
    let x := g.stream j
    let p := g.port j
    let m := (s.isle n).mailbox x.idx
    match g.portDest j, g.portRun j with
    | some at_, some count =>
      if x.kind ≠ 1 ∨ x.dir ≠ 0 ∨ ¬g.portRuns j then .next s
      else if p.tok ≠ 0 then .next (s.onCurSeg fun g => g.portMark j at_ .eoi)
      else if g.released ∨ count ≤ p.inv then .next (s.onCurSeg fun g => g.portMark j at_ .fin)
      else
        match m.obs, m.cur with
        | t :: _, some (seg, _) =>
          if seg = g.id.toNat ∧ !m.promoDue then
            .next ((s.onMbx n x.idx fun m => m.hand t).onCurSeg fun g =>
              (g.deliver at_ ({ t with ty := BitVec.ofNat 4 x.ty } : Token).sealed).onPort j fun p => { p with tok := 1, begun := true })
          else .next s
        | _, _ => .next s
    | _, _ => .next s

/-! ## Output ports (R201, R211, R212, R375) -/

/-- The token that an output port takes next: it stood in the out-channel at the start of the cycle. -/
def Seg.outHead (g : Seg) (j : Nat) : Option ((Nat × Nat × Nat) × Token) :=
  match g.live.portOf j fun st => st.res with
  | some (p, e, k) =>
    match nth [] (g.live.elem p e).oq k, nth [] (g.start.elem p e).oq k with
    | .tok t :: _, x :: _ => if x = .tok t then some ((p, e, k), t) else none
    | _, _ => none
  | none => none

/-- The token taken out of its out-channel, and the port moved on: t, then the invocation, then the run. -/
def Seg.outTake (g : Seg) (j : Nat) (at_ : Nat × Nat × Nat) (kind : Kind) : Seg :=
  (g.onElem at_.1 at_.2.1 fun el => { el with oq := upd (fun l => l.drop 1) el.oq at_.2.2 }).onPort j fun p =>
    match kind with
    | .eoi => { p with inv := p.inv + 1, tok := 0 }
    | .fin => { p with run := p.run + 1, inv := 0, tok := 0 }
    | _ => { p with tok := p.tok + 1 }

/-- R419: the check of a token at a port. -/
def State.portChk (s : State) (j : Nat) (t : Token) : State :=
  if t.chkOk then s
  else let g := s.segD s.cur.n s.cur.k; s.checkFail s.cur.n g.id.toNat (g.image.portVs j) 0x1F j

/-- R211: a data token written to its place, or a null token, which writes nothing. -/
def State.writePort (s : State) (j : Nat) (at_ : Nat × Nat × Nat) (t : Token) : State :=
  let n := s.cur.n
  let g := s.segD n s.cur.k
  let x := g.stream j
  let p := g.port j
  let off := g.argix p.run p.inv * x.stride + 64 * p.tok
  let cause := if x.stride / 64 ≤ p.tok then 5 else if t.kind = .null then 0 else g.portCheck x.idx off 1
  if cause ≠ 0 then s.portFault j 1 cause j off
  else if t.kind = .null then s.onCurSeg fun g => g.outTake j at_ .null
  else if t.pois then (s.portChk j t).onCurSeg fun g => g.detect { g.portRec s.pt j 7 1 g.origin 0 with pois := true }
  else
    let cells := ((s.portBytes n g x.idx off).zip (laneBytes t.lanes)).filterMap fun y => y.1.map fun pa => (pa, y.2)
    let s := cells.foldl (fun s c => s.chargeMem g.tenant c.1 1) (s.perform cells)
    s.onCurSeg fun g => g.outTake j at_ .data

/-- OUTPUT_PORT_WRITE (R211): output port `cur.j` of KIND 0 takes its next token. -/
def execOutputPortWrite (s : State) : Res :=
  let j := s.cur.j
  match s.seg s.cur.n s.cur.k with
  | none => .next s
  | some g =>
    match g.outHead j with
    | some (at_, t) =>
      if (g.stream j).kind ≠ 0 ∨ (g.stream j).dir ≠ 1 ∨ g.clockHeld then .next s
      else if t.kind = .data ∨ t.kind = .null then .next (s.writePort j at_ t)
      else .next (s.onCurSeg fun g => g.outTake j at_ t.kind)
    | none => .next s

/-- R375: the step that comes after the last. -/
def stepAfter (last : W) : W := if last = 0xFFFFFFFF then 0 else last + 1

/-- R375: an action queued. -/
def Mbx.queueAction (m : Mbx) (l : Lanes) : Mbx :=
  let chg := match m.lastSer with | some x => x != m.ser | none => false
  let w0 := (l.get 0).toNat
  let flags := w0 / 2 ^ 16 % 4 + chg.toNat * 8 + w0 / 2 ^ 20 * 16
  let l' := Lanes.ofFn fun k => if k = 0 then BitVec.ofNat 32 (w0 % 2 ^ 16 + flags * 2 ^ 16) else if k = 2 then m.ser else l.get k
  { m with act := m.act ++ [l'], astep := l.get 1, lastSer := some m.ser, acted := m.acted + 1, rtStart := none }

/-- R375, R419: a message at the intake of mailbox `b`. -/
def State.takeAction (s : State) (j b : Nat) (at_ : Nat × Nat × Nat) (t : Token) : State :=
  let n := s.cur.n
  let m := (s.isle n).mailbox b
  let epi : W16 := (t.lanes.get 0).extractLsb' 0 16
  let step := t.lanes.get 1
  if t.pois then (s.portChk j t).onCurSeg fun g => g.detect { g.portRec s.pt j 7 4 g.origin 0 with pois := true }
  else if !m.open_ || m.aborted || epi != m.epi then
    (s.onMbx n b fun m => { m with stale := m.stale || epi != m.epi }).onCurSeg fun g => g.outTake j at_ .data
  else if step ≠ stepAfter m.astep then s.portFault j 9 0 (b + step.toNat * 2 ^ 32) (stepAfter m.astep).toNat
  else (s.onMbx n b fun m => m.queueAction t.lanes).onCurSeg fun g => g.outTake j at_ .data

/-- R379: the round-trip budget of the episode on mailbox `b` is overrun, and the tick in which it was is over, so that the abort
comes first. -/
def State.rtOver (s : State) (n b : Nat) : Bool :=
  let m := (s.isle n).mailbox b
  match m.rtStart, ((s.isle n).hart m.hart).epi with
  | some t0, some e => m.open_ && e.mbx == b && e.rtt != 0 && decide (e.rtt + 1 < s.pt - t0)
  | _, _ => false

/-- MBX_ACTION_WRITE (R212, R375, R376, R378): output port `cur.j` of KIND 1 takes its next token. -/
def execMbxActionWrite (s : State) : Res :=
  let n := s.cur.n
  let j := s.cur.j
  match s.seg n s.cur.k with
  | none => .next s
  | some g =>
    let x := g.stream j
    let m := (s.isle n).mailbox x.idx
    let mine : Bool := match m.cur with | some (seg, _) => seg == g.id.toNat | none => false
    match g.outHead j with
    | some (at_, t) =>
      if x.kind ≠ 1 ∨ x.dir ≠ 1 ∨ g.clockHeld then .next s
      else if g.released || (mine && t.kind != .data) then .next (s.onCurSeg fun g => g.outTake j at_ t.kind)
      else if !mine || m.promoDue || decide (32 ≤ m.act.length) || s.rtOver n x.idx then .next s
      else .next (s.takeAction j x.idx at_ t)
    | none => .next s

end Sys2Proof.Machine
end

