-- ==== Sys2Proof/Machine/Handlers.lean ====
section
/-! DEFINITION. The handler table of an isle: installing a handler, its held records, and a hardware error in it (R369 to R371,
R393, R397, R407). -/

namespace Sys2Proof.Machine

/-! ## Installing (R369) -/

/-- R369: a leaf of the handler's ranges: of this isle in SPACE 0, uncompressed, with U, A and RSW bit 8. -/
def Leaf.handlerOk (l : Leaf) (n : Nat) : Bool :=
  paExists l.pa && paIsle l.pa == n && !l.cmp && l.u && l.a && l.pinned

/-- R369: every page of a range has a leaf that satisfies `ok`. -/
def State.rangeOk (s : State) (t n base len : Nat) (ok : Leaf → Bool) : Bool :=
  let first := base / 4096
  let last := (base + len - 1) / 4096
  (List.range (last - first + 1)).all fun i =>
    let va := (first + i) * 4096
    canonical va && match s.walk t va with
      | some l => l.handlerOk n && ok l
      | none => false

/-- R369: the ranges as written are malformed. -/
def Handler.badLayout (h : Handler) : Bool :=
  !canonical h.wcode || !canonical h.wdata || h.wdata % 4096 != 0 || h.wdlen == 0 || h.wdlen % 4096 != 0

/-- R369: the fields as written take effect. -/
def Handler.adopt (h : Handler) : Handler :=
  { h with core := h.wcore, clen := h.wclen, code := h.wcode, data := h.wdata, dlen := h.wdlen, en := true, result := 1 }

/-- R369: what GO gives the entry of tenant `t` on isle `n`. -/
def State.handlerGo (s : State) (n t : Nat) : Handler :=
  let h := (s.isle n).handler t
  if h.wclen = 0 then { h with en := false, result := 0 }
  else if h.badLayout then { h with en := false, result := 3 }
  else if s.rangeOk t n h.wcode h.wclen Leaf.x && s.rangeOk t n h.wdata h.wdlen (fun l => l.r && l.w && l.d) then h.adopt
  else { h with en := false, result := 2 }

/-- HANDLER_INSTALL (R369): HCTL of tenant `cur.k` written. -/
def execHandlerInstall (v : BitVec 32) (s : State) : Res :=
  let n := s.cur.n
  let t := s.cur.k
  let s := s.onHandler n t fun h => { h with wcore := fld v.toNat 0 4 }
  if bitN v.toNat 4 then .next (s.onHandler n t fun _ => s.handlerGo n t) else .next s

/-! ## Held records (R371, R393) -/

/-- HANDLER_RECORD_WRITE (R371): the oldest held record of tenant `cur.k` written when its ring has room; to the log when the
entry is no longer installed (R393). -/
def execHandlerRecordWrite (s : State) : Res :=
  let n := s.cur.n
  let t := s.cur.k
  let h := (s.isle n).handler t
  match h.held with
  | [] => .next s
  | (r, seq, fck) :: rest =>
    let s' := s.onHandler n t fun h => { h with held := rest }
    if !h.en then .next (s'.recToLog n r.kind r.cause r.seg (if r.kind = 7 then r.d0 else 0))
    else if s.ringRoom n t (r.blocks seq fck).length then .next (s'.ringRec n t r seq fck)
    else .next s

/-! ## A hardware error in a handler (R407) -/

/-- R371, R394, R396: the segment ids of `cnt` slots of a ring from slot `i` on; a VIEW record names none, and a continuation
is skipped. -/
def State.ringSegs (s : State) (n base : Nat) : Nat → Nat → List Nat
  | _, 0 => []
  | i, cnt + 1 =>
    let a := base + 0x40 + 64 * (i % 63)
    if s.skNum n (a + 3) 1 = 0 then s.ringSegs n base (i + 1) cnt
    else s.skNum n (a + 0x10) 4 ::
      if bitN (s.skNum n (a + 1) 1) 0 then
        match cnt with
        | c + 1 => s.ringSegs n base (i + 2) c
        | 0 => []
      else s.ringSegs n base (i + 1) cnt

/-- The segments of the records between HEAD and TAIL. -/
def State.ringOwners (s : State) (n t : Nat) : List Nat :=
  let hd := s.ringHead n t
  match s.ringPa n t with
  | some b => if hd ≤ 62 then s.ringSegs n b hd ((((s.isle n).handler t).tail + 63 - hd) % 63) else []
  | none => []

/-- R371: the HEAD word set to TAIL. -/
def State.ringEmpty (s : State) (n t : Nat) : State :=
  match s.ringPa n t with
  | none => s
  | some b => (s.skInv n b).write t b (leBytes 4 ((s.isle n).handler t).tail)

/-- R407: a hardware error strikes hart `h` of isle `n` at an address; nothing happens unless its context is a handler. -/
def State.hwErr (s : State) (n h pa : Nat) : State :=
  let x := (s.isle n).hart h
  if x.sftHnd then
    let t := x.sftTenant
    let s' := (s.ringOwners n t).foldl (fun s id =>
      match s.ringOf n id with
      | some k => (match s.seg n k with
        | some g => if g.stopped && g.tenant == t then s.killSeg n k else s
        | none => s)
      | none => s) s
    (s'.ringEmpty n t).postErr n 1 0 pa 0xE
  else s

/-- HANDLER_HWERR (R407): an uncorrectable error in the own arrays of hart `cur.e`, counted in class 11. The hart takes the
hardware-error exception of the RISC-V privileged specification (log 7). -/
def execHandlerHwerr (pa : Nat) (s : State) : Res :=
  let n := s.cur.n
  let h := s.cur.e
  .next (((s.countUe n 11 pa).hwErr n h pa).onHart n h fun x => x.trap 19 pa)

end Sys2Proof.Machine
end

