-- ==== Sys2Proof/Machine/Priv.lean ====
section
/-! DEFINITION. The privileged architecture of a hart: its registers, control and status registers, physical memory protection,
triggers, interrupts, and the debug module (R364, R368, R371, R487; logs 7, 18, 53). The hart of the step is `cur.e` of isle `cur.n`. -/

namespace Sys2Proof.Machine

/-! ## The hart of the step -/

def State.h (s : State) : Hart := (s.isle s.cur.n).hart s.cur.e
def State.onH (s : State) (f : Hart → Hart) : State := s.onHart s.cur.n s.cur.e f

/-- Register `r`; x0 reads 0. -/
def Hart.reg (h : Hart) (r : BitVec 5) : W64 := if r = 0 then 0 else nth 0 h.x r.toNat

/-- Register `r` written, x0 discarding it; numbers from 32 on are the FP registers, whose unit is then dirty. -/
def Hart.setReg (h : Hart) (r : Nat) (v : W64) : Hart :=
  if r = 0 then h
  else if r < 32 then { h with x := upd (fun _ => v) h.x r }
  else { h with f := upd (fun _ => v) h.f (r - 32), fs := 3 }

/-- An instruction retired: minstret counts it unless inhibited. -/
def Hart.retired (h : Hart) : Hart := if tb h.mcountinhibit 2 then h else { h with instret := h.instret + 1 }

/-! ## PEND and SFTIP (R371) -/

/-- R371: PEND of hart `e`. -/
def State.pend (s : State) (n e : Nat) : Bool :=
  let h := (s.isle n).hart e
  let x := (s.isle n).handler h.sftTenant
  h.sftEn && h.sftHnd && x.en && x.core == e && s.ringPend n h.sftTenant

/-- R371: SFTIP of hart `e`: a handler on it has records and the context does not match. -/
def State.sftip (s : State) (n e : Nat) : Bool :=
  let h := (s.isle n).hart e
  (List.range 64).any fun t =>
    ((s.isle n).handler t).core == e && s.ringPend n t && !(h.sftEn && h.sftHnd && h.sftTenant == t)

/-- Interrupts pending: those that software sets, and SFTIP. -/
def State.pending (s : State) (n e : Nat) : W64 :=
  let x := ((s.isle n).hart e).mipR
  if s.sftip n e then x ||| 0x1000000 else x

/-! ## Modes and status -/

def Mode.code : Mode → Nat
  | .u => 0
  | .s => 1
  | .m => 3

def modeOf (c : Nat) (old : Mode) : Mode := if c = 0 then .u else if c = 1 then .s else if c = 3 then .m else old

/-- sstatus; SD summarises FS, and UXL reads 64 bits. -/
def Hart.sstatus (h : Hart) : Nat :=
  h.sie.toNat * 2 + h.spie.toNat * 2 ^ 5 + (if h.spp = .s then 2 ^ 8 else 0) + h.fs % 4 * 2 ^ 13 + h.sum.toNat * 2 ^ 18 +
  h.mxr.toNat * 2 ^ 19 + 2 * 2 ^ 32 + (if h.fs = 3 then 2 ^ 63 else 0)

/-- mstatus; SXL reads 64 bits. -/
def Hart.mstatus (h : Hart) : Nat :=
  h.sstatus + h.mie.toNat * 8 + h.mpie.toNat * 2 ^ 7 + h.mpp.code * 2 ^ 11 + h.mprv.toNat * 2 ^ 17 + h.tvm.toNat * 2 ^ 20 +
  h.tw.toNat * 2 ^ 21 + h.tsr.toNat * 2 ^ 22 + 2 * 2 ^ 34

def Hart.setSstatus (h : Hart) (v : Nat) : Hart :=
  { h with sie := bitN v 1, spie := bitN v 5, spp := if bitN v 8 then .s else .u, fs := fld v 13 2, sum := bitN v 18, mxr := bitN v 19 }

def Hart.setMstatus (h : Hart) (v : Nat) : Hart :=
  { h.setSstatus v with
    mie := bitN v 3, mpie := bitN v 7, mpp := modeOf (fld v 11 2) h.mpp, mprv := bitN v 17, tvm := bitN v 20, tw := bitN v 21
    tsr := bitN v 22 }

/-- The mode in which data accesses are judged (mstatus.MPRV). -/
def Hart.dataMode (h : Hart) : Mode := if h.mprv && h.mode == .m then h.mpp else h.mode

/-! ## Physical memory protection -/

/-- Bits of a PMP entry: R, W, X, the address mode A, and L. -/
def PmpEnt.rwx (p : PmpEnt) : Nat := p.cfg.toNat % 8
def PmpEnt.mode (p : PmpEnt) : Nat := fld p.cfg.toNat 3 2
def PmpEnt.lock (p : PmpEnt) : Bool := tb p.cfg 7

/-- The zeros that a NAPOT address register ends with after its ones: the size is `8 * 2 ^ n` bytes. -/
def napotLog : Nat → Nat → Nat
  | 0, _ => 0
  | f + 1, a => if a % 2 = 1 then napotLog f (a / 2) + 1 else 0

/-- The first byte of an entry's range and the first past it; `below` is the address register before it. -/
def PmpEnt.range (p : PmpEnt) (below : Nat) : Nat × Nat :=
  let a := p.addr.toNat
  match p.mode with
  | 1 => (4 * below, 4 * a)
  | 2 => (4 * a, 4 * a + 4)
  | 3 => let k := napotLog 54 a; (a / 2 ^ (k + 1) * 2 ^ (k + 3), (a / 2 ^ (k + 1) + 1) * 2 ^ (k + 3))
  | _ => (0, 0)

/-- Smepmp: what an entry grants a mode; `mml` is mseccfg.MML. -/
def PmpEnt.grants (p : PmpEnt) (mml : Bool) (md : Mode) (need : Nat) : Bool :=
  let has := fun (x : Nat) => need &&& x == need
  if !mml then (md == .m && !p.lock) || has p.rwx
  else if p.rwx % 4 = 2 then
    if p.lock then has (if md = .m && p.rwx = 6 then 5 else 4)
    else has (if md = .m ∨ p.rwx = 6 then 3 else 1)
  else if p.lock && p.rwx == 7 then has 1
  else (p.lock == (md == .m)) && has p.rwx

/-- The first entry of a list that matches a byte of a range decides; `below` is the address register before the list. -/
def pmpFind (pa len : Nat) (below : Nat) : List PmpEnt → Option (PmpEnt × Bool)
  | [] => none
  | p :: r =>
    let x := p.range below
    if x.1 < pa + len ∧ pa < x.2 then some (p, decide (x.1 ≤ pa) && decide (pa + len ≤ x.2)) else pmpFind pa len p.addr.toNat r

/-- An access of a mode to physical bytes is permitted; bits of `need`: 1 read, 2 write, 4 fetch. -/
def Hart.pmpOk (h : Hart) (md : Mode) (pa len need : Nat) : Bool :=
  match pmpFind pa len 0 h.pmp with
  | some (p, whole) => whole && p.grants (tb h.mseccfg 0) md need
  | none => md == .m && !tb h.mseccfg 1 && !(tb h.mseccfg 0 && need == 4)

/-- A configuration byte written: a locked entry keeps its own unless mseccfg.RLB is set, the reserved pair R = 0, W = 1 is not taken
while MML is clear, and with MML set and RLB clear no locked entry gains the right to execute. -/
def Hart.putPmpCfg (h : Hart) (i v : Nat) : Hart :=
  let c : Byte := BitVec.ofNat 8 v &&& 0x9F
  let new : PmpEnt := ⟨c, 0⟩
  let rlb := tb h.mseccfg 2
  let mml := tb h.mseccfg 0
  let bad := if mml then !rlb && new.lock && (tb c 2 || new.rwx == 2) && new.rwx != 7 else new.rwx % 4 == 2
  let put := fun (p : PmpEnt) => if (p.lock && !rlb) || bad then p else { p with cfg := c }
  { h with pmp := upd put h.pmp i }

/-- An address register written, unless its entry is locked or bounds a locked range from below. -/
def Hart.putPmpAddr (h : Hart) (i : Nat) (v : W64) : Hart :=
  let next := nth ⟨0, 0⟩ h.pmp (i + 1)
  let rlb := tb h.mseccfg 2
  let put := fun (p : PmpEnt) => if (p.lock || (next.lock && next.mode == 1)) && !rlb then p else { p with addr := v &&& 0x3FFFFFFFFFFFFF }
  { h with pmp := upd put h.pmp i }

/-- mseccfg written: MML and MMWP stay set, RLB cannot be set once an entry is locked. -/
def Hart.putMseccfg (h : Hart) (v : W64) : Hart :=
  let rlb := tb v 2 && (tb h.mseccfg 2 || !h.pmp.any PmpEnt.lock)
  { h with mseccfg := (h.mseccfg &&& 3) ||| (v &&& 3) ||| (if rlb then 4 else 0) }

/-! ## Triggers and debug mode (R364, R487) -/

/-- tdata1 as a write leaves it: an address match without chain, size or select, or a disabled trigger. Only the debugger sets DMODE, and
only with DMODE does a match enter debug mode. -/
def trigLegal (dbg : Bool) (v : W64) : W64 :=
  if v >>> 60 ≠ 6 then 0xF000000000000000
  else
    let dmode := dbg && tb v 59
    let action := if dmode && (v >>> 12).extractLsb' 0 4 == 1 then (1 : W64) else 0
    let mt := (v >>> 7).extractLsb' 0 4
    let mt : W64 := if mt = 2 ∨ mt = 3 then mt.setWidth 64 else 0
    0x6000000000000000 ||| (if dmode then 0x800000000000000 else 0) ||| (action <<< 12) ||| (mt <<< 7) ||| (v &&& 0x40005F)

/-- A trigger register written; one with DMODE set takes writes from the debugger only. -/
def Hart.putTrig (h : Hart) (dbg : Bool) (f : Trig → Trig) : Hart :=
  { h with trigs := upd (fun t => if tb t.t1 59 && !dbg then t else f t) h.trigs h.tsel }

/-- A trigger matches an access of kind 0 load, 1 store or 2 fetch at an address, in the hart's mode. A breakpoint exception of M-mode
waits for mstatus.MIE. -/
def Hart.trigMatches (h : Hart) (kind va : Nat) (t : Trig) : Bool :=
  let on := match h.mode with | .m => tb t.t1 6 && (h.mie || tb t.t1 12) | .s => tb t.t1 4 | .u => tb t.t1 3
  let a := t.t2.toNat
  (t.t1 >>> 60 == 6) && on && tb t.t1 kind &&
  match fld t.t1.toNat 7 4 with | 2 => decide (a ≤ va) | 3 => decide (va < a) | _ => va == a

/-- The debug CSRs of dcsr that a write changes. -/
def dcsrMask : W := 0x0000B007

/-- Debug mode entered with a cause: 1 ebreak, 2 trigger, 3 halt request, 4 step. A FUTLD that waits is restarted on the return. -/
def Hart.enterDebug (h : Hart) (cause : Nat) : Hart :=
  if h.halted then h
  else { h with
    halted := true, dpc := h.pc, futld := none, stepSt := 0
    dcsr := (h.dcsr &&& 0xFFFFFE3C) ||| BitVec.ofNat 32 (cause * 2 ^ 6 + h.mode.code) }

/-- Debug mode left. -/
def Hart.leaveDebug (h : Hart) : Hart :=
  let md := modeOf (h.dcsr.toNat % 4) h.mode
  { h with halted := false, pc := h.dpc, mode := md, mprv := h.mprv && md == .m, rack := true, stepSt := if tb h.dcsr 2 then 1 else 0 }

/-- A trigger that matched takes effect before the instruction: a breakpoint exception, or debug mode. -/
def State.trigger (s : State) (va i : Nat) : State :=
  let debug := tb (nth ⟨0, 0⟩ s.h.trigs i).t1 12
  let s := s.onH fun h => { h with trigs := upd (fun t => { t with t1 := t.t1 ||| 0x400000 }) h.trigs i }
  if debug then s.onH fun h => h.enterDebug 2 else s.hartTrap 3 va

/-- The trigger that an access of `kind` matches first. -/
def Hart.trigAt (h : Hart) (kind va : Nat) : Option Nat := findIdx (h.trigMatches kind va) h.trigs

/-! ## Control and status registers -/

/-- The CSRs of R368. -/
def userCsr (num : Nat) : Bool := num == 0x5C0 || (0x800 ≤ num && num ≤ 0x805)

/-- misa: RV64 with A, B, C, D, F, I, M, S and U. -/
def misaVal : Nat := 2 * 2 ^ 62 + 2 ^ 0 + 2 ^ 1 + 2 ^ 2 + 2 ^ 3 + 2 ^ 5 + 2 ^ 8 + 2 ^ 12 + 2 ^ 18 + 2 ^ 20

/-- Eight configuration bytes of PMP entries from one on, as one register. -/
def Hart.pmpCfgs (h : Hart) (i : Nat) : Nat := ofLe ((List.range 8).map fun k => (nth ⟨0, 0⟩ h.pmp (i + k)).cfg)

/-- A CSR of a hart's own fields; `none` for one that does not exist or needs more than the hart to read. -/
def Hart.csrOwn (h : Hart) (num : Nat) : Option Nat :=
  match num with
  | 0x5C0 => some (h.sftEn.toNat + h.sftHnd.toNat * 2 + h.sftTenant * 4)
  | 0x801 => some h.uftvec.toNat
  | 0x802 => some h.ufcause.toNat
  | 0x803 => some h.ufepc.toNat
  | 0x804 => some h.uftval.toNat
  | 0x805 => some h.ufscratch.toNat
  | 0x001 => some (h.fcsr % 32)
  | 0x002 => some (h.fcsr / 32)
  | 0x003 => some h.fcsr
  | 0x100 => some h.sstatus
  | 0x104 => some (h.mieR &&& h.mideleg).toNat
  | 0x105 => some h.stvec.toNat
  | 0x106 => some h.scounteren.toNat
  | 0x10A => some h.senvcfg.toNat
  | 0x140 => some h.sscratch.toNat
  | 0x141 => some h.sepc.toNat
  | 0x142 => some h.scause.toNat
  | 0x143 => some h.stval.toNat
  | 0x180 => some h.satp.toNat
  | 0x300 => some h.mstatus
  | 0x301 => some misaVal
  | 0x302 => some h.medeleg.toNat
  | 0x303 => some h.mideleg.toNat
  | 0x304 => some h.mieR.toNat
  | 0x305 => some h.mtvec.toNat
  | 0x306 => some h.mcounteren.toNat
  | 0x30A => some h.menvcfg.toNat
  | 0x320 => some h.mcountinhibit.toNat
  | 0x340 => some h.mscratch.toNat
  | 0x341 => some h.mepc.toNat
  | 0x342 => some h.mcause.toNat
  | 0x343 => some h.mtval.toNat
  | 0x3A0 => some (h.pmpCfgs 0)
  | 0x3A2 => some (h.pmpCfgs 8)
  | 0x747 => some h.mseccfg.toNat
  | 0x7A0 => some h.tsel
  | 0x7A1 => some (nth ⟨0, 0⟩ h.trigs h.tsel).t1.toNat
  | 0x7A2 => some (nth ⟨0, 0⟩ h.trigs h.tsel).t2.toNat
  | 0x7A3 => some 0
  | 0x7A4 => some 0x1008040
  | 0x7B0 => some h.dcsr.toNat
  | 0x7B1 => some h.dpc.toNat
  | 0x7B2 => some (nth 0 h.dscratch 0).toNat
  | 0x7B3 => some (nth 0 h.dscratch 1).toNat
  | 0xB00 => some (h.cycles % 2 ^ 64)
  | 0xB02 => some (h.instret % 2 ^ 64)
  | 0xC00 => some (h.cycles % 2 ^ 64)
  | 0xC02 => some (h.instret % 2 ^ 64)
  | 0xF11 => some 0
  | 0xF12 => some 0
  | 0xF13 => some 0
  | 0xF15 => some 0
  | _ =>
    if 0x3B0 ≤ num ∧ num < 0x3C0 then some (nth ⟨0, 0⟩ h.pmp (num - 0x3B0)).addr.toNat
    else if (0x3C0 ≤ num ∧ num < 0x3F0) ∨ (0x3A4 ≤ num ∧ num < 0x3B0 ∧ num % 2 = 0) ∨ (0x323 ≤ num ∧ num < 0x340) ∨
        (0xB03 ≤ num ∧ num < 0xB20) ∨ (0xC03 ≤ num ∧ num < 0xC20) then some 0
    else none

/-- The value of a CSR of hart `e`; `none` for one that does not exist. -/
def State.csrVal (s : State) (n e num : Nat) : Option Nat :=
  let h := (s.isle n).hart e
  match num with
  | 0x800 => some (h.ie.toNat + h.pie.toNat * 2 + (s.pend n e).toNat * 4)
  | 0x144 => some (s.pending n e &&& h.mideleg).toNat
  | 0x344 => some (s.pending n e).toNat
  | 0xF14 => some (16 * n + e)
  | _ => h.csrOwn num

/-- A CSR of the hart of the step. -/
def State.csrRead (s : State) (num : Nat) : Option Nat := s.csrVal s.cur.n s.cur.e num

/-- R368: UFSTATUS but for RET. -/
def Hart.setUfstatus (h : Hart) (v : Nat) : Hart := { h with ie := bitN v 0, pie := bitN v 1 }

/-- The bits of menvcfg and senvcfg: FIOM, CBIE, whose value 2 is reserved, and CBCFE. -/
def envLegal (old v : W64) : W64 := (v &&& 0x41) ||| (if fld v.toNat 4 2 = 2 then old &&& 0x30 else v &&& 0x30)

/-- Bits of `old` replaced by those of `v` under a mask. -/
def underMask (m old v : W64) : W64 := (old &&& ~~~m) ||| (v &&& m)

/-- A CSR written, by the hart or by the debugger; reserved bits and values are not taken. -/
def Hart.csrWrite (h : Hart) (dbg : Bool) (num : Nat) (v : W64) : Hart :=
  match num with
  | 0x5C0 => { h with sftEn := tb v 0, sftHnd := tb v 1, sftTenant := fld v.toNat 2 6 }
  | 0x800 => h.setUfstatus v.toNat
  | 0x801 => { h with uftvec := v &&& ~~~3 }
  | 0x802 => { h with ufcause := v &&& 0x800000000000FFFF }
  | 0x803 => { h with ufepc := v }
  | 0x804 => { h with uftval := v }
  | 0x805 => { h with ufscratch := v }
  | 0x001 => { h with fcsr := h.fcsr / 32 * 32 + v.toNat % 32, fs := 3 }
  | 0x002 => { h with fcsr := h.fcsr % 32 + v.toNat % 8 * 32, fs := 3 }
  | 0x003 => { h with fcsr := v.toNat % 256, fs := 3 }
  | 0x100 => h.setSstatus v.toNat
  | 0x104 => { h with mieR := underMask (h.mideleg &&& 0x1000222) h.mieR v }
  | 0x105 => { h with stvec := v &&& ~~~2 }
  | 0x106 => { h with scounteren := v.setWidth 32 &&& 5 }
  | 0x10A => { h with senvcfg := envLegal h.senvcfg v }
  | 0x140 => { h with sscratch := v }
  | 0x141 => { h with sepc := v &&& ~~~1 }
  | 0x142 => { h with scause := v }
  | 0x143 => { h with stval := v }
  | 0x144 => { h with mipR := underMask (h.mideleg &&& 2) h.mipR v }
  | 0x180 => if v.toNat / 2 ^ 60 = 0 ∨ v.toNat / 2 ^ 60 = 9 then { h with satp := v } else h
  | 0x300 => h.setMstatus v.toNat
  | 0x302 => { h with medeleg := v &&& 0x708B3FF }
  | 0x303 => { h with mideleg := (v &&& 0x222) ||| 0x1000000 }
  | 0x304 => { h with mieR := v &&& 0x1000AAA }
  | 0x305 => { h with mtvec := v &&& ~~~2 }
  | 0x306 => { h with mcounteren := v.setWidth 32 &&& 5 }
  | 0x30A => { h with menvcfg := envLegal h.menvcfg v }
  | 0x320 => { h with mcountinhibit := v.setWidth 32 &&& 5 }
  | 0x340 => { h with mscratch := v }
  | 0x341 => { h with mepc := v &&& ~~~1 }
  | 0x342 => { h with mcause := v }
  | 0x343 => { h with mtval := v }
  | 0x344 => { h with mipR := underMask 0x222 h.mipR v }
  | 0x3A0 => (List.range 8).foldl (fun h k => h.putPmpCfg k (fld v.toNat (8 * k) 8)) h
  | 0x3A2 => (List.range 8).foldl (fun h k => h.putPmpCfg (8 + k) (fld v.toNat (8 * k) 8)) h
  | 0x747 => h.putMseccfg v
  | 0x7A0 => if v.toNat < 4 then { h with tsel := v.toNat } else h
  | 0x7A1 => h.putTrig dbg fun t => { t with t1 := trigLegal dbg v }
  | 0x7A2 => h.putTrig dbg fun t => { t with t2 := v }
  | 0x7B0 => { h with dcsr := (h.dcsr &&& ~~~dcsrMask) ||| (v.setWidth 32 &&& dcsrMask) }
  | 0x7B1 => { h with dpc := v &&& ~~~1 }
  | 0x7B2 => { h with dscratch := upd (fun _ => v) h.dscratch 0 }
  | 0x7B3 => { h with dscratch := upd (fun _ => v) h.dscratch 1 }
  | 0xB00 => { h with cycles := v.toNat }
  | 0xB02 => { h with instret := v.toNat }
  | _ => if 0x3B0 ≤ num ∧ num < 0x3C0 then h.putPmpAddr (num - 0x3B0) v else h

/-- The counter that a number names is enabled for the mode. -/
def Hart.counterOk (h : Hart) (k : Nat) : Bool :=
  match h.mode with
  | .m => true
  | .s => tb h.mcounteren k
  | .u => tb h.mcounteren k && tb h.scounteren k

/-- R368 and the privileged architecture: the hart may access the CSR: its mode reaches the number, a read-only one is not written, the
FP unit is on, satp is not trapped, a counter is enabled, and the debugger's own registers stay its own. -/
def Hart.csrOk (h : Hart) (num : Nat) (wr : Bool) : Bool :=
  decide (num / 2 ^ 8 % 4 ≤ h.mode.code) && !(wr && num / 2 ^ 10 == 3) &&
  !(((0x800 ≤ num && num ≤ 0x8FF) || (0x5C0 ≤ num && num ≤ 0x5FF)) && !userCsr num) &&
  !((num == 1 || num == 2 || num == 3) && h.fs == 0) && !(num == 0x180 && h.mode == .s && h.tvm) &&
  !(0xC00 ≤ num && num < 0xC20 && !h.counterOk (num - 0xC00)) && !(0x7B0 ≤ num && num < 0x7C0)

/-! ## Interrupts -/

/-- The order in which interrupts are taken: the standard ones in theirs, then SFTIP. -/
def irqOrder : List Nat := [11, 3, 7, 9, 1, 5, 24]

/-- The interrupt that hart `e` takes: pending, enabled, and not masked in the mode to which it goes. -/
def State.irqDue (s : State) (n e : Nat) : Option Nat :=
  let h := (s.isle n).hart e
  let on := s.pending n e &&& h.mieR
  let toM := (irqOrder.filter fun c => tb on c && !tb h.mideleg c).head?
  let toS := (irqOrder.filter fun c => tb on c && tb h.mideleg c).head?
  match (if h.mode != .m || h.mie then toM else none) with
  | some c => some c
  | none => if h.mode == .u || (h.mode == .s && h.sie) then toS else none

/-- R371: an interrupt is taken between instructions. -/
def State.interrupt (s : State) : State :=
  if !(s.isle s.cur.n).up || s.h.halted || s.h.stepSt != 0 then s
  else match s.irqDue s.cur.n s.cur.e with
    | some c => s.onH fun h => h.interrupt c
    | none => s

/-! ## The debug module (R487, log 18) -/

/-- The hart that DMCONTROL selects. -/
def Isle.dmiHart (i : Isle) : Nat := let c := (nth 0 i.dmi 0x10).toNat; fld c 16 10 + fld c 6 10 * 2 ^ 10

/-- DMSTATUS: version 1.0, authenticated, and how the selected hart stands. -/
def Isle.dmStatus (i : Isle) : Nat :=
  let h := i.dmiHart
  let there := decide (h < 16)
  let x := i.hart h
  let hl := there && x.halted
  let run := there && !x.halted
  3 + 2 ^ 7 + hl.toNat * 0x300 + run.toNat * 0xC00 + (!there).toNat * 0xC000 + (there && x.rack).toNat * 0x30000 +
    (there && x.hvr).toNat * 0xC0000

/-- HALTSUM0: the harts that are halted. -/
def Isle.haltSum (i : Isle) : Nat := (List.range 16).foldl (fun acc k => acc + (i.hart k).halted.toNat * 2 ^ k) 0

/-- A DMI register read. ABSTRACTCS has two data words and no program buffer; HARTINFO two scratch registers. -/
def Isle.dmiRead (i : Isle) (a : Nat) : Nat :=
  match a with
  | 0x10 => (nth 0 i.dmi 0x10).toNat
  | 0x11 => i.dmStatus
  | 0x12 => 2 * 2 ^ 20
  | 0x16 => 2 + fld (nth 0 i.dmi 0x16).toNat 8 3 * 2 ^ 8
  | 0x40 => i.haltSum
  | 4 => (nth 0 i.dmi 4).toNat
  | 5 => (nth 0 i.dmi 5).toNat
  | _ => 0

/-- A word of the debug module set. -/
def Isle.dmSet (i : Isle) (a v : Nat) : Isle := { i with dmi := upd (fun _ => BitVec.ofNat 32 v) i.dmi a }

/-- DMCONTROL written: halt and resume requests of the selected hart. With DMACTIVE clear the module is reset. -/
def Isle.dmControl (i : Isle) (v : Nat) : Isle :=
  if !bitN v 0 then { i with dmi := List.replicate 128 0 }
  else
    let i := i.dmSet 0x10 (v % 2 ^ 26 / 2 ^ 6 * 2 ^ 6 + 1)
    let on := fun (f : Hart → Hart) (i : Isle) => { i with harts := upd f i.harts i.dmiHart }
    let i := if bitN v 28 then on (fun h => { h with hvr := false }) i else i
    if bitN v 31 then on (fun h => h.enterDebug 3) i
    else if bitN v 30 then on (fun h => if h.halted then h.leaveDebug else { h with rack := false }) i
    else i

/-- An abstract command ends with an error code, kept until it is cleared. -/
def Isle.dmErr (i : Isle) (c : Nat) : Isle := i.dmSet 0x16 (c * 2 ^ 8)

/-- A register as the debugger names it: a CSR below 0x1000, then x0 to x31, then f0 to f31. -/
def State.dmReg (s : State) (n e no : Nat) : Option Nat :=
  let h := (s.isle n).hart e
  if no < 0x1000 then s.csrVal n e no
  else if no < 0x1020 then some (h.reg (BitVec.ofNat 5 no)).toNat
  else if no < 0x1040 then some (nth 0 h.f (no - 0x1020)).toNat
  else none

/-- A register written by the debugger. -/
def Hart.dmPut (h : Hart) (no : Nat) (v : W64) : Hart :=
  if no < 0x1000 then (if no / 2 ^ 10 = 3 then h else h.csrWrite true no v)
  else if no < 0x1020 then h.setReg (no - 0x1000) v
  else if no < 0x1040 then h.setReg (no - 0x1000) v
  else h

/-- COMMAND: Access Register of a halted hart, of 32 or 64 bits. Other commands are not supported. -/
def State.dmCommand (s : State) (n v : Nat) : State :=
  let i := s.isle n
  let e := i.dmiHart
  let size := fld v 20 3
  let no := v % 2 ^ 16
  let err := fun (c : Nat) => s.onIsle n fun i => i.dmErr c
  if fld (nth 0 i.dmi 0x16).toNat 8 3 ≠ 0 then s
  else if v / 2 ^ 24 ≠ 0 ∨ bitN v 18 ∨ bitN v 19 then err 2
  else if ¬(e < 16) ∨ !(i.hart e).halted then err 4
  else if !bitN v 17 then s
  else if (size ≠ 2 ∧ size ≠ 3) ∨ 0x1040 ≤ no then err 2
  else
    match s.dmReg n e no with
    | none => err 3
    | some old =>
      if bitN v 16 then
        let lo := (nth 0 i.dmi 4).toNat
        let x := if size = 2 then old / 2 ^ 32 * 2 ^ 32 + lo else lo + (nth 0 i.dmi 5).toNat * 2 ^ 32
        s.onHart n e fun h => h.dmPut no (BitVec.ofNat 64 x)
      else s.onIsle n fun i =>
        let i := i.dmSet 4 old
        if size = 2 then i else i.dmSet 5 (old / 2 ^ 32)

/-- A DMI register written; while DMACTIVE is clear only DMCONTROL takes writes. -/
def State.dmiWrite (s : State) (n a v : Nat) : State :=
  let i := s.isle n
  if a = 0x10 then s.onIsle n fun i => i.dmControl v
  else if !tb (nth 0 i.dmi 0x10) 0 then s
  else if a = 4 ∨ a = 5 then s.onIsle n fun i => i.dmSet a v
  else if a = 0x16 then s.onIsle n fun i => i.dmErr (fld (nth 0 i.dmi 0x16).toNat 8 3 &&& (7 - fld v 8 3))
  else if a = 0x17 then s.dmCommand n v
  else s

end Sys2Proof.Machine
end

