-- ==== Sys2Proof/Machine/Regs.lean ====
section
/-! DEFINITION. The control window of an isle: every register as it reads, and what a write of it does (R13, R87, R214, R217,
R221, R287, R312, R314, R318 to R320, R369, R374, R441, R445, R449, R451, R482, R485, R487, R489, R492, R498, R500). -/

namespace Sys2Proof.Machine

/-! ## Halves of 64-bit registers -/

/-- The 32-bit half of a 64-bit value at an offset: the high one when bit 2 is set. -/
def half (v o : Nat) : Nat := if o % 8 = 4 then v / 2 ^ 32 % 2 ^ 32 else v % 2 ^ 32

/-- A 64-bit value with one half replaced. -/
def putHalf (old o v : Nat) : Nat :=
  if o % 8 = 4 then old % 2 ^ 32 + v % 2 ^ 32 * 2 ^ 32 else v % 2 ^ 32 + old / 2 ^ 32 % 2 ^ 32 * 2 ^ 32

/-- The bits `[lo + n - 1 : lo]` of a value, in their place. -/
def keepBits (v lo n : Nat) : Nat := fld v lo n * 2 ^ lo

/-- A value stored between two bounds. -/
def clampN (lo hi v : Nat) : Nat := max lo (min hi v)

/-! ## Reading: each block's 32-bit word at offset `o` of the block -/

/-- R6, R13, R16: the isle information block. -/
def State.infoWord (s : State) (i : Isle) (o : Nat) : Nat :=
  if o = 0 then
    let (col, row) := isleSite i.no
    i.no + col * 2 ^ 6 + row * 2 ^ 10 + s.panel * 2 ^ 16
  else if o = 0x38 ∨ o = 0x3C then half s.pt o
  else if 8 ≤ o ∧ o < 0x38 ∧ o % 8 = 0 then
    let r := i.ring ((o - 8) / 8)
    r.stripes + r.built * 2 ^ 6 + r.spared * 2 ^ 16 + r.disabled * 2 ^ 22
  else 0

/-- R314: QSTAT. -/
def Queue.stat (q : Queue) : Nat :=
  q.runs.toNat + q.halt.toNat * 2 + q.wait.toNat * 4 + q.dberr.toNat * 8 + q.cause % 32 * 2 ^ 4 + q.infl % 256 * 2 ^ 9 +
  q.cap.toNat * 2 ^ 17 + q.detail % 256 * 2 ^ 19

/-- R314: a dock queue's registers. -/
def Queue.word (q : Queue) (o : Nat) : Nat :=
  if o = 0 then q.ty.toNat + q.tenant.toNat * 4 + q.maxprio.toNat * 2 ^ 8 + q.en.toNat * 2 ^ 10
  else if o = 8 ∨ o = 0xC then half q.base o
  else if o = 0x10 ∨ o = 0x14 then half q.limit o
  else if o = 0x18 ∨ o = 0x1C then half q.head o
  else if o = 0x20 ∨ o = 0x24 then half q.tail o
  else if o = 0x28 then q.stat
  else if o = 0x30 ∨ o = 0x34 then half (q.taskCard % 2 ^ 48 + q.taskStatus % 256 * 2 ^ 48) o
  else if o = 0x38 ∨ o = 0x3C then half (q.laddr + q.lc * 2 ^ 40) o
  else 0

/-- R319: the harbour registers. -/
def Harbour.word (h : Harbour) (o : Nat) : Nat :=
  if o = 0 then h.bpFirst + h.bpCount * 2 ^ 16
  else if o = 8 ∨ o = 0xC then half h.bwin o
  else if o = 0x10 ∨ o = 0x14 then half (h.ctxBase + h.ctxSlots * 2 ^ 40) o
  else if o = 0x18 ∨ o = 0x1C then half (h.prqBase + h.prqBridge) o
  else if o = 0x20 then h.prqLog2n + h.prqVec * 2 ^ 16
  else if o = 0x24 then h.prqHead
  else if o = 0x28 then h.prqTail
  else if o = 0x2C then (!h.prqHeld.isEmpty).toNat
  else if o = 0x30 then h.tasks.length % 128 + h.ctxUsed.length % 256 * 2 ^ 7
  else 0

/-- R214: the re-latch registers. -/
def Relatch.word (r : Relatch) (o : Nat) : Nat :=
  if o = 0 ∨ o = 4 then half r.va o
  else if o = 8 then r.pages
  else if o = 0x10 then r.tenant
  else if o = 0x14 then r.act.isSome.toNat + r.scanout.toNat * 2
  else 0

/-- R217: a promotion engine's registers. -/
def Promo.word (p : Promo) (o : Nat) : Nat :=
  if o = 0 ∨ o = 4 then half p.va o
  else if o = 8 ∨ o = 0xC then half p.dst o
  else if o = 0x10 then p.tenant
  else if o = 0x14 then p.state
  else 0

/-- R87: a ring's scroll and stall block. -/
def Ring.word (r : Ring) (o : Nat) : Nat :=
  if o = 0 then r.scrollReg else if o = 4 then r.passOcc else if o = 8 then r.log2t else 0

/-- R221, R287: the ferry block. -/
def Ferry.word (f : Ferry) (o : Nat) : Nat :=
  if o = 0 then 1024 + 2048 * 2 ^ 11
  else if o = 4 then f.ftout
  else if o = 8 then f.copies.length
  else if o = 0xC then f.faults
  else if o = 0x100 then f.hpcThr
  else if o = 0x108 ∨ o = 0x10C then half (f.hpcBase + f.hpcBridge) o
  else if o = 0x110 then f.hpcLog2n
  else if o = 0x114 then (f.hpc.any (·.marked)).toNat
  else if o = 0x118 then f.hpcHead
  else if o = 0x11C then f.hpcTail
  else 0

/-- R312: the mask of the member isles of panel `p`. -/
def Memb.onPanel (m : Memb) (p : Nat) : Nat := maskOf ((m.members.filter fun x => x.1 == p).map (·.2))

/-- R312: a communicator's registers. -/
def Comm.word (c : Comm) (o : Nat) : Nat :=
  if o = 0 then c.en.toNat + c.sys.toNat * 2 + c.tenant * 4
  else if o = 8 ∨ o = 0xC then half c.imask o
  else if o = 0x10 ∨ o = 0x14 then half c.pmask o
  else 0

/-- R312: the view block. -/
def State.viewWord (s : State) (i : Isle) (o : Nat) : Nat :=
  let p := i.pview
  let y := i.sview
  let me := s.member i.no
  let pl := p.leader.getD (0, 0)
  let yl := y.leader.getD (0, 0)
  if o = 0 then p.num
  else if o = 4 then p.st.code + pl.2 * 2 ^ 3
  else if o = 8 then p.members.length
  else if o = 0xC then p.rank me
  else if o = 0x10 ∨ o = 0x14 then half (p.onPanel s.panel) o
  else if o = 0x18 then y.num
  else if o = 0x1C then y.st.code + yl.2 * 2 ^ 3 + yl.1 * 2 ^ 9
  else if o = 0x20 then y.members.length
  else if o = 0x24 then y.rank me
  else if o = 0x28 ∨ o = 0x2C then half (maskOf (y.members.map (·.1))) o
  else if o = 0x30 then i.colTout
  else if o = 0x34 then (i.ops.filter fun x => x.2.status.isNone).length
  else if o = 0x38 then i.vchg.toNat
  else if 0x100 ≤ o ∧ o < 0x300 then (nth default i.comms ((o - 0x100) / 0x20)).word (o % 0x20)
  else if 0x400 ≤ o ∧ o < 0x600 then half (y.onPanel ((o - 0x400) / 8)) o
  else 0

/-- R441: the containment block. -/
def Contain.word (c : Contain) (pt o : Nat) : Nat :=
  if o = 0 then c.replayTry
  else if o = 4 then c.spareInt + c.spareOff.toNat * 2 ^ 16
  else if o = 8 then c.swin
  else if o = 0xC then c.vhold
  else if o = 0x10 then c.steps + c.holdUntil.isSome.toNat * 2 ^ 4
  else if o = 0x14 then c.attempts
  else if 0x100 ≤ o ∧ o < 0x1C0 then
    let a := (o - 0x100) / 16
    if o % 16 = 0 then c.ceCount pt a else if o % 16 = 4 then nth 0 c.thr a
    else if o % 16 = 8 then nth 0 c.ue a else (nth false c.crossed a).toNat
  else 0

/-- R445: the trace block. -/
def Trace.word (t : Trace) (o : Nat) : Nat :=
  if o = 0 then t.en.toNat + t.wrap.toNat * 2 + t.tenant * 4 + t.anyt.toNat * 2 ^ 8 + t.kmask * 2 ^ 9 + t.dthr * 2 ^ 16
  else if o = 8 ∨ o = 0xC then half t.log.base o
  else if o = 0x10 then t.log.log2n
  else if o = 0x14 then t.tsamp
  else if o = 0x18 then t.log.head
  else if o = 0x1C then t.log.tail
  else if o = 0x20 then t.log.lost.toNat
  else if o = 0x24 then t.log.seq.toNat
  else 0

/-- R449: a breakpoint entry. -/
def Bp.word (b : Bp) (o : Nat) : Nat :=
  if o = 0 then b.en.toNat + b.sticky.toNat * 2 + b.byarg.toNat * 4 + b.any.toNat * 8 + b.hit.toNat * 16
  else if o = 4 then b.vs else if o = 8 then b.seg else if o = 0xC then b.inv else 0

/-- R451: the dump block. -/
def Dump.word (d : Dump) (o : Nat) : Nat :=
  if o = 0 then d.resume.toNat * 2 + d.tenant * 4 + d.stack.toNat * 2 ^ 8 + d.mem.toNat * 2 ^ 9
  else if o = 8 ∨ o = 0xC then half d.mask o
  else if o = 0x10 ∨ o = 0x14 then half d.base o
  else if o = 0x18 then d.len
  else if o = 0x20 then d.state
  else if o = 0x24 then d.cut
  else 0

/-- R369: a handler entry's registers. -/
def Handler.word (h : Handler) (o : Nat) : Nat :=
  if o = 0 then h.wcore + h.en.toNat * 2 ^ 5 + h.result * 2 ^ 6
  else if o = 4 then h.wclen
  else if o = 8 ∨ o = 0xC then half h.wcode o
  else if o = 0x10 ∨ o = 0x14 then half h.wdata o
  else if o = 0x18 then h.wdlen
  else 0

/-- R374: a mailbox's registers. -/
def Mbx.word (m : Mbx) (o : Nat) : Nat :=
  if o = 0 then m.en.toNat + m.tenant * 2 + m.follow.toNat * 2 ^ 7
  else if o = 4 then
    m.act.length + m.obs.length * 2 ^ 6 + m.open_.toNat * 2 ^ 12 + m.aborted.toNat * 2 ^ 13 + m.cur.isSome.toNat * 2 ^ 14 +
    m.next.isSome.toNat * 2 ^ 15 + m.stale.toNat * 2 ^ 16 + m.hart * 2 ^ 17
  else if o = 8 then m.epi.toNat
  else if o = 0xC then m.ostep.toNat
  else if o = 0x10 then m.astep.toNat
  else if o = 0x14 then (match m.cur with | some x => x.1 | none => 0)
  else if o = 0x18 then (match m.next with | some x => x.1 | none => 0)
  else if o = 0x1C then m.ser.toNat
  else 0

/-- R482: a port's registers. -/
def LinkPort.word (p : LinkPort) (k o : Nat) : Nat :=
  if o = 0 then p.up.toNat + p.bridge.toNat * 2 + (if p.bridge then 0 else p.peer * 4) + p.lanes * 2 ^ 8
  else if o = 4 then p.retry.toNat
  else if o = 8 then (if k < 4 then p.dbdrop.toNat else 0)
  else (if k < 4 then p.irqdrop.toNat else 0)

/-- R482: the link block, on isle 0 only. -/
def State.linkWord (s : State) (n o : Nat) : Nat :=
  if n ≠ 0 then 0
  else if o < 0x100 then (s.port (o / 16)).word (o / 16) (o % 16)
  else if o = 0x100 then s.panel
  else if o = 0x108 ∨ o = 0x10C then half (s.ldBase + s.ldBridge) o
  else if o = 0x110 then s.ldLen
  else 0

/-- R485: the error log's registers. -/
def RingLog.errWord (l : RingLog) (o : Nat) : Nat :=
  if o = 8 ∨ o = 0xC then half l.base o
  else if o = 0x10 then l.log2n
  else if o = 0x18 then l.head
  else if o = 0x1C then l.tail
  else if o = 0x20 then l.lost.toNat
  else 0

/-- The registers of power and temperature, whose values the spec leaves open (R498, log 12). -/
def regFree (off : Nat) : Bool := off / 4 == 0x2400 || off / 4 == 0x2402

/-- What such a register shows: its reset value until the monitor has measured over 1,000 pt, then bits of the next free value. -/
def State.freeReg (s : State) (i : Isle) (off : Nat) : Nat :=
  let v := if i.mon < 1000 then 0 else (Config.freeWord s.free).toNat
  if off = 0x9000 then v % 2 ^ 24 + i.throt.toNat * 2 ^ 24 else half v off

/-- A 32-bit word of the control window of isle `n`. -/
def State.regWord (s : State) (n off : Nat) : Nat :=
  let i := s.isle n
  if regFree off then s.freeReg i off
  else if off < 0x1000 then s.infoWord i off
  else if off < 0x1800 then (i.queue ((off - 0x1000) / 0x80)).word (off % 0x80)
  else if off < 0x1900 then i.hb.word (off - 0x1800)
  else if off < 0x1940 then i.hb.relatch.word (off - 0x1900)
  else if off < 0x1A00 then 0
  else if off < 0x1A80 then (nth default i.hb.promo ((off - 0x1A00) / 0x20)).word (off % 0x20)
  else if off < 0x1C00 then 0
  else if off < 0x1D80 then (i.ring ((off - 0x1C00) / 0x40)).word (off % 0x40)
  else if off < 0x2000 then 0
  else if off < 0x2800 then half (nth 0 i.hb.sem ((off - 0x2000) / 8)).toNat off
  else if off < 0x2900 then ofLe ((i.hb.own.drop (off - 0x2800)).take 4)
  else if off < 0x4000 then 0
  else if off < 0x5000 then i.ferry.word (off - 0x4000)
  else if off < 0x6000 then s.viewWord i (off - 0x5000)
  else if off < 0x7000 then i.cont.word s.pt (off - 0x6000)
  else if off < 0x7100 then i.trace.word (off - 0x7000)
  else if off < 0x7200 then (nth default i.bps ((off - 0x7100) / 0x20)).word (off % 0x20)
  else if 0x7400 ≤ off ∧ off < 0x7440 then i.dump.word (off - 0x7400)
  else if off < 0x8000 then 0
  else if off < 0x8800 then (i.handler ((off - 0x8000) / 0x20)).word (off % 0x20)
  else if off < 0x9000 then 0
  else if off < 0xA000 then (if off = 0x9004 then i.throtCnt else 0)
  else if off < 0xC000 then (i.mailbox ((off - 0xA000) / 0x20)).word (off % 0x20)
  else if off < 0xE000 then half (nth 0 (nth [] i.acct ((off - 0xC000) / 0x80)) (off % 0x80 / 8)) off
  else if off < 0xF000 then s.linkWord n (off - 0xE000)
  else if off < 0xF100 then i.err.errWord (off - 0xF000)
  else if off < 0xF200 then ofLe (((nth [] i.mr ((off - 0xF100) / 0x20)).drop (off % 0x20)).take 4)
  else 0

/-! ## Reading bytes -/

/-- The word of the window as an agent reads it: only the PF reaches the debug module (R487). -/
def State.regSeen (s : State) (src : RegSrc) (n off : Nat) : Nat :=
  if 0xF800 ≤ off ∧ off < 0xFA00 then (if src = .host then (s.isle n).dmiRead ((off - 0xF800) / 4) else 0)
  else s.regWord n off

/-- `size` bytes of the window of isle `n`; a register whose value is open takes a new one (log 12). -/
def State.regRead (s : State) (src : RegSrc) (n off size : Nat) : Nat × State :=
  let b := fun (a : Nat) => BitVec.ofNat 8 (s.regSeen src n (a / 4 * 4) / 256 ^ (a % 4))
  let v := ofLe ((List.range size).map fun i => b (off + i))
  (v, if (List.range size).any fun i => regFree ((off + i) / 4 * 4) then s.takeFree else s)

/-! ## Writing: each block's 32-bit word -/

/-- The state that an instruction of a unit leaves; the unit of the step stays. -/
def State.asUnit (s : State) (n k : Nat) (f : State → Res) : State :=
  match f { s with cur := ⟨n, k, 0, 0, 0, 0⟩ } with
  | .next t => { t with cur := s.cur }
  | _ => s

/-- R314: QBASE, QLIMIT, QHEAD and DBERR. -/
def Queue.put (q : Queue) (o v : Nat) : Queue :=
  let open_ := !q.runs
  if (o = 8 ∨ o = 0xC) ∧ open_ then { q with base := keepBits (putHalf q.base o v) 12 28 }
  else if (o = 0x10 ∨ o = 0x14) ∧ open_ then { q with limit := keepBits (putHalf q.limit o v) 12 28 }
  else if (o = 0x18 ∨ o = 0x1C) ∧ open_ then { q with head := keepBits (putHalf q.head o v) 3 37 }
  else if o = 0x28 ∧ bitN v 3 then { q with dberr := false }
  else q

/-- R314: a write to a queue's registers. -/
def State.queuePut (s : State) (n q o v : Nat) : State :=
  if o = 0 then s.asUnit n q (execQcfgWrite (BitVec.ofNat 32 v))
  else if o = 0x2C then
    let s := if bitN v 0 then s.asUnit n q execQueueGo else s
    if bitN v 1 then s.asUnit n q execQueueStop else s
  else s.onQueue n q fun x => x.put o v

/-- R319: a buffer is allotted or a context slot is in use. -/
def Harbour.poolsBusy (h : Harbour) : Bool := h.handles.any (fun x => x.2.owner.isSome) || !h.ctxUsed.isEmpty

/-- R319: the harbour registers but PRQHEAD. -/
def Harbour.put (h : Harbour) (o v : Nat) : Harbour :=
  if o = 0 then
    if h.poolsBusy ∨ 1536 < fld v 0 11 + fld v 16 11 then h else { h with bpFirst := fld v 0 11, bpCount := fld v 16 11 }
  else if o = 8 ∨ o = 0xC then { h with bwin := keepBits (putHalf h.bwin o v) 27 21 }
  else if o = 0x10 ∨ o = 0x14 then
    if h.poolsBusy then h
    else
      let x := putHalf (h.ctxBase + h.ctxSlots * 2 ^ 40) o v
      { h with ctxBase := keepBits x 25 15, ctxSlots := fld x 40 8 }
  else if o = 0x18 ∨ o = 0x1C then
    let x := putHalf (h.prqBase + h.prqBridge) o v
    { h with prqBridge := x % 4, prqBase := keepBits x 12 52 }
  else if o = 0x20 then { h with prqLog2n := clampN 4 16 (fld v 0 5), prqVec := fld v 16 11 }
  else h

/-- R214: RLVA, RLLEN and SCANOUT. -/
def Relatch.put (r : Relatch) (o v : Nat) : Relatch :=
  if o = 0 ∨ o = 4 then { r with va := keepBits (putHalf r.va o v) 16 32 }
  else if o = 8 then { r with pages := fld v 0 24 }
  else if o = 0x14 ∧ bitN v 1 then { r with scanout := false }
  else r

/-- R217: PRVA and PRDST. -/
def Promo.put (p : Promo) (o v : Nat) : Promo :=
  if o = 0 ∨ o = 4 then { p with va := keepBits (putHalf p.va o v) 21 27 }
  else if o = 8 ∨ o = 0xC then { p with dst := keepBits (putHalf p.dst o v) 21 19 }
  else p

/-- R320: an owner byte. -/
def Harbour.putOwner (h : Harbour) (i v : Nat) : Harbour := { h with own := upd (fun _ => BitVec.ofNat 8 (v % 128)) h.own i }

/-- R221, R287: the ferry block but HPCHEAD and HPCREL. -/
def Ferry.put (f : Ferry) (o v : Nat) : Ferry :=
  if o = 4 then { f with ftout := max 1000 v }
  else if o = 0x100 then { f with hpcThr := v % 2 ^ 16 }
  else if o = 0x108 ∨ o = 0x10C then
    let x := putHalf (f.hpcBase + f.hpcBridge) o v
    { f with hpcBridge := x % 4, hpcBase := keepBits x 12 52 }
  else if o = 0x110 then { f with hpcLog2n := clampN 4 16 (fld v 0 5) }
  else f

/-- R441: the containment block. -/
def Contain.put (c : Contain) (o v : Nat) : Contain :=
  if o = 0 then { c with replayTry := fld v 0 4 }
  else if o = 4 then { c with spareInt := max 256 (fld v 0 16), spareOff := bitN v 16 }
  else if o = 8 then { c with swin := max 1000000 v }
  else if o = 0xC then { c with vhold := v }
  else if 0x100 ≤ o ∧ o < 0x1C0 ∧ o % 16 = 4 then { c with thr := upd (fun _ => v) c.thr ((o - 0x100) / 16) }
  else if 0x100 ≤ o ∧ o < 0x1C0 ∧ o % 16 = 0xC ∧ bitN v 0 then
    { c with crossed := upd (fun _ => false) c.crossed ((o - 0x100) / 16) }
  else c

/-- R445, R485: the base, size and head of a ring log. -/
def RingLog.put (l : RingLog) (o v : Nat) : RingLog :=
  if o = 8 ∨ o = 0xC then { l with base := keepBits (putHalf l.base o v) 12 28 }
  else if o = 0x10 then { l with log2n := clampN 7 27 (fld v 0 5) }
  else if o = 0x18 then { l with head := fld v 0 28 }
  else l

/-- R445: the trace block but TCTL; the first sample after a write of TSAMP follows a period later (log 32). -/
def Trace.put (t : Trace) (pt o v : Nat) : Trace :=
  if o = 0x14 then { t with tsamp := v, lastSample := pt } else { t with log := t.log.put o v }

/-- R449: a breakpoint entry. -/
def Bp.put (b : Bp) (o v : Nat) : Bp :=
  if o = 0 then { b with en := bitN v 0, sticky := bitN v 1, byarg := bitN v 2, any := bitN v 3, hit := b.hit && !bitN v 4 }
  else if o = 4 then { b with vs := fld v 0 12 }
  else if o = 8 then { b with seg := v }
  else if o = 0xC then { b with inv := v }
  else b

/-- R451: the dump block but DCTL. -/
def Dump.put (d : Dump) (o v : Nat) : Dump :=
  if o = 8 ∨ o = 0xC then { d with mask := putHalf d.mask o v % 2 ^ 40 }
  else if o = 0x10 ∨ o = 0x14 then { d with base := keepBits (putHalf d.base o v) 12 28 }
  else if o = 0x18 then { d with len := v }
  else d

/-- R369: a handler entry but HCTL. -/
def Handler.put (h : Handler) (o v : Nat) : Handler :=
  if o = 4 then { h with wclen := v }
  else if o = 8 ∨ o = 0xC then { h with wcode := putHalf h.wcode o v }
  else if o = 0x10 ∨ o = 0x14 then { h with wdata := putHalf h.wdata o v }
  else if o = 0x18 then { h with wdlen := v }
  else h

/-- R374: MBCFG, ignored while OPEN or CURV. -/
def Mbx.put (m : Mbx) (o v : Nat) : Mbx :=
  if o = 0 ∧ !m.open_ ∧ m.cur.isNone then { m with en := bitN v 0, tenant := fld v 1 6, follow := bitN v 7 } else m

/-- R489: MRk extended by the digest that MREXTD holds, which is cleared. -/
def Isle.extend (i : Isle) (k : Nat) : Isle :=
  { i with mr := upd (fun m => sha3 (m ++ i.mrext)) i.mr k, mrext := List.replicate 32 0 }

/-- R489: K 3, 6 or 7. -/
def Isle.mrGo (i : Isle) (k : Nat) : Isle := if k = 3 ∨ k = 6 ∨ k = 7 then i.extend k else i

/-- R489, R500: the source is a hart in M-mode. -/
def State.fromM (s : State) (src : RegSrc) (n : Nat) : Bool := match src with | .hart h => ((s.isle n).hart h).mode == .m | .host => false

/-- R482: LDBASE and LDLEN. -/
def State.linkPut (s : State) (n o v : Nat) : State :=
  if n ≠ 0 then s
  else if o = 0x108 ∨ o = 0x10C then
    let x := putHalf (s.ldBase + s.ldBridge) o v
    { s with ldBridge := x % 4, ldBase := keepBits x 12 52 }
  else if o = 0x110 then { s with ldLen := v }
  else s

/-- A 32-bit word written to the control window of isle `n`. -/
def State.regPut (s : State) (src : RegSrc) (n off v : Nat) : State :=
  let w := BitVec.ofNat 32 v
  if off < 0x1000 then s
  else if off < 0x1800 then s.queuePut n ((off - 0x1000) / 0x80) (off % 0x80) v
  else if off = 0x1824 then s.asUnit n 0 (execPrqHeadWrite w)
  else if off < 0x1900 then s.onHarbour n fun h => h.put (off - 0x1800) v
  else if off = 0x1910 then s.asUnit n 0 (execRelatchGo w)
  else if off < 0x1940 then s.onHarbour n fun h => { h with relatch := h.relatch.put (off - 0x1900) v }
  else if off < 0x1A00 then s
  else if off < 0x1A80 then
    let m := (off - 0x1A00) / 0x20
    if off % 0x20 = 0x10 then s.asUnit n m (execPromoteGo w)
    else s.onHarbour n fun h => { h with promo := upd (fun p => p.put (off % 0x20) v) h.promo m }
  else if off < 0x1C00 then s
  else if off < 0x1D80 then
    if off % 0x40 = 8 then s.onRing n ((off - 0x1C00) / 0x40) fun r => { r with log2t := clampN 10 40 (fld v 0 6) } else s
  else if off < 0x2800 then s
  else if off < 0x2900 then
    s.onHarbour n fun h => [0, 1, 2, 3].foldl (fun h i => h.putOwner (off - 0x2800 + i) (v / 256 ^ i)) h
  else if off < 0x4000 then s
  else if off = 0x4118 then s.asUnit n 0 (execHpcHeadWrite w)
  else if off < 0x5000 then s.onFerry n fun f => f.put (off - 0x4000) v
  else if off = 0x5030 then s.onIsle n fun i => { i with colTout := max 10000 v }
  else if off < 0x6000 then s
  else if off < 0x7000 then s.onContain n fun c => c.put (off - 0x6000) v
  else if off = 0x7000 then s.asUnit n 0 (execTctlWrite w)
  else if off < 0x7100 then s.onIsle n fun i => { i with trace := i.trace.put s.pt (off - 0x7000) v }
  else if off < 0x7200 then s.onIsle n fun i => { i with bps := upd (fun b => b.put (off % 0x20) v) i.bps ((off - 0x7100) / 0x20) }
  else if off < 0x7400 then s
  else if off = 0x7400 then s.asUnit n 0 (execDumpGo w)
  else if off < 0x7440 then s.onDump n fun d => d.put (off - 0x7400) v
  else if off < 0x8000 then s
  else if off < 0x8800 then
    let t := (off - 0x8000) / 0x20
    if off % 0x20 = 0 then s.asUnit n t (execHandlerInstall w) else s.onHandler n t fun h => h.put (off % 0x20) v
  else if off < 0xA000 then s
  else if off < 0xC000 then s.onMbx n ((off - 0xA000) / 0x20) fun m => m.put (off % 0x20) v
  else if off < 0xE000 then s
  else if off < 0xF000 then s.linkPut n (off - 0xE000) v
  else if off < 0xF100 then s.onIsle n fun i => { i with err := i.err.put (off - 0xF000) v }
  else if off = 0xF200 then (if s.fromM src n && bitN v 3 then s.onIsle n fun i => i.mrGo (fld v 0 3) else s)
  else if 0xF800 ≤ off ∧ off < 0xFA00 then (if src = .host then s.dmiWrite n ((off - 0xF800) / 4) v else s)
  else s

/-- The bits of a word that write as they read when a narrower write leaves them alone: those that a 1 would clear are 0
(log 32). -/
def State.regKeep (s : State) (src : RegSrc) (n off : Nat) : Nat :=
  let v := if regFree off then 0 else s.regSeen src n off
  if 0x1000 ≤ off ∧ off < 0x1800 ∧ off % 0x80 = 0x28 then 0
  else if off = 0x1914 then 0
  else if 0x7100 ≤ off ∧ off < 0x7200 ∧ off % 0x20 = 0 then v % 16
  else if 0x6100 ≤ off ∧ off < 0x61C0 ∧ off % 16 = 0xC then 0
  else v

/-- R320: a semaphore written whole. -/
def State.semPut (s : State) (n i v : Nat) : State := s.semChange n i fun _ => BitVec.ofNat 64 v

/-- `size` bytes, 1, 2, 4 or 8 and naturally aligned, written to the control window of isle `n` (R500). A semaphore, HPCREL and
MREXTD take 8-byte writes only (R320, R489, log 32); a narrower write of another register keeps the word's other bytes. -/
def State.regWrite (s : State) (src : RegSrc) (n off size v : Nat) : State :=
  if !(s.isle n).up then s
  else if 0x2000 ≤ off ∧ off < 0x2800 then (if size = 8 ∧ off % 8 = 0 then s.semPut n ((off - 0x2000) / 8) v else s)
  else if 0x4120 ≤ off ∧ off < 0x4128 then (if size = 8 then s.asUnit n 0 (execHpcRelease (BitVec.ofNat 64 v)) else s)
  else if 0xF220 ≤ off ∧ off < 0xF240 then
    if size = 8 ∧ off % 8 = 0 ∧ s.fromM src n then s.onIsle n fun i => { i with mrext := setBytes64 i.mrext (off - 0xF220) v } else s
  else if 0x5100 ≤ off ∧ off < 0x5300 then s.commWrite n (off - 0x5000) size v
  else if 0x2800 ≤ off ∧ off < 0x2900 then
    s.onHarbour n fun h => (List.range size).foldl (fun h i => h.putOwner (off - 0x2800 + i) (v / 256 ^ i)) h
  else if size = 8 then (s.regPut src n off (v % 2 ^ 32)).regPut src n (off + 4) (v / 2 ^ 32 % 2 ^ 32)
  else if off % 4 + size ≤ 4 then
    let a := off / 4 * 4
    s.regPut src n a (setPart (s.regKeep src n a % 2 ^ 32) (off % 4) size v)
  else s

/-! ## Meanings -/

/-- R500: a write from a hart needs S-mode or M-mode. -/
def State.srcOk (s : State) (src : RegSrc) (n : Nat) : Bool := match src with | .host => true | .hart h => ((s.isle n).hart h).mode != .u

/-- REGISTER_WRITE (R500): a write to the control window of isle `cur.n`. -/
def execRegisterWrite (src : RegSrc) (off size : Nat) (v : BitVec 64) (s : State) : Res :=
  if s.srcOk src s.cur.n then .next (s.regWrite src s.cur.n off size v.toNat) else .next s

/-- MR_EXTEND (R489): hart `cur.e` in M-mode writes MREXTC with GO and K = `cur.k`. -/
def execMrExtend (s : State) : Res :=
  if s.fromM (.hart s.cur.e) s.cur.n then .next (s.onIsle s.cur.n fun i => i.mrGo s.cur.k) else .next s

/-- DMI_ACCESS (R487): an access of the PF to DMI register `cur.j` of isle `cur.n`. -/
def execDmiAccess (wr : Bool) (v : BitVec 32) (s : State) : Res :=
  let i := s.isle s.cur.n
  if wr then .next { s.dmiWrite s.cur.n s.cur.j v.toNat with rsp := some .done }
  else .next { s with rsp := some (.data (leBytes 4 (i.dmiRead s.cur.j)) false) }

end Sys2Proof.Machine
end

