-- ==== Sys2Proof/Machine/Hart.lean ====
section
/-! DEFINITION. A hart's accesses: its reach and translation, the caches, the enclosure, what stands before any of its instructions,
the memory and CSR instructions, and fetching (R240, R364 to R372, R379, R381; logs 7, 11). The hart of the step is `cur.e` of isle
`cur.n`. -/

namespace Sys2Proof.Machine

/-! ## The hart of the step -/

/-- An instruction of 4 bytes, or 2 where `cur.x` says so, retired: the pc is past it. -/
def State.hartNext (s : State) : State := s.onH fun h => { h.retired with pc := h.pc + (if s.cur.x = 2 then 2 else 4) }

/-- An instruction completed with a register written. -/
def State.hartDone (s : State) (r : Nat) (v : W64) : State := s.hartNext.onH fun h => h.setReg r v

/-- R382: the tenant check of SFTCTL. -/
def Hart.isTenant (h : Hart) (t : Nat) : Bool := h.sftEn && h.sftTenant == t

/-- R492: whom a hart's traffic is charged to; 64 stands for nobody. -/
def Hart.payer (h : Hart) : Nat := if h.sftEn then h.sftTenant else 64

/-! ## Episodes: the enclosure and the abort (R379, R381) -/

/-- R379: one window grants all bytes of an access; `need` has bit 0 read, bit 1 write, bit 2 fetch. -/
def Episode.grants (e : Episode) (va len need : Nat) : Bool :=
  e.wins.any fun w => decide (w.1 ≤ va) && decide (va + len ≤ w.1 + w.2.1) && (w.2.2 &&& need) == need

/-- R379: the enclosure admits an access of the hart. -/
def Hart.enclosed (h : Hart) (va len need : Nat) : Bool :=
  h.mode != .u || match h.epi with | some e => e.grants va len need | none => true

/-- R381: the message of an abort. -/
def Mbx.abortMsg (m : Mbx) (cause : Nat) : Token :=
  let l := Lanes.ofList [BitVec.ofNat 32 (m.epi.toNat + 4 * 2 ^ 16), stepAfter m.ostep, 0, 0, BitVec.ofNat 32 cause]
  ({ Token.blank with lanes := l } : Token).sealed

/-- R381: the mailbox at an abort; a second abort of the episode changes nothing. -/
def Mbx.abort (m : Mbx) (cause : Nat) : Mbx :=
  if m.aborted then m
  else { m with aborted := true, act := [], abortDue := m.abortDue ++ [m.abortMsg cause] }

/-- R381: ENCLOSURE at an access: the episode aborts and the hart takes the exception. -/
def State.enclosure (s : State) (va : Nat) : State :=
  let s' := match s.h.epi with | some e => s.onMbx s.cur.n e.mbx fun m => m.abort 1 | none => s
  s'.hartTrap 24 va

/-! ## Translation (R364, R366, R367, log 7) -/

/-- What an address comes to: memory of the isle, an offset of the control window, an exception, or an access fault that a poisoned
page-table entry gives. -/
inductive Reach where
  | pa (a : Nat)
  | ctl (off : Nat)
  | stop (cause : Nat)
  | bad (cause slot : Nat)
  deriving DecidableEq, Repr

/-- Where the control window stands in the physical address space (R366). -/
def ctlBase : Nat := 0x3FF * 2 ^ 46

/-- The physical address of a reach. -/
def Reach.addr : Reach → Nat
  | .pa a => a
  | .ctl o => ctlBase + o
  | .stop _ => 0
  | .bad .. => 0

/-- R366: a physical address as a hart reaches it. -/
def physReach (n : Nat) (md : Mode) (a : Nat) (af : Nat) : Reach :=
  if paExists a ∧ paIsle a = n then .pa a
  else if paSpace a = 0x3FF ∧ a % 2 ^ 46 < 65536 ∧ md ≠ .u then .ctl (a % 65536)
  else .stop af

/-- The permissions of a leaf for an access. -/
def Leaf.hartOk (l : Leaf) (h : Hart) (need : Nat) : Bool :=
  let mode : Bool := if h.mode = Mode.u then l.u else !l.u || (h.sum && need != 4)
  mode && l.a &&
  (!bitN need 0 || l.r || (h.mxr && l.x)) && (!bitN need 1 || (l.w && l.d)) && (!bitN need 2 || l.x)

/-- The units of the line of an address that are poisoned at its bank or controller. -/
def State.linePois (s : State) (pa : Nat) : Bool := s.anyPois (skLine pa) 64

/-- R423: a read of the address is an access fault: its line is not cached and is poisoned. -/
def State.hartPois (s : State) (n pa : Nat) : Bool := ((s.isle n).skFind pa).isNone && s.linePois pa

/-- R366: the page-table walker of a hart may read an entry: memory of its isle that S-mode may read. -/
def slotOk (n : Nat) (h : Hart) (slot : Nat) : Bool := paExists slot && paIsle slot == n && h.pmpOk .s slot 8 1

/-- Why a walk ends without a leaf: a page fault, an access fault, or one on a poisoned entry (R367). -/
inductive WalkStop where
  | page
  | access
  | pois (slot : Nat)
  deriving DecidableEq, Repr

/-- The reach of a walk that ends without a leaf. -/
def WalkStop.reach (w : WalkStop) (pf af : Nat) : Reach :=
  match w with
  | .page => .stop pf
  | .access => .stop af
  | .pois a => .bad af a

/-- The levels of a hart's Sv48 walk, which reads entries as the hart would (log 11). -/
def State.hartWalk (s : State) (n : Nat) (h : Hart) (va : Nat) : Nat → Nat → Except WalkStop Leaf
  | lvl, table =>
    let slot := table + 8 * fld va (12 + 9 * lvl) 9
    if !slotOk n h slot then .error .access
    else if s.hartPois n slot then .error (.pois slot)
    else
      let pte := s.skNum n slot 8
      if !bitN pte 0 || (!bitN pte 1 && bitN pte 2) then .error .page
      else if bitN pte 1 || bitN pte 3 then (leafAt lvl va pte slot).elim (.error .page) .ok
      else
        match lvl with
        | 0 => .error .page
        | l + 1 => s.hartWalk n h va l (fld pte 10 44 * 4096)

/-- R191, R270: a leaf names a reserved space, isle or offset: it is non-present. -/
def Leaf.reserved (l : Leaf) : Bool :=
  let sp := paSpace l.pa
  (sp == 0 && !paExists l.pa) || (5 ≤ sp && sp < 0x100) || (0x140 ≤ sp && sp < 0x3FF)

/-- An address translated: bare in M-mode and without Sv48. `pf` and `af` are the causes of a page fault and an access fault. -/
def State.reach (s : State) (n : Nat) (h : Hart) (va need pf af : Nat) : Reach :=
  if h.mode = .m ∨ h.satp.toNat / 2 ^ 60 ≠ 9 then
    if va < 2 ^ 56 then physReach n h.mode va af else .stop af
  else if !canonical va then .stop pf
  else
    match s.hartWalk n h (va % 2 ^ 48) 3 (h.satp.toNat % 2 ^ 44 * 4096) with
    | .error w => w.reach pf af
    | .ok l =>
      if l.reserved || !l.hartOk h need then .stop pf
      else if l.cmp then .stop 26
      else physReach n h.mode l.pa af

/-- The hart as its accesses are judged: data accesses follow mstatus.MPRV. -/
def Hart.judged (h : Hart) (need : Nat) : Hart := if need = 4 then h else { h with mode := h.dataMode }

/-- An address translated and its bytes admitted by physical memory protection. -/
def State.reachOk (s : State) (va len need pf af : Nat) : Reach :=
  let h := s.h.judged need
  match s.reach s.cur.n h va need pf af with
  | .stop c => .stop c
  | .bad c a => .bad c a
  | r => if h.pmpOk h.mode r.addr len need then r else .stop af

/-! ## The caches (R240, R423, R424, log 11) -/

/-- A line filled from its bank or controller. -/
def State.skFill (s : State) (n pa payer : Nat) : State :=
  match (s.isle n).skFind pa with
  | some _ => s
  | none =>
    let a := skLine pa
    ((s.scTouch a false).chargeMem payer a 64).onIsle n fun i => { i with sk := i.sk ++ [⟨a, s.bytes a 64, false⟩] }

/-- Bytes of one cached line replaced; the line is dirty. -/
def SkLine.put (l : SkLine) (o : Nat) (bs : List Byte) : SkLine :=
  { l with dirty := true, data := (l.data.take o) ++ bs ++ l.data.drop (o + bs.length) }

/-- A hart without its reservation on a line. -/
def Hart.loseResv (h : Hart) (line : Nat) : Hart := if h.resv = some line then { h with resv := none } else h

/-- The reservations of the other harts on a line end. -/
def State.dropResv (s : State) (n e pa : Nat) : State :=
  (List.range 16).foldl (fun s j => if j = e then s else s.onHart n j fun h => h.loseResv (skLine pa)) s

/-- A store of bytes within one line. A line that is poisoned is not filled; the store goes to its bank (R424). -/
def State.hartWrite (s : State) (n e pa : Nat) (bs : List Byte) : State :=
  let payer := ((s.isle n).hart e).payer
  let s := s.dropResv n e pa
  if s.hartPois n pa then s.write payer pa bs
  else (s.skFill n pa payer).onIsle n fun i =>
    { i with sk := i.sk.map fun l => if l.pa = skLine pa then l.put (pa % 64) bs else l }

/-! ## Accesses of the hart of the step -/

/-- R367, R407: an access fault on a poisoned line. -/
def State.poisonTrap (s : State) (cause va pa : Nat) : State := (s.hwErr s.cur.n s.cur.e pa).hartTrap cause va

/-- The data trigger that an access matches: of loads for one that reads, of stores for one that writes. -/
def Hart.dataTrig (h : Hart) (need va : Nat) : Option Nat :=
  match (if bitN need 0 then h.trigAt 0 va else none) with
  | some i => some i
  | none => if bitN need 1 then h.trigAt 1 va else none

/-- An access of `len` bytes: triggers, alignment, enclosure, translation and protection. -/
def State.hartAccess (s : State) (va len need mis pf af : Nat) : Except State Reach :=
  match s.h.dataTrig need va with
  | some i => .error (s.trigger va i)
  | none =>
    if va % len ≠ 0 then .error (s.hartTrap mis va)
    else if !s.h.enclosed va len need then .error (s.enclosure va)
    else match s.reachOk va len need pf af with
      | .stop c => .error (s.hartTrap c va)
      | .bad c a => .error (s.poisonTrap c va a)
      | r => .ok r

/-- Bytes of the control window, in accesses of 8 bytes at most (R366, R500). -/
def State.ctlRead (s : State) (o len : Nat) : List Byte × State :=
  (List.range ((len + 7) / 8)).foldl (fun (r : List Byte × State) i =>
    let k := min 8 (len - 8 * i)
    let (v, t) := r.2.regRead (.hart r.2.cur.e) r.2.cur.n (o + 8 * i) k
    (r.1 ++ leBytes k v, t)) ([], s)

/-- Bytes written to the control window, in accesses of 8 bytes at most. -/
def State.ctlWrite (s : State) (o : Nat) (bs : List Byte) : State :=
  (List.range ((bs.length + 7) / 8)).foldl (fun (s : State) i =>
    let b := (bs.drop (8 * i)).take 8
    s.regWrite (.hart s.cur.e) s.cur.n (o + 8 * i) b.length (ofLe b)) s

/-- The bytes at a reach as a read of the hart finds them, its line filled; an access fault of cause `af` on poison. -/
def State.hartTake (s : State) (r : Reach) (va len af : Nat) : Except State (List Byte × State) :=
  match r with
  | .pa a =>
    if s.hartPois s.cur.n a then .error (s.poisonTrap af va a)
    else
      let s := s.skFill s.cur.n a s.h.payer
      .ok ((List.range len).map fun i => s.skByte s.cur.n (a + i), s)
  | .ctl o => .ok (s.ctlRead o len)
  | .stop c => .error (s.hartTrap c va)
  | .bad c a => .error (s.poisonTrap c va a)

/-- Bytes stored at a reach. -/
def State.hartPut (s : State) (r : Reach) (bs : List Byte) : State :=
  match r with
  | .pa a => s.hartWrite s.cur.n s.cur.e a bs
  | .ctl o => (s.dropResv s.cur.n s.cur.e (ctlBase + o)).ctlWrite o bs
  | .stop _ => s
  | .bad .. => s

/-- A load of `len` bytes, 64 at most, naturally aligned. -/
def State.hartLoad (s : State) (va len : Nat) : Except State (List Byte × State) :=
  match s.hartAccess va len 1 4 13 5 with
  | .error t => .error t
  | .ok r => s.hartTake r va len 5

/-- A store of bytes, naturally aligned. -/
def State.hartStore (s : State) (va : Nat) (bs : List Byte) : Except State State :=
  match s.hartAccess va bs.length 2 6 15 7 with
  | .error t => .error t
  | .ok r => .ok (s.hartPut r bs)

/-! ## What stands before an instruction -/

/-- R372: a user-level trap for waiting records is due, a FUTEMPTY at the same boundary apart. -/
def State.trapDue (s : State) : Bool :=
  let h := s.h
  h.mode == .u && h.ie && h.uftvec != 0 && s.pend s.cur.n s.cur.e

/-- R379: the cycle budget is overrun, and the cycle in which it was is over, so that the abort comes first. -/
def Hart.cycOver (h : Hart) : Bool :=
  match h.epi with | some e => e.cycRun && e.cyc != 0 && decide (e.cyc.toNat + 1 < e.cycCnt) | none => false

/-- The hart executes: its isle runs, no debugger halts it, no FUTLD waits and no abort is due. -/
def State.hartUp (s : State) : Bool :=
  (s.isle s.cur.n).up && !s.h.halted && s.h.futld.isNone && !s.h.cycOver &&
  match s.h.epi with | some e => !s.rtOver s.cur.n e.mbx | none => true

/-- R381: the WATCHDOG exception that waits for the next U-mode instruction. -/
def Hart.wdDue (h : Hart) : Option Nat := if h.mode = .u then (match h.epi with | some e => e.wd | none => none) else none

/-- R381: WATCHDOG taken. -/
def State.watchdog (s : State) (c : Nat) : State :=
  (s.onH fun h => { h with epi := h.epi.map fun e => { e with wd := none } }).hartTrap 25 c

/-- An instruction of the hart of the step: nothing while it does not execute, the WATCHDOG that waits, or its effect. -/
def State.hartDo (s : State) (f : State → State) : Res :=
  if !s.hartUp then .next s
  else match s.h.wdDue with
    | some c => .next (s.watchdog c)
    | none => .next (f s)

/-- The same for an instruction other than FUTLD, which a user-level trap that is due precedes. -/
def State.hartRun (s : State) (f : State → State) : Res := if s.trapDue then .next s else s.hartDo f

/-- An illegal-instruction exception; stval holds the word (log 7). -/
def State.illegal (s : State) (w : Nat) : State := s.hartTrap 2 w

/-- The word of an instruction. -/
def wordOf (i : Instr) : Nat := match encode i with | some x => x.2 | none => 0

/-! ## Ordinary memory instructions (R364, R366, log 7) -/

/-- The value a load puts into its register; a single-precision value in an FP register is NaN-boxed. -/
def loadVal (rd len : Nat) (signed : Bool) (v : Nat) : W64 :=
  if 32 ≤ rd then (if len = 8 then BitVec.ofNat 64 v else BitVec.ofNat 64 (2 ^ 64 - 2 ^ (8 * len) + v))
  else if signed then BitVec.ofInt 64 (sextN (8 * len) v) else BitVec.ofNat 64 v

/-- The result of an AMO on `len` bytes. -/
def amoVal (k : AmoKind) (len a b : Nat) : Nat :=
  let m := 2 ^ (8 * len)
  let b := b % m
  let sg := sextN (8 * len)
  match k with
  | .swap => b
  | .add => (a + b) % m
  | .xor => a ^^^ b
  | .and => a &&& b
  | .or => a ||| b
  | .min => if sg a ≤ sg b then a else b
  | .max => if sg a ≤ sg b then b else a
  | .minu => min a b
  | .maxu => max a b

/-- An AMO: the old value to `rd`, the new one stored; a poisoned line is an access fault of the store. -/
def State.amo (s : State) (rd va len : Nat) (k : AmoKind) (v : W64) : State :=
  match s.hartAccess va len 3 6 15 7 with
  | .error t => t
  | .ok r =>
    match s.hartTake r va len 7 with
    | .error t => t
    | .ok (bs, s) =>
      let old := ofLe bs
      (s.hartPut r (leBytes len (amoVal k len old v.toNat))).hartDone rd (BitVec.ofInt 64 (sextN (8 * len) old))

/-- Load-reserved. -/
def State.loadReserved (s : State) (rd va len : Nat) : State :=
  match s.hartAccess va len 1 4 13 5 with
  | .error t => t
  | .ok r =>
    match s.hartTake r va len 5 with
    | .error t => t
    | .ok (bs, s) =>
      (s.onH fun h => { h with resv := some (skLine r.addr) }).hartDone rd (BitVec.ofInt 64 (sextN (8 * len) (ofLe bs)))

/-- Store-conditional: 0 and the store when the reservation of the line stands, else 1; the reservation ends. -/
def State.storeCond (s : State) (rd va len : Nat) (v : W64) : State :=
  match s.hartAccess va len 2 6 15 7 with
  | .error t => t
  | .ok r =>
    let ok := s.h.resv == some (skLine r.addr)
    let s := s.onH fun h => { h with resv := none }
    if ok then (s.hartPut r (leBytes len v.toNat)).hartDone rd 0 else s.hartDone rd 1

/-- A Zicbom operation on the block of an address: permitted where a load or a store is. -/
def State.cbo (s : State) (va : Nat) (f : Nat → State → State) : State :=
  let r := match s.reachOk va 1 1 15 7 with | .stop _ => s.reachOk va 1 2 15 7 | r => r
  match r with
  | .pa a => (f a s).hartNext
  | .ctl _ => s.hartNext
  | .stop c => s.hartTrap c va
  | .bad c a => s.poisonTrap c va a

/-- An ordinary memory instruction. -/
def State.hartOp (s : State) (op : HartOp) : State :=
  let n := s.cur.n
  match op with
  | .load rd va len sg => (match s.hartLoad va len with
    | .error t => t
    | .ok (bs, t) => t.hartDone rd (loadVal rd len sg (ofLe bs)))
  | .store va len v => (match s.hartStore va (leBytes len v.toNat) with
    | .error t => t
    | .ok t => t.hartNext)
  | .amo rd va len k v => s.amo rd va len k v
  | .lr rd va len => s.loadReserved rd va len
  | .sc rd va len v => s.storeCond rd va len v
  | .cboClean va => s.cbo va fun a s => s.skClean n (a / 64)
  | .cboFlush va => s.cbo va fun a s => s.skInv n a
  | .cboInval va => s.cbo va fun a s => s.skDrop n (skLine a) 64

/-- HART_LOAD_STORE (R366). -/
def execHartLoadStore (op : HartOp) (s : State) : Res := s.hartRun fun s => s.hartOp op

/-- SKERRY_ILLEGAL_INSTRUCTION (R54). -/
def execSkerryIllegalInstruction (w : BitVec 32) (s : State) : Res := s.hartRun fun s => s.illegal w.toNat

/-! ## CSR instructions (R364, R368, R371, R372, log 7) -/

/-- R372: a CSR instruction that writes a value to UFSTATUS retires. -/
def State.retire (s : State) (v : W64) : State :=
  let s := s.hartNext.onH fun h => h.setUfstatus v.toNat
  if tb v 3 then s.onH Hart.userRet else s

/-- UFSTATUS_RET (R372): a value written to UFSTATUS. -/
def execUfstatusRet (v : BitVec 64) (s : State) : Res := s.hartRun fun s => s.retire v

/-- The value that a CSR instruction writes. -/
def CsrOp.value (op : CsrOp) (old v : W64) : W64 :=
  match op with
  | .read => old
  | .write => v
  | .set => old ||| v
  | .clear => old &&& ~~~v

/-- A CSR instruction of `word` with its operand, on a CSR that may be accessed; a number that names none is an illegal instruction. -/
def State.csrInstr (s : State) (word num : Nat) (op : CsrOp) (v : W64) (rd : Nat) : State :=
  match (if s.h.csrOk num (op != .read) then s.csrRead num else none) with
  | none => s.illegal word
  | some old =>
    let o := BitVec.ofNat 64 old
    let new := op.value o v
    if op = .read then s.hartDone rd o
    else if num = 0x800 then (s.retire new).onH fun h => h.setReg rd o
    else (s.hartDone rd o).onH fun h => h.csrWrite false num new

/-! ## Fetching (R364, R367, R379) -/

/-- The halfwords of an instruction of `len` bytes at the pc: the word and the state with the lines filled, or the exception. -/
def State.hartFetch (s : State) (len : Nat) : Except State (Nat × State) :=
  let pc := s.h.pc.toNat
  if !s.h.enclosed pc len 4 then .error (s.enclosure pc)
  else
    (List.range (len / 2)).foldl (fun (r : Except State (Nat × State)) i =>
      match r with
      | .error t => .error t
      | .ok (w, s) =>
        let va := (pc + 2 * i) % 2 ^ 64
        match s.hartTake (s.reachOk va 2 4 12 1) va 2 1 with
        | .error t => .error t
        | .ok (bs, s) => .ok (w + ofLe bs * 2 ^ (16 * i), s)) (.ok (0, s))

end Sys2Proof.Machine
end

