-- ==== Sys2Proof/Machine/Skerry.lean ====
section
/-! DEFINITION. The thirteen skerry instructions, and the events of harts, mailboxes and episodes (R372 to R390). -/

namespace Sys2Proof.Machine

/-! ## Mailboxes (R382 to R385) -/

/-- R382, R383: the hart may use mailbox `b`: enabled, of its tenant, and in U-mode the open episode's. -/
def State.mbxPermit (s : State) (b : Nat) : Bool :=
  let m := (s.isle s.cur.n).mailbox b
  let h := s.h
  m.en && h.isTenant m.tenant && (h.mode != .u || match h.epi with | some e => e.mbx == b | none => false)

/-- R382, R383: the status that the first checks give, 0 when they pass. -/
def State.mbxStatus (s : State) (rs1 : W64) : Nat :=
  let b := rs1.toNat % 256
  if rs1.toNat / 256 ≠ 0 then 5
  else if !s.mbxPermit b then 2
  else if ((s.isle s.cur.n).mailbox b).aborted then 4
  else 0

/-- R381: abort records that wait take the free slots of the observation queue. -/
def Mbx.drainAbort (m : Mbx) : Mbx :=
  let k := 32 - m.obs.length
  { m with obs := m.obs ++ m.abortDue.take k, abortDue := m.abortDue.drop k }

/-- R383: the status of a message whose mailbox passed the first checks. -/
def Mbx.putStatus (m : Mbx) (l : Lanes) : Nat :=
  let w0 := (l.get 0).toNat
  if w0 / 2 ^ 18 ≠ 0 then 5
  else if !m.open_ || w0 % 2 ^ 16 != m.epi.toNat || l.get 1 != stepAfter m.ostep then 3
  else if 32 ≤ m.drainAbort.obs.length then 1
  else 0

/-- R383: an observation queued; the round-trip count starts. -/
def Mbx.queueObs (m : Mbx) (l : Lanes) (pt : Nat) : Mbx :=
  let m := m.drainAbort
  { m with obs := m.obs ++ [({ Token.blank with lanes := l } : Token).sealed], ostep := l.get 1, rtStart := some pt }

/-- R379: the cycle count of the hart that holds the episode of mailbox `b` started from 0, or stopped. -/
def State.cycCount (s : State) (b : Nat) (run : Bool) : State :=
  s.onHart s.cur.n ((s.isle s.cur.n).mailbox b).hart fun h =>
    { h with epi := h.epi.map fun e => if e.mbx = b then { e with cycRun := run, cycCnt := 0 } else e }

/-- R383: MBXPUT. -/
def State.mbxput (s : State) (rd rs1 rs2 : BitVec 5) : State :=
  let st := s.mbxStatus (s.h.reg rs1)
  let b := (s.h.reg rs1).toNat % 256
  if st ≠ 0 then s.hartDone rd.toNat (BitVec.ofNat 64 st)
  else
    match s.hartLoad (s.h.reg rs2).toNat 64 with
    | .error t => t
    | .ok (bs, s) =>
      let l := lanesOfBytes bs
      let st := ((s.isle s.cur.n).mailbox b).putStatus l
      if st ≠ 0 then s.hartDone rd.toNat (BitVec.ofNat 64 st)
      else ((s.onMbx s.cur.n b fun m => m.queueObs l s.pt).cycCount b false).hartDone rd.toNat 0

/-- MBXPUT (R383). -/
def execMbxput (rd rs1 rs2 : BitVec 5) (s : State) : Res := s.hartRun fun s => s.mbxput rd rs1 rs2

/-- R384: MBXGET. -/
def State.mbxget (s : State) (rd rs1 rs2 : BitVec 5) : State :=
  let st := s.mbxStatus (s.h.reg rs1)
  let b := (s.h.reg rs1).toNat % 256
  if st ≠ 0 then s.hartDone rd.toNat (BitVec.ofNat 64 st)
  else
    match ((s.isle s.cur.n).mailbox b).act with
    | [] => s.hartDone rd.toNat 1
    | l :: rest =>
      match s.hartStore (s.h.reg rs2).toNat (laneBytes l) with
      | .error t => t
      | .ok s => ((s.onMbx s.cur.n b fun m => { m with act := rest }).cycCount b true).hartDone rd.toNat 0

/-- MBXGET (R384). -/
def execMbxget (rd rs1 rs2 : BitVec 5) (s : State) : Res := s.hartRun fun s => s.mbxget rd rs1 rs2

/-- R385: what MBXPOLL shows. -/
def Mbx.poll (m : Mbx) : W64 :=
  BitVec.ofNat 64 (m.act.length % 64 + (32 - m.obs.length) * 2 ^ 8 + m.open_.toNat * 2 ^ 16 + m.aborted.toNat * 2 ^ 17 +
    m.cur.isSome.toNat * 2 ^ 18)

/-- MBXPOLL (R385). -/
def execMbxpoll (rd rs1 : BitVec 5) (s : State) : Res :=
  s.hartRun fun s =>
    let a := (s.h.reg rs1).toNat
    if a / 256 = 0 ∧ s.mbxPermit (a % 256) then s.hartDone rd.toNat ((s.isle s.cur.n).mailbox (a % 256)).poll
    else s.hartDone rd.toNat (BitVec.allOnes 64)

/-! ## FUTLD and FUTST (R380, R386) -/

/-- R386: where a FUTLD or FUTST goes: a granule of this isle's lagoon, or the exception. -/
def State.granuleOf (s : State) (va need mis pf af : Nat) : Except State Nat :=
  match s.hartAccess va 8 need mis pf af with
  | .error t => .error t
  | .ok (.pa a) => if paLagoon a then .ok a else .error (s.hartTrap af va)
  | .ok _ => .error (s.hartTrap af va)

/-- R380: FUTEMPTY is raised on an empty granule. -/
def Hart.raisesEmpty (h : Hart) : Bool := h.mode == .u && h.ie && h.uftvec != 0

/-- R380, R386: FUTLD at an address. -/
def State.futld (s : State) (rd va : Nat) : State :=
  match s.granuleOf va 1 4 13 5 with
  | .error t => t
  | .ok a =>
    if s.isFull a then
      if s.isPois a then s.poisonTrap 5 va a
      else (s.chargeMem s.h.payer a 8).hartDone rd (BitVec.ofNat 64 (s.num a 8))
    else if s.h.raisesEmpty then s.onH fun h => h.userTrap (BitVec.ofNat 64 (2 ^ 63 + 1)) h.pc (BitVec.ofNat 64 va)
    else s.onH fun h => { h with futld := some (rd, va) }

/-- R372, R380: a FUTLD at an address would raise FUTEMPTY. -/
def State.futEmpty (s : State) (va : Nat) : Bool :=
  s.h.raisesEmpty && match s.granuleOf va 1 4 13 5 with | .ok a => !s.isFull a | .error _ => false

/-- FUTLD (R380, R386). Its FUTEMPTY precedes a user-level trap that is due (R372). -/
def execFutld (rd rs1 : BitVec 5) (s : State) : Res :=
  let va := (s.h.reg rs1).toNat
  if s.trapDue && !s.futEmpty va then .next s else s.hartDo fun s => s.futld rd.toNat va

/-- FUTLD_WAKE (R380): the FUTLD of hart `cur.e` that waits looks at its granule again. -/
def execFutldWake (s : State) : Res :=
  match s.h.futld with
  | some (rd, va) => (s.onH fun h => { h with futld := none }).hartDo fun s => s.futld rd va
  | none => .next s

/-- FUTST (R386). -/
def execFutst (rs1 rs2 : BitVec 5) (s : State) : Res :=
  s.hartRun fun s =>
    match s.granuleOf (s.h.reg rs1).toNat 2 6 15 7 with
    | .error t => t
    | .ok a => ((s.dropResv s.cur.n s.cur.e a).writeFill s.h.payer a (leBytes 8 (s.h.reg rs2).toNat)).hartNext

/-! ## Episodes (R379, R387, R388) -/

/-- R379: an enclosure descriptor: its mailbox and windows, or none when it is malformed. -/
def enclosureOf (bs : List Byte) : Option (Nat × List (Nat × Nat × Nat)) :=
  let num := fun (o n : Nat) => ofLe ((bs.drop o).take n)
  let k := num 2 1
  let win := fun (w : Nat) => (num (0x10 + 16 * w) 8, num (0x18 + 16 * w) 4, num (0x1C + 16 * w) 1)
  let ok := fun (w : Nat) => let x := win w; x.2.1 != 0 && decide (1 ≤ x.2.2 ∧ x.2.2 < 8) && num (0x1D + 16 * w) 3 == 0
  if num 0 2 < 256 ∧ 1 ≤ k ∧ k ≤ 8 ∧ num 3 13 = 0 ∧ (List.range k).all ok then some (num 0 2, (List.range k).map win) else none

/-- The 144 bytes of a descriptor, read in pieces of 16. -/
def State.readDescriptor (s : State) (va : Nat) : Except State (List Byte × State) :=
  (List.range 9).foldl (fun r i =>
    match r with
    | .error t => .error t
    | .ok (bs, s) =>
      match s.hartLoad (va + 16 * i) 16 with
      | .error t => .error t
      | .ok (b, s) => .ok (bs ++ b, s)) (.ok ([], s))

/-- R387: the mailbox of a new episode. -/
def Mbx.begin (m : Mbx) (hart : Nat) (id : W16) : Mbx :=
  { m with open_ := true, hart := hart, epi := id, aborted := false, stale := false, ostep := 0xFFFFFFFF, astep := 0xFFFFFFFF,
           act := [], lastSer := none, handed := 0, acted := 0, rtStart := none }

/-- R387: EPIBEG. A binding that is to become current does so first (R377). -/
def State.epibeg (s0 : State) (rd : Nat) (va : Nat) (id : W64) : State :=
  let s := s0
  let done := fun (s : State) (st : Nat) => s.hartDone rd (BitVec.ofNat 64 st)
  if id.toNat / 2 ^ 16 ≠ 0 ∨ va % 16 ≠ 0 then done s 5
  else
    match s.readDescriptor va with
    | .error t => t
    | .ok (bs, s) =>
      match enclosureOf bs with
      | none => done s 5
      | some (b, wins) =>
        let m := (s.isle s.cur.n).mailbox b
        if !m.en || !s.h.isTenant m.tenant then done s 2
        else if m.open_ || s.h.epi.isSome then done s 6
        else if m.promoDue then s0
        else
          let id := id.setWidth 16
          done ((s.onMbx s.cur.n b fun m => m.begin s.cur.e id).onH fun h =>
            { h with epi := some ⟨b, id, wins, 0, false, 0, 0, none⟩ }) 0

/-- EPIBEG (R387). -/
def execEpibeg (rd rs1 rs2 : BitVec 5) (s : State) : Res :=
  s.hartRun fun s =>
    if s.h.mode = .u then s.illegal (wordOf (.epibeg rd rs1 rs2)) else s.epibeg rd.toNat (s.h.reg rs1).toNat (s.h.reg rs2)

/-- R388: EPIEND. -/
def State.epiend (s : State) (id : Nat) : State :=
  match s.h.epi with
  | some e =>
    if e.id.toNat = id then
      ((s.onMbx s.cur.n e.mbx fun m => { m with open_ := false, rtStart := none }).onH fun h => { h with epi := none }).hartNext
    else s.hartNext
  | none => s.hartNext

/-- EPIEND (R388). -/
def execEpiend (rs1 : BitVec 5) (s : State) : Res :=
  s.hartRun fun s =>
    if s.h.mode = .u then s.illegal (wordOf (.epiend rs1)) else s.epiend ((s.h.reg rs1).toNat % 2 ^ 16)

/-- R388: WDSET: both budgets set and both counts begun again. -/
def State.wdset (s : State) (cyc : W64) (rtt : Nat) : State :=
  match s.h.epi with
  | some e =>
    ((s.onMbx s.cur.n e.mbx fun m => { m with rtStart := m.rtStart.map fun _ => s.pt }).onH fun h =>
      { h with epi := some { e with cyc := cyc, rtt := rtt, cycCnt := 0 } }).hartNext
  | none => s.hartNext

/-- WDSET (R388). -/
def execWdset (rs1 rs2 : BitVec 5) (s : State) : Res :=
  s.hartRun fun s =>
    if s.h.mode = .u then s.illegal (wordOf (.wdset rs1 rs2)) else s.wdset (s.h.reg rs1) ((s.h.reg rs2).toNat % 2 ^ 32)

/-! ## Frozen segments (R382, R389, R390) -/

/-- R382: the mode may execute FRZRD, FRZWR and the segment commands. -/
def Hart.segOk (h : Hart) : Bool := h.mode != .u || h.sftHnd

/-- R404: SSTAT.FROZEN. -/
def Seg.frozen (g : Seg) : Bool := g.stopped && !g.cmd

/-- R389: the ring of the frozen segment that a scan address names. -/
def State.scanRing (s : State) (a : Nat) : Option Nat :=
  if a % 8 ≠ 0 then none
  else
    match s.ringOf s.cur.n (a / 2 ^ 32) with
    | some k => (match s.seg s.cur.n k with
      | some g => if s.h.isTenant g.tenant && g.frozen then some k else none
      | none => none)
    | none => none

/-- R389: FRZRD; the parts that the spec does not lay out show a free value (log 31). -/
def State.frzrd (s : State) (rd a : Nat) : State :=
  match s.scanRing a with
  | none => s.hartTrap 5 a
  | some k =>
    let r := (s.isle s.cur.n).ring k
    let g := s.segD s.cur.n k
    let o := a % 2 ^ 32
    if g.scanOpen o then s.takeFree.hartDone rd (Config.freeWord s.free)
    else s.hartDone rd (BitVec.ofNat 64 (g.scanRead r o))

/-- FRZRD (R389). -/
def execFrzrd (rd rs1 : BitVec 5) (s : State) : Res :=
  s.hartRun fun s =>
    if s.h.segOk then s.frzrd rd.toNat (s.h.reg rs1).toNat else s.illegal (wordOf (.frzrd rd rs1))

/-- R389: FRZWR. -/
def State.frzwr (s : State) (a v : Nat) : State :=
  match s.scanRing a with
  | none => s.hartTrap 7 a
  | some k => (s.onSeg s.cur.n k fun g => g.scanWrite (a % 2 ^ 32) v).hartNext

/-- FRZWR (R389). -/
def execFrzwr (rs1 rs2 : BitVec 5) (s : State) : Res :=
  s.hartRun fun s =>
    if s.h.segOk then s.frzwr (s.h.reg rs1).toNat (s.h.reg rs2).toNat else s.illegal (wordOf (.frzwr rs1 rs2))

/-- R390: a segment of the isle that stands off its ring. -/
def Isle.away (i : Isle) (id : Nat) : Option Seg :=
  (i.rings.flatMap fun r => (r.saved ++ r.scanned).map (·.1)).find? fun g => g.id.toNat == id

/-- R390: the status of a command for a segment, and the ring of one that is frozen. -/
def State.cmdStatus (s : State) (id : Nat) : Nat × Nat :=
  match s.ringOf s.cur.n id with
  | some k =>
    let g := s.segD s.cur.n k
    if !s.h.isTenant g.tenant then (2, k) else if g.frozen then (0, k) else (7, k)
  | none =>
    match (s.isle s.cur.n).away id with
    | some g => (if s.h.isTenant g.tenant then 7 else 2, 0)
    | none => (2, 0)

/-- R268, R390: the repair entries of a segment issue again, but those whose re-latch has not ended. -/
def State.reenterAll (s : State) (n k : Nat) : State :=
  (List.range (s.segD n k).live.stripes.length).foldl (fun s p =>
    [0, 1, 2, 3].foldl (fun s c =>
      let s' : State := { s with cur := { s.cur with n := n, k := k } }
      match nth none ((s'.segD n k).live.stripe p).wharf.rq c with
      | some e =>
        if e.cause = 1 ∧ laneNums.any (fun i => tb e.lmask i && s'.laneCause n k e.req i == 1) then s
        else { s'.reenter p c with cur := s.cur }
      | none => s) s) s

/-- The repair entries of a wharf made to wait for a re-latch. -/
def Wharf.awaitRelatch (w : Wharf) : Wharf := { w with rq := w.rq.map fun x => x.map fun e => { e with cause := 1 } }

/-- R390, R402: SEGRES accepted. Entries of a segment that is scanned out issue again once it is back. -/
def State.segres (s : State) (n k : Nat) : State :=
  let s := if (s.segD n k).sopend then
      s.onSeg n k fun g => g.onLive fun c => { c with stripes := c.stripes.map fun st => { st with wharf := st.wharf.awaitRelatch } }
    else s
  (s.resumeOrScan n k).reenterAll n k

/-- R268, R390: SEGRPL accepted: the repair entries go, SOPEND is cleared, and the replay runs as soon as what has issued
is complete. -/
def State.segrpl (s : State) (n k : Nat) : State :=
  let s := s.onSeg n k fun g =>
    { g with cmd := true, sopend := false
             live := { g.live with stripes := g.live.stripes.map fun st => { st with wharf := { st.wharf with rq := st.wharf.rq.map fun _ => none } } } }
  if (s.segD n k).settled then s.replaySeg n k else s

/-- A command of `s.cmdStatus`, with rd written when the harbour accepts it. -/
def State.segCommand (s : State) (rd id : Nat) (st : Nat → Nat) (f : State → Nat → State) : State :=
  let (c, k) := s.cmdStatus id
  let c := if c = 0 then st k else c
  let s := s.hartDone rd (BitVec.ofNat 64 c)
  if c = 0 then f s k else s

/-- SEGRES (R390, R402). -/
def execSegres (rd rs1 : BitVec 5) (s : State) : Res :=
  s.hartRun fun s =>
    if s.h.segOk then s.segCommand rd.toNat ((s.h.reg rs1).toNat % 2 ^ 32) (fun _ => 0) fun t k => t.segres s.cur.n k
    else s.illegal (wordOf (.segres rd rs1))

/-- SEGRPL (R390, R432). -/
def execSegrpl (rd rs1 : BitVec 5) (s : State) : Res :=
  s.hartRun fun s =>
    if s.h.segOk then
      s.segCommand rd.toNat ((s.h.reg rs1).toNat % 2 ^ 32)
        (fun k => if s.replayReaches s.cur.n (s.segD s.cur.n k) then 0 else 8) fun t k => t.segrpl s.cur.n k
    else s.illegal (wordOf (.segrpl rd rs1))

/-- SEGKILL (R390). -/
def execSegkill (rd rs1 : BitVec 5) (s : State) : Res :=
  s.hartRun fun s =>
    if s.h.segOk then s.segCommand rd.toNat ((s.h.reg rs1).toNat % 2 ^ 32) (fun _ => 0) fun t k => t.killSeg s.cur.n k
    else s.illegal (wordOf (.segkill rd rs1))

/-! ## Events of harts and mailboxes -/

/-- R372, R380: the next instruction of the hart is a FUTLD that raises FUTEMPTY. -/
def State.futEmptyNext (s : State) : Bool :=
  match s.hartFetch 4 with
  | .ok (w, s) => (match decodeSkerry w with
    | some (.futld _ rs1) => s.futEmpty (s.h.reg rs1).toNat
    | _ => false)
  | .error _ => false

/-- USER_TRAP (R372): hart `cur.e` at an instruction boundary. -/
def execUserTrap (s : State) : Res :=
  if s.trapDue && s.hartUp && !s.futEmptyNext then
    let h := s.h
    let va := ((s.isle s.cur.n).handler h.sftTenant).data + 0x40 + 64 * s.ringHead s.cur.n h.sftTenant
    .next (s.onH fun h => h.userTrap 0 h.pc (BitVec.ofNat 64 va))
  else .next s

/-- The permission that an access needs. -/
def AccessKind.need : AccessKind → Nat
  | .read => 1
  | .write => 2
  | .fetch => 4

/-- ENCLOSURE_ABORT (R381): a U-mode access of hart `cur.e` outside the windows of its episode. -/
def execEnclosureAbort (va len : Nat) (acc : AccessKind) (s : State) : Res :=
  s.hartRun fun s => if s.h.enclosed va len (AccessKind.need acc) then s else s.enclosure va

/-- R381: WATCHDOG raised, 0 for the cycle budget and 1 for the round-trip budget, whose count ends: the episode aborts, and
the exception waits for the next U-mode instruction. -/
def State.wdRaise (s : State) (n e which : Nat) : State :=
  match ((s.isle n).hart e).epi with
  | some x =>
    (s.onMbx n x.mbx fun m => { m.abort (2 + which) with rtStart := if which = 1 then none else m.rtStart }).onHart n e fun h =>
      { h with epi := some { x with cycRun := x.cycRun && which == 1, wd := some (x.wd.getD which) } }
  | none => s

/-- WATCHDOG_CYCLE_EXPIRE (R379): hart `cur.e`. -/
def execWatchdogCycleExpire (s : State) : Res :=
  if s.h.cycOver then .next (s.wdRaise s.cur.n s.cur.e 0) else .next s

/-- WATCHDOG_ROUNDTRIP_EXPIRE (R379): mailbox `cur.j`. -/
def execWatchdogRoundtripExpire (s : State) : Res :=
  if s.rtOver s.cur.n s.cur.j then .next (s.wdRaise s.cur.n ((s.isle s.cur.n).mailbox s.cur.j).hart 1) else .next s

/-- ABORT_RECORD_QUEUE (R381): mailbox `cur.j`. -/
def execAbortRecordQueue (s : State) : Res := .next (s.onMbx s.cur.n s.cur.j Mbx.drainAbort)

/-- BINDING_PROMOTE (R377): mailbox `cur.j`; the old binding is released. -/
def execBindingPromote (s : State) : Res :=
  let n := s.cur.n
  let b := s.cur.j
  let m := (s.isle n).mailbox b
  match m.next with
  | some x =>
    if m.mayPromote then
      let s := match m.cur with | some y => s.releaseBinding n y.1 | none => s
      .next (s.onMbx n b fun m => { m with cur := some x, next := none, ser := BitVec.ofNat 32 x.2, handed := 0, acted := 0 })
    else .next s
  | none => .next s

end Sys2Proof.Machine
end

