-- ==== Sys2Proof/Machine/Boot.lean ====
section
/-! DEFINITION. Boot, the reset of one isle, power and temperature, and the links (R289, R480 to R482, R486, R488, R489, R495,
R497, R499). -/

namespace Sys2Proof.Machine

/-! ## Boot (R488) -/

/-- R13: a ring after its self-test: 0 stripes, or 24 to 32. -/
def ringTested (stripes spared : Nat) : Ring :=
  { Ring.reset with stripes := if stripes < 24 then 0 else min 32 stripes, spared := spared % 64 }

/-- R488, R489: the digests that boot extends, in their order: MR0 to MR3, and on isle 0 up to MR`top`. -/
def Isle.measure (i : Isle) (top : Nat) (ds : List (Nat × List Byte)) : Isle :=
  ds.foldl (fun i d =>
    if d.1 ≤ 3 ∨ (d.1 ≤ top ∧ i.no = 0) then { i with mr := upd (fun m => sha3 (m ++ d.2)) i.mr d.1 } else i) i

/-- R488: an isle after its self-test and its firmware check; it is released when both pass. Step 3, which extends MR5, is of the boot of
the panel: `top` is 5 there and 4 in the reset of an isle alone. -/
def isleBooted (n top : Nat) (b : IsleBoot) : Isle :=
  let i := Isle.reset n
  if b.passes && b.imageOk then
    { i.measure top b.digests with
      up := true, tested := true
      rings := [0, 1, 2, 3, 4, 5].map fun k => ringTested (nth 0 b.stripes k) (nth 0 b.spared k) }
  else i

/-- An isle that boot does not mention stays in reset. -/
def IsleBoot.failed : IsleBoot := ⟨false, false, [], [], []⟩

/-- R288, R289: a view as boot forms it. -/
def Memb.first (ms : List Member) : Memb := { Memb.none with num := 1, members := ms, vmax := 1, acked := 1 }

/-- R480, R482: the ports after boot: the bridges that are trained. -/
def bootPorts (bridges : List Nat) : List LinkPort :=
  (List.range 16).map fun p => ⟨decide (p < 4) && bridges.contains p, decide (p < 4) && bridges.contains p, 0,
    if p < 4 ∧ bridges.contains p then 16 else 0, 0, 0, 0⟩

/-- R495: memory that is not on the panel. -/
def offPanel (m : List Host.Cell) : List Host.Cell := m.filter fun c => paSpace c.1 != 0

/-- R495: everything on the panel lost and every isle held; `pt` and the views with it. -/
def State.dark (s : State) : State :=
  { State.reset with
    mem := offPanel s.mem, ptRoot := s.ptRoot, irqs := s.irqs, rsp := s.rsp, spdmOut := s.spdmOut, free := s.free, cur := s.cur,
    agenda := s.agenda }

/-- R488: the panel after a boot. -/
def State.booted (s : State) (b : BootInfo) : State :=
  let isles := (List.range 40).map fun n => isleBooted n 5 (nth IsleBoot.failed b.isles n)
  let ms : List Member := ((List.range 40).filter fun n => (nth default isles n).up).map fun n => (b.panel % 64, n)
  let view := fun (i : Isle) => if i.up then { i with pview := Memb.first ms, sview := Memb.first ms } else i
  { s.dark with
    powered := true, panel := b.panel % 64, roots := b.roots, ports := bootPorts b.bridges, isles := isles.map view }

/-- BOOT (R488): at power-up, when a bridge releases the panel. -/
def execBoot (b : BootInfo) (s : State) : Res := if b.powered ∧ !s.powered then .next (s.booted b) else .next s

/-! ## One isle (R307, R488, R495, R497) -/

/-- The state of isle `n` lost with its memory: its crossings end at their other ends. -/
def State.loseIsle (s : State) (n : Nat) : State :=
  let s := (List.range 6).foldl (fun s k => s.endSeg n k) s
  let mine := fun (a : Nat) => paPanel a && paIsle a == n
  { s with
    mem := s.mem.filter fun c => !mine c.1
    full := s.full.filter fun g => !mine (8 * g)
    pois := s.pois.filter fun u => !mine u
    sc := s.sc.filter fun l => !mine (l.1 * 64)
    cb := s.cb.filter fun l => !mine (l.1 * 64) }

/-- R11: a ring after its isle's reset alone; its usable stripes do not rise without a module reset. -/
def Ring.noMore (r old : Ring) : Ring := { r with stripes := min r.stripes old.stripes }

/-- An isle after a reset alone, bounded by what its rings had once their first self-test had set RINGCAP. -/
def Isle.noMore (i old : Isle) : Isle :=
  if old.tested then { i with tested := true, rings := (List.range 6).map fun k => (i.ring k).noMore (old.ring k) } else i

/-- R497: an isle held in reset. The counts of its rings stay as a bound for its next self-test. -/
def State.holdIsle (s : State) (n : Nat) : State :=
  (s.loseIsle n).onIsle n fun old =>
    { Isle.reset n with tested := old.tested, rings := (List.range 6).map fun k => { Ring.reset with stripes := (old.ring k).stripes } }

/-- R488: a membership after the reset of the isle alone: view number 0, no members, VMAX 0. -/
def Memb.afterReset : Memb := { Memb.none with num := 0, vmax := 0, st := .isolated, sinceReset := true }

/-- ISLE_RESET (R488): isle `cur.n` reset alone, tested and released. -/
def execIsleReset (b : IsleBoot) (s : State) : Res :=
  let n := s.cur.n
  if s.powered then
    .next ((s.loseIsle n).onIsle n fun old =>
      { (isleBooted n 4 b).noMore old with pview := Memb.afterReset, sview := Memb.afterReset })
  else .next s

/-! ## Power and temperature (R495, R497) -/

/-- POWER_LOSS (R495). -/
def execPowerLoss (s : State) : Res := .next s.dark

/-- THERMAL_THROTTLE (R497): isle `cur.n`. -/
def execThermalThrottle (s : State) : Res :=
  if (s.isle s.cur.n).up then .next (s.onIsle s.cur.n fun i => { i with throt := true }) else .next s

/-- THROT_CLEAR (R497): isle `cur.n`. -/
def execThrotClear (s : State) : Res := .next (s.onIsle s.cur.n fun i => { i with throt := false })

/-- R497, R302: the fatal error report of an isle, to the other members of both its views. -/
def State.fatalReport (s : State) (n : Nat) : State :=
  [false, true].foldl (fun s sys =>
    ((s.memb n sys).members.filter (· != s.member n)).foldl (fun s x => s.membSend n sys x .fatal) s) s

/-- THERMAL_TRIP (R497): isle `cur.n` at 110 degrees. -/
def execThermalTrip (s : State) : Res :=
  let n := s.cur.n
  if (s.isle n).up then .next ((s.fatalReport n).holdIsle n) else .next s

/-! ## Links (R480 to R482, R499) -/

/-- R480: the isle that a port serves. -/
def portIsle (p : Nat) : Nat := nth 0 [0, 1, 2, 3, 36, 37, 38, 39, 5, 15, 25, 35, 4, 14, 24, 34] p

def State.onPort (s : State) (p : Nat) (f : LinkPort → LinkPort) : State := { s with ports := upd f s.ports p }

/-- LINK_PORT_UP (R480 to R482, R499): port `cur.k` trains on at least twelve lanes; only ports 0 to 3 may face a bridge. -/
def execLinkPortUp (lanes : Nat) (br : Bool) (peer : Nat) (s : State) : Res :=
  if s.powered ∧ 12 ≤ lanes ∧ lanes ≤ 16 then
    .next (s.onPort s.cur.k fun p => { p with up := true, bridge := br && decide (s.cur.k < 4), peer := peer % 64, lanes := lanes })
  else .next s

/-- LINK_PORT_DOWN (R481, R486, R499): port `cur.k`; how many of its lanes still work the spec does not say (log 12). -/
def execLinkPortDown (s : State) : Res :=
  let k := s.cur.k
  if (s.port k).up then
    let left := (Config.freeWord s.free).toNat % 12
    .next ((s.takeFree.onPort k fun p => { p with up := false, lanes := left }).postErr (portIsle k) 8 0 0 k)
  else .next s

/-- R481: a flit with its check right enters the panel's traffic when a member here is meant; one with its check wrong is
dropped, and its sender counts the retransmission. -/
def State.flitIn (s : State) (k : Nat) (crcOk : Bool) (f : Flit) : State :=
  if crcOk then (if f.dst.1 = s.panel ∧ f.src.1 ≠ s.panel then s.postFlit f else s)
  else if f.src.1 = s.panel then s.onPort k fun p => { p with retry := BitVec.ofNat 32 (satAdd (2 ^ 32 - 1) p.retry.toNat 1) }
  else s

/-- FLIT_RECEIVE (R481): a flit at the receiver of the link of port `cur.k`. -/
def execFlitReceive (crcOk : Bool) (f : Flit) (s : State) : Res :=
  if (s.port s.cur.k).up then .next (s.flitIn s.cur.k crcOk f) else .next s

end Sys2Proof.Machine
end

