-- ==== Sys2Proof/Machine/Float.lean ====
section
/-! DEFINITION. The floating-point instructions and conversions, majors 0x3F to 0x5C (R145 to R157). -/

namespace Sys2Proof.Machine

/-- FADD (R146). -/
def execFadd (t : BitVec 6) (o : FmtABM) (s : State) : Res :=
  .next (s.fpAB t o 0 true f32Add)

/-- FSUB (R146). -/
def execFsub (t : BitVec 6) (o : FmtABM) (s : State) : Res :=
  .next (s.fpAB t o 0 true f32Sub)

/-- FMUL (R146). -/
def execFmul (t : BitVec 6) (o : FmtABM) (s : State) : Res :=
  .next (s.fpAB t o 0 true f32Mul)

/-- FFMA (R146). -/
def execFfma (t : BitVec 6) (o : FmtVBM) (s : State) : Res :=
  .next (s.fpVAB t o f32Fma)

/-- FFMS (R146). -/
def execFfms (t : BitVec 6) (o : FmtVBM) (s : State) : Res :=
  .next (s.fpVAB t o f32Fms)

/-- FNMA (R146). -/
def execFnma (t : BitVec 6) (o : FmtVBM) (s : State) : Res :=
  .next (s.fpVAB t o f32Fnma)

/-- FMIN (R147). -/
def execFmin (t : BitVec 6) (o : FmtABM) (s : State) : Res :=
  .next (s.fpAB t o 0 false fun rm => f32MinMax false rm.ftz)

/-- FMAX (R147). -/
def execFmax (t : BitVec 6) (o : FmtABM) (s : State) : Res :=
  .next (s.fpAB t o 0 false fun rm => f32MinMax true rm.ftz)

/-- FABS (R148). -/
def execFabs (t : BitVec 6) (o : FmtAM) (s : State) : Res :=
  .next (s.vecA t o 0 fun a => Lanes.ofFn fun k => a.get k &&& 0x7FFFFFFF)

/-- FNEG (R148). -/
def execFneg (t : BitVec 6) (o : FmtAM) (s : State) : Res :=
  .next (s.vecA t o 0 fun a => Lanes.ofFn fun k => a.get k ^^^ 0x80000000)

/-- FCMPEQ (R149). -/
def execFcmpeq (t : BitVec 6) (o : FmtPB) (s : State) : Res :=
  .next (s.fcmpAB t o f32CmpEq)

/-- FCMPLT (R149). -/
def execFcmplt (t : BitVec 6) (o : FmtPB) (s : State) : Res :=
  .next (s.fcmpAB t o f32CmpLt)

/-- FCMPLE (R149). -/
def execFcmple (t : BitVec 6) (o : FmtPB) (s : State) : Res :=
  .next (s.fcmpAB t o f32CmpLe)

/-- FCMPUN (R149). -/
def execFcmpun (t : BitVec 6) (o : FmtPB) (s : State) : Res :=
  .next (s.fcmpAB t o f32CmpUn)

/-- FDIV (R146, R157). -/
def execFdiv (t : BitVec 6) (o : FmtABM) (s : State) : Res :=
  .next (s.fpAB t o 7 true f32Div)

/-- FSQRT (R146, R157). -/
def execFsqrt (t : BitVec 6) (o : FmtAM) (s : State) : Res :=
  .next (s.fpA t o 7 true f32Sqrt)

/-- FRCP (R146, R157). -/
def execFrcp (t : BitVec 6) (o : FmtAM) (s : State) : Res :=
  .next (s.fpA t o 7 true f32Rcp)

/-- FRSQ (R146, R157). -/
def execFrsq (t : BitVec 6) (o : FmtAM) (s : State) : Res :=
  .next (s.fpA t o 7 true f32Rsq)

/-- FEXP2 (R146, R157). -/
def execFexp2 (t : BitVec 6) (o : FmtAM) (s : State) : Res :=
  .next (s.fpA t o 3 true f32Exp2)

/-- FLOG2 (R146, R157). -/
def execFlog2 (t : BitVec 6) (o : FmtAM) (s : State) : Res :=
  .next (s.fpA t o 3 true f32Log2)

/-- FTANH (R146, R157). -/
def execFtanh (t : BitVec 6) (o : FmtAM) (s : State) : Res :=
  .next (s.fpA t o 5 true f32Tanh)

/-- FSIGM (R146, R157). -/
def execFsigm (t : BitVec 6) (o : FmtAM) (s : State) : Res :=
  .next (s.fpA t o 5 true f32Sigm)

/-- FCLASS (R150). -/
def execFclass (t : BitVec 6) (o : FmtAM) (s : State) : Res :=
  .next (s.vecA t o 0 fun a => Lanes.ofFn fun k => BitVec.ofNat 32 (f32Class (a.get k).toNat))

/-- FRND (R151). -/
def execFrnd (t : BitVec 6) (o : FmtAM) (s : State) : Res :=
  .next (s.fpA t o 0 true f32Rnd)

/-- FSCALE (R146). -/
def execFscale (t : BitVec 6) (o : FmtABM) (s : State) : Res :=
  .next (s.fpAB t o 0 true f32Scale)

/-- R139: whether a conversion passes its values through a rounding in the element's mode. -/
def cvtRounds (from_ to_ : Nat) : Bool := (from_ == 1 && to_ != 9) || from_ == 13 || from_ == 14

/-- CVT (R152). -/
def execCvt (t : BitVec 6) (o : FmtCvt) (s : State) : Res :=
  .next (s.fpA t ⟨o.d, o.a, false, 0⟩ 0 (cvtRounds o.from_.toNat o.to_.toNat) fun rm w =>
    cvtLane rm o.from_.toNat o.to_.toNat o.sat w)

/-- CVTMX (R153, R157): value `k` goes to place `k` of the packed token, and every lane is written. -/
def execCvtmx (t : BitVec 6) (o : FmtCvtmx) (s : State) : Res :=
  .next (s.fireV 1 t [rd o.a false, rd o.b false] [o.d.toNat] fun vs s' =>
    let to_ := o.to_.toNat + 4
    let x := ((nth default vs 1).lanes.get 0).toNat % 256
    let q := fun k => cvtmxLane (s.rmode k) to_ o.sat x ((nth default vs 0).lanes.get k).toNat
    let w := typeWidth to_
    let p := anyPoison vs
    let fl := fun k => (q k).2
    let r := resultOf vs (packLanes w fun i => if i < 16 then (q i).1 else 0)
    ((s'.arith p 0xFFFF fl).putD o.d.toNat { r with pois := r.pois || s'.traps p 0xFFFF fl } 0).srAdvance true)

/-- UNPMX (R154, R157). -/
def execUnpmx (t : BitVec 6) (o : FmtUnpmx) (s : State) : Res :=
  .next (s.fireV 1 t [rd o.a false, rd o.b false] [o.d.toNat] fun vs s' =>
    let from_ := o.from_.toNat + 4
    let x := ((nth default vs 1).lanes.get 0).toNat % 256
    (s'.putF o.d.toNat 0 vs fun k =>
      unpmxLane (s.rmode k) from_ x (packedGet (typeWidth from_) (nth default vs 0).lanes k)).srAdvance true)

/-- FPACK (R155): D is read and written. -/
def execFpack (t : BitVec 6) (o : FmtFpack) (s : State) : Res :=
  .next (s.fire t [rd o.a false, rdV o.d] [] fun vs s' =>
    (s'.putF o.d.toNat 0 vs fun k =>
      let r := fromFp32 (s.rmode k) o.to_.toNat true ((nth default vs 0).lanes.get k).toNat
      (putPart (typeWidth o.to_.toNat) o.part.toNat ((nth default vs 1).lanes.get k).toNat r.1, r.2)).srAdvance
        (cvtRounds 1 o.to_.toNat))

/-- FUNPK (R156). -/
def execFunpk (t : BitVec 6) (o : FmtFunpk) (s : State) : Res :=
  .next (s.fpA t ⟨o.d, o.a, false, 0⟩ 0 false fun rm w =>
    toFp32 rm o.from_.toNat (w / 2 ^ (typeWidth o.from_.toNat * o.part.toNat)))

end Sys2Proof.Machine
end

