-- ==== Sys2Proof/Machine/Spdm.lean ====
section
/-! DEFINITION. The lighthouse's SPDM responder and the accounting counters (R490 to R493; log 22). A request comes over
connection `cur.k`; a session is `cur.j`. -/

namespace Sys2Proof.Machine

/-! ## Connections -/

def State.conn (s : State) : Spdm := nth ⟨false, false, false, []⟩ s.spdm s.cur.k
def State.onConn (s : State) (f : Spdm → Spdm) : State := { s with spdm := upd f s.spdm s.cur.k }
def State.answer (s : State) (r : SpdmRsp) : State := { s with spdmOut := some r }

/-- R488, R490: the responder answers once the panel has booted, on four connections. -/
def State.spdmDo (s : State) (f : State → State) : Res := if s.powered ∧ s.cur.k < 4 then .next (f s) else .next s

/-- A request that needs the connection's algorithms agreed; before that it is unexpected (log 22). -/
def State.spdmAgreed (s : State) (f : State → State) : Res := s.spdmDo fun s => if s.conn.algs then f s else s.answer (.error 4)

/-- GET_VERSION (R490): the connection begins anew. -/
def execGetVersion (s : State) : Res := s.spdmDo fun s => (s.onConn fun _ => ⟨true, false, false, []⟩).answer .version

/-- GET_CAPABILITIES (R490). -/
def execGetCapabilities (s : State) : Res :=
  s.spdmDo fun s => if s.conn.version then (s.onConn fun c => { c with caps := true }).answer .capabilities else s.answer (.error 4)

/-- NEGOTIATE_ALGORITHMS (R490): `ok` says that the requester offers those of the responder. -/
def execNegotiateAlgorithms (ok : Bool) (s : State) : Res :=
  s.spdmDo fun s => if s.conn.caps then (s.onConn fun c => { c with algs := ok }).answer (.algorithms ok) else s.answer (.error 4)

/-- GET_DIGESTS (R490): the digest of the chain in slot 0, whose bytes the spec does not give. -/
def execGetDigests (s : State) : Res := s.spdmAgreed fun s => s.takeFree.answer (.digests (Config.freeBytes s.free))

/-- GET_CERTIFICATE (R490): the chain stands in slot 0; its bytes are free. -/
def execGetCertificate (slot : Nat) (off len : Nat) (s : State) : Res :=
  s.spdmAgreed fun s =>
    if slot = 0 then s.takeFree.answer (.certificate (((Config.freeBytes s.free).drop off).take len)) else s.answer (.error 1)

/-- CHALLENGE (R490): a signature, whose bytes are free. -/
def execChallenge (s : State) : Res := s.spdmAgreed fun s => s.takeFree.answer (.challengeAuth (Config.freeBytes s.free))

/-- R491: the measurement blocks: MR0 to MR7 of each isle that is not held, and the digest over them. -/
def State.measurements (s : State) : List (Nat × List Byte) :=
  let bs := (s.isles.filter (·.up)).map fun i => (i.no + 1, i.mr.flatMap id)
  bs ++ [(41, sha3 (bs.flatMap (·.2)))]

/-- GET_MEASUREMENTS (R491). -/
def execGetMeasurements (s : State) : Res := s.spdmAgreed fun s => s.answer (.measurements s.measurements)

/-- R490: the least session number that no connection uses. -/
def State.freeSession (s : State) : Option Nat :=
  (List.range 4).find? fun x => s.spdm.all fun c => c.sess.all fun y => y.1 != x

/-- KEY_EXCHANGE (R490): opens one of the four sessions; with none left the request is refused (log 22). -/
def execKeyExchange (s : State) : Res :=
  s.spdmAgreed fun s =>
    match s.freeSession with
    | some x => (s.takeFree.onConn fun c => { c with sess := c.sess ++ [(x, false, none)] }).answer (.keyExchange x (Config.freeBytes s.free))
    | none => s.answer (.error 5)

def Spdm.session (c : Spdm) (x : Nat) : Option (Bool × Option Nat) := lookupN x c.sess
def Spdm.close (c : Spdm) (x : Nat) : Spdm := { c with sess := c.sess.filter fun y => y.1 != x }

/-- FINISH (R490): completes session `cur.j`; `sig` says that its proofs hold, `both` that the requester authenticated with a
chain of root `root`. Proofs that do not hold end the session (log 22). -/
def execFinish (sig both : Bool) (root : Nat) (s : State) : Res :=
  s.spdmAgreed fun s =>
    match s.conn.session s.cur.j with
    | some (false, _) =>
      if sig then
        (s.onConn fun c => { c with sess := insertN s.cur.j (true, if both then some root else none) c.sess }).answer .finish
      else (s.onConn fun c => c.close s.cur.j).answer (.error 6)
    | _ => s.answer (.error 4)

/-- END_SESSION (R490): session `cur.j`. -/
def execEndSession (s : State) : Res :=
  s.spdmAgreed fun s =>
    match s.conn.session s.cur.j with
    | some (true, _) => (s.onConn fun c => c.close s.cur.j).answer .endSession
    | _ => s.answer (.error 4)

/-- SPDM_UNSUPPORTED_REQUEST (R490). -/
def execSpdmUnsupportedRequest (_code : Nat) (s : State) : Res := s.spdmDo fun s => s.answer (.error 7)

/-! ## Accounting (R493) -/

/-- R493: ACCRESET is accepted in session `cur.j`: complete, with a root on the operator list, and T far enough ahead. -/
def State.accOk (s : State) (t : Nat) : Bool :=
  decide (s.pt + 100000 ≤ t) && match s.conn.session s.cur.j with | some (true, some r) => s.roots.contains r | _ => false

/-- ACCRESET (R493). -/
def execAccreset (mask : BitVec 64) (t : Nat) (s : State) : Res :=
  s.spdmDo fun s =>
    if s.accOk t then { s with accReset := s.accReset ++ [(mask.toNat, t, s.cur.k)] } else s.answer (.error 1)

/-- R493: the counters of the masked tenants cleared on every isle. -/
def State.clearAcct (s : State) (mask : Nat) : State :=
  { s with isles := s.isles.map fun i =>
      { i with acct := (List.range i.acct.length).map fun t => let c := nth [] i.acct t; if bitN mask t = true then c.map (fun _ => 0) else c } }

/-- R493: the clears whose time has come, each followed by its response. -/
def State.accDue (s : State) : State :=
  s.accReset.foldl (fun s x => if x.2.1 ≤ s.pt then (s.clearAcct x.1).answer .accResetDone else s)
    { s with accReset := s.accReset.filter fun x => decide (s.pt < x.2.1) }

/-- ACCOUNTING_CLEAR (R493). -/
def execAccountingClear (s : State) : Res := .next s.accDue

/-! ## Panel time (R16, R364, R379, R492, R497, R498) -/

/-- A hart after `d` units of panel time, fifteen cycles each. -/
def Hart.tick (h : Hart) (d : Nat) : Hart :=
  { h with
    cycles := if tb h.mcountinhibit 0 then h.cycles else h.cycles + 15 * d
    epi := if h.mode = .u then h.epi.map fun e => if e.cycRun then { e with cycCnt := e.cycCnt + 15 * d } else e else h.epi }

/-- R492: SKC of the harts of an isle. -/
def Isle.chargeHarts (i : Isle) (d : Nat) : Isle :=
  i.harts.foldl (fun i h =>
    if h.sftEn then { i with acct := upd (fun c => upd (fun v => satAdd (2 ^ 64 - 1) v (15 * d)) c 9) i.acct h.sftTenant } else i) i

/-- An isle that is not held, after `d` units of panel time. -/
def Isle.tick (i : Isle) (d : Nat) : Isle :=
  if i.up then
    let i := i.chargeHarts d
    { i with
      harts := i.harts.map fun h => h.tick d
      throtCnt := if i.throt then satAdd (2 ^ 32 - 1) i.throtCnt d else i.throtCnt
      mon := min 1000 (i.mon + d) }
  else i

/-- R492: the energy estimate of a tenant for which an isle has counted work grows by a free amount (log 12). -/
def addEnergy (amt : W64) (c : List Nat) : List Nat :=
  if (c.take 10).any (· != 0) then upd (fun v => satAdd (2 ^ 64 - 1) v amt.toNat) c 10 else c

/-- The estimates of an isle, each from its own free value; `k` is the first one's index. -/
def Isle.addMj (i : Isle) (k : Nat) : Isle :=
  if i.up then { i with acct := (List.range i.acct.length).map fun t => addEnergy (Config.freeWord (k + t)) (nth [] i.acct t) } else i

/-- Panel time moves on by `d`. -/
def State.tick (s : State) (d : Nat) : State :=
  { s with
    pt := s.pt + d, free := s.free + 64 * 40
    isles := s.isles.map fun i => (i.tick d).addMj (s.free + 64 * i.no) }

/-- Panel time passes; counters are cleared as it reaches the time of each ACCRESET. -/
def State.passTo : Nat → State → Nat → State
  | 0, s, d => (s.tick d).accDue
  | k + 1, s, d =>
    let t := s.accReset.foldl (fun acc x => min acc (x.2.1 - s.pt)) d
    State.passTo k (s.tick t).accDue (d - t)

/-- `d` units of panel time pass; none pass on a panel that has not booted (R16). -/
def State.pass (s : State) (d : Nat) : State := if s.powered then State.passTo (s.accReset.length + 1) s d else s

end Sys2Proof.Machine
end

