-- ==== Sys2Proof/Machine/HostPort.lean ====
section
/-! DEFINITION. The host behind a Nytin Bridge: the apertures of its functions (R423, R483, R484, R486, R492, R493). -/

namespace Sys2Proof.Machine

/-! ## The control windows (BAR0 of the physical function) -/

/-- An access split into naturally aligned pieces of at most eight bytes: offset and size. -/
def pieces : Nat → Nat → Nat → List (Nat × Nat)
  | 0, _, _ => []
  | fuel + 1, a, len =>
    if len = 0 then []
    else
      let k := if a % 8 = 0 ∧ 8 ≤ len then 8 else if a % 4 = 0 ∧ 4 ≤ len then 4 else if a % 2 = 0 ∧ 2 ≤ len then 2 else 1
      (a, k) :: pieces fuel (a + k) (len - k)

/-- R483: a write of bytes to the control window of an isle. -/
def State.winWrite (s : State) (n o : Nat) (bs : List Byte) : State :=
  (pieces bs.length o bs.length).foldl (fun s x => s.regWrite .host n x.1 x.2 (ofLe ((bs.drop (x.1 - o)).take x.2))) s

/-- The host's answer to a read. -/
def State.hostData (s : State) (bs : List Byte) (ep : Bool) : State := { s with rsp := some (.data bs ep) }
def State.hostDone (s : State) : State := { s with rsp := some .done }
def State.hostRefused (s : State) : State := { s with rsp := some .unsupported }

/-- R484: a doorbell write through bridge `b` by function `fn`; one that is no single 64-bit write counts in DBDROP. -/
def State.doorWrite (s : State) (b fn : Nat) (single : Bool) (v : Nat) : State :=
  if single then
    match execDoorbell (BitVec.ofNat 64 v) { s with cur := ⟨0, b, 0, fn, 0, 0⟩ } with
    | .next t => { t with cur := s.cur }
    | _ => s
  else s.onPort b fun p => { p with dbdrop := BitVec.ofNat 32 (satAdd (2 ^ 32 - 1) p.dbdrop.toNat 1) }

/-- An access touches the doorbell at `d`. -/
def hostReqTouches (r : HostReq) (d : Nat) : Bool := decide (r.off < d + 8) && decide (d < r.off + r.size)

/-- R483: BAR0 of the physical function. -/
def State.hostWindow (s : State) (r : HostReq) : State :=
  let n := r.off / 65536
  if r.off < 0x280000 then
    if !(s.isle n).up then s.hostRefused
    else match r.wr with
      | some bs => (s.winWrite n (r.off % 65536) bs).hostDone
      | none => let (v, s) := s.regRead .host n (r.off % 65536) r.size; s.hostData (leBytes r.size v) false
  else match r.wr with
    | some bs => if hostReqTouches r 0x280000 then (s.doorWrite r.bridge 0 (r.off == 0x280000 && r.size == 8) (ofLe bs)).hostDone else s.hostDone
    | none => s.hostData (List.replicate r.size 0) false

/-- R483, R492: BAR0 of the virtual function of tenant `t`: its counters and the doorbell. -/
def State.vfByte (s : State) (t a : Nat) : Byte :=
  let n := (a - 0x1000) / 0x80
  if 0x1000 ≤ a ∧ n < 40 then BitVec.ofNat 8 (s.regWord n (0xC000 + 0x80 * t + a % 0x80 / 4 * 4) / 256 ^ (a % 4)) else 0

def State.hostVf (s : State) (t : Nat) (r : HostReq) : State :=
  match r.wr with
  | some bs => if hostReqTouches r 0 then (s.doorWrite r.bridge (t + 1) (r.off == 0 && r.size == 8) (ofLe bs)).hostDone else s.hostDone
  | none => s.hostData ((List.range r.size).map fun i => s.vfByte t (r.off + i)) false

/-! ## Memory (BAR2) -/

/-- An access to the memory of an isle held in reset. -/
def State.hostHeld (s : State) (pas : List Nat) : Bool := pas.any fun a => paSpace a == 0 && decide (paIsle a < 40) && !(s.isle (paIsle a)).up

/-- R423, R483: an access to physical bytes; reads of what does not exist give 0 and writes to it are ignored. -/
def State.hostMem (s : State) (payer : Nat) (pas : List Nat) (r : HostReq) : State :=
  if s.hostHeld pas then s.hostRefused
  else
    let s := pas.foldl (fun s a => s.chargeMem payer a 1) s
    match r.wr with
    | some bs => (s.perform ((pas.zip bs).filter fun c => paExists c.1)).hostDone
    | none => s.hostData (pas.map fun a => if paExists a then s.byte a else 0) (pas.any fun a => paExists a && s.isPois a)

/-- R483: the physical bytes of an access through a tenant's page table; none when a page refuses it. -/
def State.hostPas (s : State) (t va size : Nat) (wr : Bool) : Option (List Nat) :=
  (List.range size).mapM fun i =>
    match s.walk t ((va + i) % 2 ^ 48) with
    | some l => if (if wr = true then l.w else l.r) && paExists l.pa && !l.cmp then some l.pa else none
    | none => none

/-- HOST_ACCESS (R483): an access through bridge `h.bridge`. A refused page leaves an error record on the isle that serves the
bridge (R486). -/
def execHostAccess (h : HostReq) (s : State) : Res :=
  if !s.bridgeUp h.bridge || decide (4 ≤ h.bridge) then .next s
  else if h.fn = 0 then
    if h.bar = 0 then .next (s.hostWindow h)
    else .next (s.hostMem 64 ((List.range h.size).map fun i => (h.off + i) % 2 ^ 46) h)
  else if h.bar = 0 then .next (s.hostVf (h.fn - 1) h)
  else
    match s.hostPas (h.fn - 1) h.off h.size h.wr.isSome with
    | some pas => .next (s.hostMem (h.fn - 1) pas h)
    | none => .next (s.hostRefused.postErr (portIsle h.bridge) 7 0 0 0)

end Sys2Proof.Machine
end

