-- ==== Sys2Proof/Machine/Dispatch.lean ====
section
/-! DEFINITION. The dispatch: one arm per constructor of `Instr`, each a direct call of its meaning. -/

namespace Sys2Proof.Machine

def exec (i : Instr) (s : State) : Host.Outcome State Fault Refusal :=
  match i with
  | .nop t => Sys2Proof.Machine.execNop t s
  | .mov t o => Sys2Proof.Machine.execMov t o s
  | .drop t a => Sys2Proof.Machine.execDrop t a s
  | .null_ t d => Sys2Proof.Machine.execNull t d s
  | .steer t o => Sys2Proof.Machine.execSteer t o s
  | .merge t o => Sys2Proof.Machine.execMerge t o s
  | .split4 t o => Sys2Proof.Machine.execSplit4 t o s
  | .pick4 t o => Sys2Proof.Machine.execPick4 t o s
  | .emit t d end_ => Sys2Proof.Machine.execEmit t d end_ s
  | .cnt t k outer => Sys2Proof.Machine.execCnt t k outer s
  | .cntb t o => Sys2Proof.Machine.execCntb t o s
  | .rep t o => Sys2Proof.Machine.execRep t o s
  | .seqt t o => Sys2Proof.Machine.execSeqt t o s
  | .reord t d a => Sys2Proof.Machine.execReord t d a s
  | .sig t set => Sys2Proof.Machine.execSig t set s
  | .gate t o => Sys2Proof.Machine.execGate t o s
  | .plog t o => Sys2Proof.Machine.execPlog t o s
  | .pset t d a => Sys2Proof.Machine.execPset t d a s
  | .slots t d => Sys2Proof.Machine.execSlots t d s
  | .add t o => Sys2Proof.Machine.execAdd t o s
  | .sub t o => Sys2Proof.Machine.execSub t o s
  | .addi t o => Sys2Proof.Machine.execAddi t o s
  | .adds t o => Sys2Proof.Machine.execAdds t o s
  | .subs t o => Sys2Proof.Machine.execSubs t o s
  | .mull t o => Sys2Proof.Machine.execMull t o s
  | .mulh t o => Sys2Proof.Machine.execMulh t o s
  | .mulhu t o => Sys2Proof.Machine.execMulhu t o s
  | .mad t o => Sys2Proof.Machine.execMad t o s
  | .and_ t o => Sys2Proof.Machine.execAnd t o s
  | .or_ t o => Sys2Proof.Machine.execOr t o s
  | .xor_ t o => Sys2Proof.Machine.execXor t o s
  | .andn t o => Sys2Proof.Machine.execAndn t o s
  | .shl t o => Sys2Proof.Machine.execShl t o s
  | .shr t o => Sys2Proof.Machine.execShr t o s
  | .sra t o => Sys2Proof.Machine.execSra t o s
  | .shi t o => Sys2Proof.Machine.execShi t o s
  | .min_ t o => Sys2Proof.Machine.execMin t o s
  | .max_ t o => Sys2Proof.Machine.execMax t o s
  | .minu t o => Sys2Proof.Machine.execMinu t o s
  | .maxu t o => Sys2Proof.Machine.execMaxu t o s
  | .abs_ t o => Sys2Proof.Machine.execAbs t o s
  | .clz t o => Sys2Proof.Machine.execClz t o s
  | .popc t o => Sys2Proof.Machine.execPopc t o s
  | .sel t o => Sys2Proof.Machine.execSel t o s
  | .cmpeq t o => Sys2Proof.Machine.execCmpeq t o s
  | .cmpne t o => Sys2Proof.Machine.execCmpne t o s
  | .cmplt t o => Sys2Proof.Machine.execCmplt t o s
  | .cmple t o => Sys2Proof.Machine.execCmple t o s
  | .cmpltu t o => Sys2Proof.Machine.execCmpltu t o s
  | .cmpleu t o => Sys2Proof.Machine.execCmpleu t o s
  | .li t d imm => Sys2Proof.Machine.execLi t d imm s
  | .lui t d imm => Sys2Proof.Machine.execLui t d imm s
  | .bfx t o => Sys2Proof.Machine.execBfx t o s
  | .bfi t o => Sys2Proof.Machine.execBfi t o s
  | .divu t o => Sys2Proof.Machine.execDivu t o s
  | .remu t o => Sys2Proof.Machine.execRemu t o s
  | .bcast t o => Sys2Proof.Machine.execBcast t o s
  | .perm t o => Sys2Proof.Machine.execPerm t o s
  | .slide t o => Sys2Proof.Machine.execSlide t o s
  | .redadd t o => Sys2Proof.Machine.execRedadd t o s
  | .redmax t o => Sys2Proof.Machine.execRedmax t o s
  | .redmin t o => Sys2Proof.Machine.execRedmin t o s
  | .scan t o => Sys2Proof.Machine.execScan t o s
  | .fadd t o => Sys2Proof.Machine.execFadd t o s
  | .fsub t o => Sys2Proof.Machine.execFsub t o s
  | .fmul t o => Sys2Proof.Machine.execFmul t o s
  | .ffma t o => Sys2Proof.Machine.execFfma t o s
  | .ffms t o => Sys2Proof.Machine.execFfms t o s
  | .fnma t o => Sys2Proof.Machine.execFnma t o s
  | .fmin t o => Sys2Proof.Machine.execFmin t o s
  | .fmax t o => Sys2Proof.Machine.execFmax t o s
  | .fabs t o => Sys2Proof.Machine.execFabs t o s
  | .fneg t o => Sys2Proof.Machine.execFneg t o s
  | .fcmpeq t o => Sys2Proof.Machine.execFcmpeq t o s
  | .fcmplt t o => Sys2Proof.Machine.execFcmplt t o s
  | .fcmple t o => Sys2Proof.Machine.execFcmple t o s
  | .fcmpun t o => Sys2Proof.Machine.execFcmpun t o s
  | .fdiv t o => Sys2Proof.Machine.execFdiv t o s
  | .fsqrt t o => Sys2Proof.Machine.execFsqrt t o s
  | .frcp t o => Sys2Proof.Machine.execFrcp t o s
  | .frsq t o => Sys2Proof.Machine.execFrsq t o s
  | .fexp2 t o => Sys2Proof.Machine.execFexp2 t o s
  | .flog2 t o => Sys2Proof.Machine.execFlog2 t o s
  | .ftanh t o => Sys2Proof.Machine.execFtanh t o s
  | .fsigm t o => Sys2Proof.Machine.execFsigm t o s
  | .fclass t o => Sys2Proof.Machine.execFclass t o s
  | .frnd t o => Sys2Proof.Machine.execFrnd t o s
  | .fscale t o => Sys2Proof.Machine.execFscale t o s
  | .cvt t o => Sys2Proof.Machine.execCvt t o s
  | .cvtmx t o => Sys2Proof.Machine.execCvtmx t o s
  | .unpmx t o => Sys2Proof.Machine.execUnpmx t o s
  | .fpack t o => Sys2Proof.Machine.execFpack t o s
  | .funpk t o => Sys2Proof.Machine.execFunpk t o s
  | .plw t o => Sys2Proof.Machine.execPlw t o s
  | .plws t o => Sys2Proof.Machine.execPlws t o s
  | .plclr t pl => Sys2Proof.Machine.execPlclr t pl s
  | .scld t o => Sys2Proof.Machine.execScld t o s
  | .mma t o => Sys2Proof.Machine.execMma t o s
  | .mmas t o => Sys2Proof.Machine.execMmas t o s
  | .accrd t o => Sys2Proof.Machine.execAccrd t o s
  | .accwr t o => Sys2Proof.Machine.execAccwr t o s
  | .accclr t tile => Sys2Proof.Machine.execAccclr t tile s
  | .mfwd t ch out => Sys2Proof.Machine.execMfwd t ch out s
  | .ld t o => Sys2Proof.Machine.execLd t o s
  | .ldq t y a ch pos sz ka => Sys2Proof.Machine.execLdq t y a ch pos sz ka s
  | .st t o => Sys2Proof.Machine.execSt t o s
  | .lds t o => Sys2Proof.Machine.execLds t o s
  | .stf t o => Sys2Proof.Machine.execStf t o s
  | .sto t o => Sys2Proof.Machine.execSto t o s
  | .sete t o => Sys2Proof.Machine.execSete t o s
  | .pfx t o => Sys2Proof.Machine.execPfx t o s
  | .srd t o => Sys2Proof.Machine.execSrd t o s
  | .swr t o => Sys2Proof.Machine.execSwr t o s
  | .agn t g imm => Sys2Proof.Machine.execAgn t g imm s
  | .fence t scope => Sys2Proof.Machine.execFence t scope s
  | .aadd t o => Sys2Proof.Machine.execAadd t o s
  | .amin t o => Sys2Proof.Machine.execAmin t o s
  | .amax t o => Sys2Proof.Machine.execAmax t o s
  | .aminu t o => Sys2Proof.Machine.execAminu t o s
  | .amaxu t o => Sys2Proof.Machine.execAmaxu t o s
  | .aand t o => Sys2Proof.Machine.execAand t o s
  | .aor t o => Sys2Proof.Machine.execAor t o s
  | .axor t o => Sys2Proof.Machine.execAxor t o s
  | .axchg t o => Sys2Proof.Machine.execAxchg t o s
  | .acas t rpl y a b => Sys2Proof.Machine.execAcas t rpl y a b s
  | .afadd t o => Sys2Proof.Machine.execAfadd t o s
  | .afmin t o => Sys2Proof.Machine.execAfmin t o s
  | .afmax t o => Sys2Proof.Machine.execAfmax t o s
  | .aincw t o => Sys2Proof.Machine.execAincw t o s
  | .cpy1 t o => Sys2Proof.Machine.execCpy1 t o s
  | .cpy2 t o => Sys2Proof.Machine.execCpy2 t o s
  | .cpyg t o => Sys2Proof.Machine.execCpyg t o s
  | .cpys t o => Sys2Proof.Machine.execCpys t o s
  | .cpyf t o => Sys2Proof.Machine.execCpyf t o s
  | .cpyx t o => Sys2Proof.Machine.execCpyx t o s
  | .binit t o => Sys2Proof.Machine.execBinit t o s
  | .barv t o => Sys2Proof.Machine.execBarv t o s
  | .bexp t o => Sys2Proof.Machine.execBexp t o s
  | .bwait t o => Sys2Proof.Machine.execBwait t o s
  | .ared t o => Sys2Proof.Machine.execAred t o s
  | .rscat t o => Sys2Proof.Machine.execRscat t o s
  | .agath t o => Sys2Proof.Machine.execAgath t o s
  | .bcst t o => Sys2Proof.Machine.execBcst t o s
  | .a2a t o => Sys2Proof.Machine.execA2a t o s
  | .cwait t o => Sys2Proof.Machine.execCwait t o s
  | .cabrt t a => Sys2Proof.Machine.execCabrt t a s
  | .vget t d => Sys2Proof.Machine.execVget t d s
  | .vack t a => Sys2Proof.Machine.execVack t a s
  | .vjoin t => Sys2Proof.Machine.execVjoin t s
  | .trap t a => Sys2Proof.Machine.execTrap t a s
  | .brk t => Sys2Proof.Machine.execBrk t s
  | .mark t a => Sys2Proof.Machine.execMark t a s
  | .cyc t d => Sys2Proof.Machine.execCyc t d s
  | .perf t o => Sys2Proof.Machine.execPerf t o s
  | .halt t => Sys2Proof.Machine.execHalt t s
  | .mbxput rd rs1 rs2 => Sys2Proof.Machine.execMbxput rd rs1 rs2 s
  | .mbxget rd rs1 rs2 => Sys2Proof.Machine.execMbxget rd rs1 rs2 s
  | .mbxpoll rd rs1 => Sys2Proof.Machine.execMbxpoll rd rs1 s
  | .futld rd rs1 => Sys2Proof.Machine.execFutld rd rs1 s
  | .futst rs1 rs2 => Sys2Proof.Machine.execFutst rs1 rs2 s
  | .epibeg rd rs1 rs2 => Sys2Proof.Machine.execEpibeg rd rs1 rs2 s
  | .epiend rs1 => Sys2Proof.Machine.execEpiend rs1 s
  | .wdset rs1 rs2 => Sys2Proof.Machine.execWdset rs1 rs2 s
  | .frzrd rd rs1 => Sys2Proof.Machine.execFrzrd rd rs1 s
  | .frzwr rs1 rs2 => Sys2Proof.Machine.execFrzwr rs1 rs2 s
  | .segres rd rs1 => Sys2Proof.Machine.execSegres rd rs1 s
  | .segrpl rd rs1 => Sys2Proof.Machine.execSegrpl rd rs1 s
  | .segkill rd rs1 => Sys2Proof.Machine.execSegkill rd rs1 s
  | .launch w => Sys2Proof.Machine.execLaunch w s
  | .waitge w v => Sys2Proof.Machine.execWaitge w v s
  | .signal w v => Sys2Proof.Machine.execSignal w v s
  | .semset w v => Sys2Proof.Machine.execSemset w v s
  | .copyq w => Sys2Proof.Machine.execCopyq w s
  | .jmp w => Sys2Proof.Machine.execJmp w s
  | .loop w => Sys2Proof.Machine.execLoop w s
  | .irq w => Sys2Proof.Machine.execIrq w s
  | .dfence w => Sys2Proof.Machine.execDfence w s
  | .prio w => Sys2Proof.Machine.execPrio w s
  | .handoff w v => Sys2Proof.Machine.execHandoff w v s
  | .balloc w v => Sys2Proof.Machine.execBalloc w v s
  | .bfree w => Sys2Proof.Machine.execBfree w s
  | .flushr w => Sys2Proof.Machine.execFlushr w s
  | .invr w => Sys2Proof.Machine.execInvr w s
  | .fwdr w => Sys2Proof.Machine.execFwdr w s
  | .dhalt w => Sys2Proof.Machine.execDhalt w s
  | .doorbell v => Sys2Proof.Machine.execDoorbell v s
  | .qcfgWrite v => Sys2Proof.Machine.execQcfgWrite v s
  | .semaphoreWrite v => Sys2Proof.Machine.execSemaphoreWrite v s
  | .preemptRestore bad => Sys2Proof.Machine.execPreemptRestore bad s
  | .prqHeadWrite v => Sys2Proof.Machine.execPrqHeadWrite v s
  | .stateRestore bad => Sys2Proof.Machine.execStateRestore bad s
  | .cfgerrReload cacheOk memOk => Sys2Proof.Machine.execCfgerrReload cacheOk memOk s
  | .spareMismatch at_ => Sys2Proof.Machine.execSpareMismatch at_ s
  | .scrubLine r => Sys2Proof.Machine.execScrubLine r s
  | .relatchGo v => Sys2Proof.Machine.execRelatchGo v s
  | .scanoutRestore bad => Sys2Proof.Machine.execScanoutRestore bad s
  | .promoteGo v => Sys2Proof.Machine.execPromoteGo v s
  | .hpcHeadWrite v => Sys2Proof.Machine.execHpcHeadWrite v s
  | .hpcRelease v => Sys2Proof.Machine.execHpcRelease v s
  | .copyBytesLand off len => Sys2Proof.Machine.execCopyBytesLand off len s
  | .copyFault unit => Sys2Proof.Machine.execCopyFault unit s
  | .commWrite off size v => Sys2Proof.Machine.execCommWrite off size v s
  | .enclosureAbort va len acc => Sys2Proof.Machine.execEnclosureAbort va len acc s
  | .ufstatusRet v => Sys2Proof.Machine.execUfstatusRet v s
  | .handlerInstall v => Sys2Proof.Machine.execHandlerInstall v s
  | .handlerHwerr pa => Sys2Proof.Machine.execHandlerHwerr pa s
  | .tctlWrite v => Sys2Proof.Machine.execTctlWrite v s
  | .dumpGo v => Sys2Proof.Machine.execDumpGo v s
  | .boot b => Sys2Proof.Machine.execBoot b s
  | .isleReset b => Sys2Proof.Machine.execIsleReset b s
  | .flitReceive crcOk f => Sys2Proof.Machine.execFlitReceive crcOk f s
  | .hostAccess h => Sys2Proof.Machine.execHostAccess h s
  | .dmiAccess wr v => Sys2Proof.Machine.execDmiAccess wr v s
  | .negotiateAlgorithms ok => Sys2Proof.Machine.execNegotiateAlgorithms ok s
  | .getCertificate slot off len => Sys2Proof.Machine.execGetCertificate slot off len s
  | .finish sig both root => Sys2Proof.Machine.execFinish sig both root s
  | .spdmUnsupportedRequest code => Sys2Proof.Machine.execSpdmUnsupportedRequest code s
  | .accreset mask at_ => Sys2Proof.Machine.execAccreset mask at_ s
  | .registerWrite src off size v => Sys2Proof.Machine.execRegisterWrite src off size v s
  | .linkPortUp lanes br peer => Sys2Proof.Machine.execLinkPortUp lanes br peer s
  | .hartLoadStore op => Sys2Proof.Machine.execHartLoadStore op s
  | .skerryIllegalInstruction w => Sys2Proof.Machine.execSkerryIllegalInstruction w s
  | .unassignedDockOp w op => Sys2Proof.Machine.execUnassignedDockOp w op s
  | .blockedWordResume => Sys2Proof.Machine.execBlockedWordResume s
  | .waitgeSatisfied => Sys2Proof.Machine.execWaitgeSatisfied s
  | .queueGo => Sys2Proof.Machine.execQueueGo s
  | .queueStop => Sys2Proof.Machine.execQueueStop s
  | .semaphoreMessageReceive => Sys2Proof.Machine.execSemaphoreMessageReceive s
  | .semaphoreAnswerReceive => Sys2Proof.Machine.execSemaphoreAnswerReceive s
  | .semaphoreMessageTimeout => Sys2Proof.Machine.execSemaphoreMessageTimeout s
  | .ringPlace => Sys2Proof.Machine.execRingPlace s
  | .runDeal => Sys2Proof.Machine.execRunDeal s
  | .taskComplete => Sys2Proof.Machine.execTaskComplete s
  | .edgeInvActions => Sys2Proof.Machine.execEdgeInvActions s
  | .edgeEndActions => Sys2Proof.Machine.execEdgeEndActions s
  | .preempt => Sys2Proof.Machine.execPreempt s
  | .markerGateFire => Sys2Proof.Machine.execMarkerGateFire s
  | .bStageIntake => Sys2Proof.Machine.execBStageIntake s
  | .mmaStart => Sys2Proof.Machine.execMmaStart s
  | .mmaFoldLand => Sys2Proof.Machine.execMmaFoldLand s
  | .wharfRequestIssue => Sys2Proof.Machine.execWharfRequestIssue s
  | .replyLand => Sys2Proof.Machine.execReplyLand s
  | .ldsWake => Sys2Proof.Machine.execLdsWake s
  | .wcLineDrain => Sys2Proof.Machine.execWcLineDrain s
  | .atomicApply => Sys2Proof.Machine.execAtomicApply s
  | .repairReentry => Sys2Proof.Machine.execRepairReentry s
  | .inputPortDeliver => Sys2Proof.Machine.execInputPortDeliver s
  | .outputPortWrite => Sys2Proof.Machine.execOutputPortWrite s
  | .mbxActionWrite => Sys2Proof.Machine.execMbxActionWrite s
  | .mbxObservationDeliver => Sys2Proof.Machine.execMbxObservationDeliver s
  | .stagingConfigure => Sys2Proof.Machine.execStagingConfigure s
  | .stripeResident => Sys2Proof.Machine.execStripeResident s
  | .stripeEvict => Sys2Proof.Machine.execStripeEvict s
  | .statefulSave => Sys2Proof.Machine.execStatefulSave s
  | .passBufferReplay => Sys2Proof.Machine.execPassBufferReplay s
  | .configCacheFill => Sys2Proof.Machine.execConfigCacheFill s
  | .stall => Sys2Proof.Machine.execStall s
  | .freezeStop => Sys2Proof.Machine.execFreezeStop s
  | .handlerRecordWrite => Sys2Proof.Machine.execHandlerRecordWrite s
  | .commitStop => Sys2Proof.Machine.execCommitStop s
  | .containmentSequence => Sys2Proof.Machine.execContainmentSequence s
  | .spareMove => Sys2Proof.Machine.execSpareMove s
  | .spareReplace => Sys2Proof.Machine.execSpareReplace s
  | .stripeDisable => Sys2Proof.Machine.execStripeDisable s
  | .healthThresholdCross => Sys2Proof.Machine.execHealthThresholdCross s
  | .vholdExpire => Sys2Proof.Machine.execVholdExpire s
  | .relatchComplete => Sys2Proof.Machine.execRelatchComplete s
  | .promoteComplete => Sys2Proof.Machine.execPromoteComplete s
  | .copyResume => Sys2Proof.Machine.execCopyResume s
  | .copyTimeout => Sys2Proof.Machine.execCopyTimeout s
  | .bwaitWake => Sys2Proof.Machine.execBwaitWake s
  | .collFlitReceive => Sys2Proof.Machine.execCollFlitReceive s
  | .collComplete => Sys2Proof.Machine.execCollComplete s
  | .cwaitWake => Sys2Proof.Machine.execCwaitWake s
  | .collAbortReceive => Sys2Proof.Machine.execCollAbortReceive s
  | .coltoutExpire => Sys2Proof.Machine.execColtoutExpire s
  | .heartbeatSend => Sys2Proof.Machine.execHeartbeatSend s
  | .suspectTimeout => Sys2Proof.Machine.execSuspectTimeout s
  | .fatalReportReceive => Sys2Proof.Machine.execFatalReportReceive s
  | .suspectReceive => Sys2Proof.Machine.execSuspectReceive s
  | .proposeReceive => Sys2Proof.Machine.execProposeReceive s
  | .ackReceive => Sys2Proof.Machine.execAckReceive s
  | .proposeTimerExpire => Sys2Proof.Machine.execProposeTimerExpire s
  | .preparedTimerExpire => Sys2Proof.Machine.execPreparedTimerExpire s
  | .commitReceive => Sys2Proof.Machine.execCommitReceive s
  | .joinSend => Sys2Proof.Machine.execJoinSend s
  | .joinReceive => Sys2Proof.Machine.execJoinReceive s
  | .bindingPromote => Sys2Proof.Machine.execBindingPromote s
  | .watchdogCycleExpire => Sys2Proof.Machine.execWatchdogCycleExpire s
  | .watchdogRoundtripExpire => Sys2Proof.Machine.execWatchdogRoundtripExpire s
  | .abortRecordQueue => Sys2Proof.Machine.execAbortRecordQueue s
  | .userTrap => Sys2Proof.Machine.execUserTrap s
  | .futldWake => Sys2Proof.Machine.execFutldWake s
  | .traceSample => Sys2Proof.Machine.execTraceSample s
  | .cutRecord => Sys2Proof.Machine.execCutRecord s
  | .dumpWrite => Sys2Proof.Machine.execDumpWrite s
  | .dumpFinish => Sys2Proof.Machine.execDumpFinish s
  | .powerLoss => Sys2Proof.Machine.execPowerLoss s
  | .thermalThrottle => Sys2Proof.Machine.execThermalThrottle s
  | .thermalTrip => Sys2Proof.Machine.execThermalTrip s
  | .linkPortDown => Sys2Proof.Machine.execLinkPortDown s
  | .mrExtend => Sys2Proof.Machine.execMrExtend s
  | .getVersion => Sys2Proof.Machine.execGetVersion s
  | .getCapabilities => Sys2Proof.Machine.execGetCapabilities s
  | .getDigests => Sys2Proof.Machine.execGetDigests s
  | .challenge => Sys2Proof.Machine.execChallenge s
  | .getMeasurements => Sys2Proof.Machine.execGetMeasurements s
  | .keyExchange => Sys2Proof.Machine.execKeyExchange s
  | .endSession => Sys2Proof.Machine.execEndSession s
  | .accountingClear => Sys2Proof.Machine.execAccountingClear s
  | .heartbeatReceive => Sys2Proof.Machine.execHeartbeatReceive s
  | .throtClear => Sys2Proof.Machine.execThrotClear s
  | .mmaOccupancyEnd => Sys2Proof.Machine.execMmaOccupancyEnd s

end Sys2Proof.Machine
end

