-- ==== Sys2Proof/Machine/RvFloat.lean ====
section
/-! DEFINITION. The floating-point arithmetic of the harts' F and D extensions (R364, log 53): exact results of the operations on
decoded values, and their rounding with the flags of fcsr. -/

namespace Sys2Proof.Machine

/-- Binary64. -/
def fp64 : Format := ⟨52, 11, 1023, .ieee⟩

/-- An exact result before rounding: a NaN, invalid or not; an infinity, by a division by zero or not; a zero; or a magnitude. -/
inductive XRes where
  | nan (inv : Bool)
  | inf (neg dz : Bool)
  | zero (neg : Bool)
  | num (neg : Bool) (x : Mag)
  deriving DecidableEq, Repr

/-- fcsr flag bits. -/
def rvNX : Nat := 1
def rvUF : Nat := 2
def rvOF : Nat := 4
def rvDZ : Nat := 8
def rvNV : Nat := 16

/-- The rounding mode of an instruction, as `roundUp` numbers them: RNE, RTZ, RDN, RUP, RMM. -/
def rvMode (rm : Nat) : RMode := ⟨nth 0 [0, 1, 3, 2, 5] rm, false, 0⟩

/-- A value below the normal range rounds to the least normal number: it is not tiny after rounding. -/
def escapesTiny (f : Format) (rm : RMode) (neg : Bool) (x : Mag) : Bool :=
  let lg := (Nat.log2 x.m : Int) + x.e
  let (n, r, sh) := x.split (lg - f.mb)
  lg == f.emin - 1 && (if roundUp rm neg n r sh x.st then n + 1 else n) == 2 ^ (f.mb + 1)

/-- Rounding into a format with the flags of fcsr; tininess is detected after rounding. -/
def rvRound (f : Format) (rm : Nat) (neg : Bool) (x : Mag) : FRes :=
  let r := roundFmt f (rvMode rm) false neg x
  let uf := bitN r.2 3 && !escapesTiny f (rvMode rm) neg x
  (r.1, (if bitN r.2 4 then rvNX else 0) + (if uf then rvUF else 0) + if bitN r.2 2 then rvOF else 0)

/-- A result in its format. -/
def XRes.finish (f : Format) (rm : Nat) (r : XRes) : FRes :=
  match r with
  | .nan inv => (f.nanBits, if inv then rvNV else 0)
  | .inf neg dz => (f.signBit neg + f.infBits, if dz then rvDZ else 0)
  | .zero neg => (f.signBit neg, 0)
  | .num neg x => rvRound f rm neg x

/-- The result of an operation on a NaN. -/
def xNan (l : List FVal) : XRes := .nan (l.any FVal.isSnan)

/-- The value of a finite number in units of `2 ^ e`, with its sign. -/
def signedUnits (neg : Bool) (m : Nat) (ex e : Int) : Int := (if neg then -1 else 1) * ((m * 2 ^ (ex - e).toNat : Nat) : Int)

/-- The sum of two finite numbers; an exact zero takes the sign that the mode gives it. -/
def xSum (rm : Nat) (na : Bool) (ma : Nat) (ea : Int) (nb : Bool) (mb : Nat) (eb : Int) : XRes :=
  let e := min ea eb
  let t := signedUnits na ma ea e + signedUnits nb mb eb e
  if t ≠ 0 then .num (decide (t < 0)) ⟨t.natAbs, e, false⟩
  else .zero (if ma = 0 ∧ mb = 0 ∧ na = nb then na else rm == 2)

def xAdd (rm : Nat) (a b : FVal) : XRes :=
  match a, b with
  | .inf na, .inf nb => if na = nb then .inf na false else .nan true
  | .inf na, .fin .. => .inf na false
  | .fin .., .inf nb => .inf nb false
  | .fin na ma ea, .fin nb mb eb => xSum rm na ma ea nb mb eb
  | x, y => xNan [x, y]

def xMul (a b : FVal) : XRes :=
  match a, b with
  | .inf na, .inf nb => .inf (na != nb) false
  | .inf na, .fin nb mb _ => if mb = 0 then .nan true else .inf (na != nb) false
  | .fin na ma _, .inf nb => if ma = 0 then .nan true else .inf (na != nb) false
  | .fin na ma ea, .fin nb mb eb => if ma * mb = 0 then .zero (na != nb) else .num (na != nb) ⟨ma * mb, ea + eb, false⟩
  | x, y => xNan [x, y]

/-- `a * b + d`, fused; infinity times zero is invalid whatever `d` is. -/
def xFma (rm : Nat) (a b d : FVal) : XRes :=
  match a, b, d with
  | .fin na ma ea, .fin nb mb eb, .fin nd md ed => xSum rm (na != nb) (ma * mb) (ea + eb) nd md ed
  | a, b, d =>
    match xMul a b with
    | .nan true => .nan true
    | .nan false => xNan [d]
    | .inf n _ => xAdd rm (.inf n) d
    | _ => xAdd rm (.fin false 0 0) d

def xDiv (a b : FVal) : XRes :=
  match a, b with
  | .inf _, .inf _ => .nan true
  | .inf na, .fin nb _ _ => .inf (na != nb) false
  | .fin na _ _, .inf nb => .zero (na != nb)
  | .fin na ma ea, .fin nb mb eb =>
    if mb = 0 then (if ma = 0 then .nan true else .inf (na != nb) true)
    else if ma = 0 then .zero (na != nb) else .num (na != nb) (divMag ma ea mb eb)
  | x, y => xNan [x, y]

def xSqrt (a : FVal) : XRes :=
  match a with
  | .inf n => if n then .nan true else .inf false false
  | .fin n m e => if m = 0 then .zero n else if n then .nan true else .num false (sqrtMag m e)
  | v => xNan [v]

/-- A value itself, for a conversion between formats. -/
def xVal (a : FVal) : XRes :=
  match a with
  | .inf n => .inf n false
  | .fin n m e => if m = 0 then .zero n else .num n ⟨m, e, false⟩
  | v => xNan [v]

/-- The order of two values that are no NaN: -1, 0 or 1. -/
def xCmp (a b : FVal) : Int :=
  let sgn := fun (n : Bool) => if n then (-1 : Int) else 1
  match a, b with
  | .fin na ma ea, .fin nb mb eb =>
    let e := min ea eb
    (signedUnits na ma ea e - signedUnits nb mb eb e).sign
  | .inf na, .inf nb => ((sgn na - sgn nb) / 2 : Int)
  | .inf na, _ => sgn na
  | _, .inf nb => -sgn nb
  | _, _ => 0

/-- FMIN and FMAX of two codes: minimumNumber and maximumNumber, -0 below +0. -/
def rvMinMax (f : Format) (isMax : Bool) (a b : Nat) : FRes :=
  let x := f.decode a
  let y := f.decode b
  let fl := if x.isSnan || y.isSnan then rvNV else 0
  if x.isNan then (if y.isNan then f.nanBits else b, fl)
  else if y.isNan then (a, fl)
  else
    let less := if xCmp x y = 0 then bitN a (f.eb + f.mb) else decide (xCmp x y < 0)
    (if less != isMax then a else b, fl)

/-- FEQ (2), FLT (1) and FLE (0): the last two signal on a quiet NaN. -/
def rvCompare (f : Format) (k a b : Nat) : Nat × Nat :=
  let x := f.decode a
  let y := f.decode b
  if x.isNan || y.isNan then (0, if k ≠ 2 ∨ x.isSnan ∨ y.isSnan then rvNV else 0)
  else
    let c := xCmp x y
    ((match k with | 2 => c == 0 | 1 => decide (c < 0) | _ => decide (c ≤ 0)).toNat, 0)

/-- FCLASS. -/
def rvClass (f : Format) (a : Nat) : Nat :=
  match f.decode a with
  | .inf n => if n then 1 else 128
  | .nan sig _ _ => if sig then 256 else 512
  | .fin n m _ => if m = 0 then (if n then 8 else 16) else if m < 2 ^ f.mb then (if n then 4 else 32) else if n then 2 else 64

/-- A conversion to an integer between two bounds; what lies outside is invalid and gives the bound, and a NaN the upper one. -/
def rvToInt (rm : Nat) (lo hi : Int) (v : FVal) : Int × Nat :=
  match v with
  | .nan .. => (hi, rvNV)
  | .inf n => (if n then lo else hi, rvNV)
  | .fin neg m e =>
    let (n, r, sh) := (⟨m, e, false⟩ : Mag).split 0
    let n := if roundUp (rvMode rm) neg n r sh false then n + 1 else n
    let v : Int := if neg then -(n : Int) else n
    if v < lo then (lo, rvNV) else if hi < v then (hi, rvNV) else (v, if r = 0 then 0 else rvNX)

/-- A conversion from an integer. -/
def rvFromInt (f : Format) (rm : Nat) (v : Int) : FRes :=
  if v = 0 then (0, 0) else rvRound f rm (decide (v < 0)) ⟨v.natAbs, 0, false⟩

/-- FSGNJ (0), FSGNJN (1) and FSGNJX (2). -/
def rvSignOf (f : Format) (k a b : Nat) : Nat :=
  let top := f.eb + f.mb
  let sg := match k with | 0 => bitN b top | 1 => !bitN b top | _ => bitN a top != bitN b top
  a % 2 ^ top + f.signBit sg

end Sys2Proof.Machine
end

