-- ==== Sys2Proof/Machine/Riscv.lean ====
section
/-! DEFINITION. The instructions of the harts that R364 takes from the RISC-V unprivileged and privileged specifications: RV64GC with
Zba, Zbb, Zbs, Zicond, Zicbom and Zihintpause, and the instructions of the modes (log 53). The hart of the step is `cur.e` of isle
`cur.n`; `cur.x` is 2 for a compressed instruction. -/

namespace Sys2Proof.Machine

/-! ## Compressed instructions -/

/-- A field of an encoding: `n` bits of a compressed word from bit `src`, moved to bit `dst`. -/
def bitsTo (w src n dst : Nat) : Nat := fld w src n * 2 ^ dst

/-- Words of the base formats, from immediates taken modulo their width. -/
def encI (op f3 rd rs1 imm : Nat) : Nat := imm % 4096 * 2 ^ 20 + rs1 * 2 ^ 15 + f3 * 2 ^ 12 + rd * 2 ^ 7 + op
def encR (op f3 f7 rd rs1 rs2 : Nat) : Nat := f7 * 2 ^ 25 + rs2 * 2 ^ 20 + rs1 * 2 ^ 15 + f3 * 2 ^ 12 + rd * 2 ^ 7 + op
def encS (op f3 rs1 rs2 imm : Nat) : Nat :=
  fld imm 5 7 * 2 ^ 25 + rs2 * 2 ^ 20 + rs1 * 2 ^ 15 + f3 * 2 ^ 12 + fld imm 0 5 * 2 ^ 7 + op
def encB (f3 rs1 imm : Nat) : Nat :=
  fld imm 12 1 * 2 ^ 31 + fld imm 5 6 * 2 ^ 25 + rs1 * 2 ^ 15 + f3 * 2 ^ 12 + fld imm 1 4 * 2 ^ 8 + fld imm 11 1 * 2 ^ 7 + 0x63
def encJ (imm : Nat) : Nat :=
  fld imm 20 1 * 2 ^ 31 + fld imm 1 10 * 2 ^ 21 + fld imm 11 1 * 2 ^ 20 + fld imm 12 8 * 2 ^ 12 + 0x6F
def encU (op rd imm : Nat) : Nat := imm % 2 ^ 20 * 2 ^ 12 + rd * 2 ^ 7 + op

/-- Register fields of three bits name x8 to x15. -/
def rdC (w : Nat) : Nat := 8 + fld w 2 3
def rsC (w : Nat) : Nat := 8 + fld w 7 3

/-- The six-bit immediate at bits 12 and 6:2, as a shift amount and signed to a width. -/
def immC (w : Nat) : Nat := fld w 2 5 + bitsTo w 12 1 5
def simmC (w width : Nat) : Nat := modN width (sextN 6 (immC w))

/-- Offsets of the register loads and stores: of words and of doublewords. -/
def offW (w : Nat) : Nat := bitsTo w 10 3 3 + bitsTo w 6 1 2 + bitsTo w 5 1 6
def offD (w : Nat) : Nat := bitsTo w 10 3 3 + bitsTo w 5 2 6

/-- Quadrant 0: the loads and stores through x8 to x15. -/
def expandC0 (w : Nat) : Option Nat :=
  match fld w 13 3 with
  | 0 =>
    let imm := bitsTo w 11 2 4 + bitsTo w 7 4 6 + bitsTo w 6 1 2 + bitsTo w 5 1 3
    if imm = 0 then none else some (encI 0x13 0 (rdC w) 2 imm)
  | 1 => some (encI 0x07 3 (rdC w) (rsC w) (offD w))
  | 2 => some (encI 0x03 2 (rdC w) (rsC w) (offW w))
  | 3 => some (encI 0x03 3 (rdC w) (rsC w) (offD w))
  | 5 => some (encS 0x27 3 (rsC w) (rdC w) (offD w))
  | 6 => some (encS 0x23 2 (rsC w) (rdC w) (offW w))
  | 7 => some (encS 0x23 3 (rsC w) (rdC w) (offD w))
  | _ => none

/-- The arithmetic of quadrant 1 on x8 to x15. -/
def expandArith (w : Nat) : Option Nat :=
  let r := rsC w
  match fld w 10 2, fld w 12 1, fld w 5 2 with
  | 0, _, _ => some (encI 0x13 5 r r (immC w))
  | 1, _, _ => some (encI 0x13 5 r r (0x400 + immC w))
  | 2, _, _ => some (encI 0x13 7 r r (simmC w 12))
  | _, 0, 0 => some (encR 0x33 0 0x20 r r (rdC w))
  | _, 0, 1 => some (encR 0x33 4 0 r r (rdC w))
  | _, 0, 2 => some (encR 0x33 6 0 r r (rdC w))
  | _, 0, _ => some (encR 0x33 7 0 r r (rdC w))
  | _, _, 0 => some (encR 0x3B 0 0x20 r r (rdC w))
  | _, _, 1 => some (encR 0x3B 0 0 r r (rdC w))
  | _, _, _ => none

/-- Quadrant 1: immediates, arithmetic, jumps and branches. -/
def expandC1 (w : Nat) : Option Nat :=
  let rd := fld w 7 5
  match fld w 13 3 with
  | 0 => some (encI 0x13 0 rd rd (simmC w 12))
  | 1 => if rd = 0 then none else some (encI 0x1B 0 rd rd (simmC w 12))
  | 2 => some (encI 0x13 0 rd 0 (simmC w 12))
  | 3 =>
    if immC w = 0 then none
    else if rd = 2 then
      let imm := bitsTo w 12 1 9 + bitsTo w 6 1 4 + bitsTo w 5 1 6 + bitsTo w 3 2 7 + bitsTo w 2 1 5
      some (encI 0x13 0 2 2 (modN 12 (sextN 10 imm)))
    else some (encU 0x37 rd (simmC w 20))
  | 4 => expandArith w
  | 5 =>
    let imm := bitsTo w 12 1 11 + bitsTo w 11 1 4 + bitsTo w 9 2 8 + bitsTo w 8 1 10 + bitsTo w 7 1 6 + bitsTo w 6 1 7 +
      bitsTo w 3 3 1 + bitsTo w 2 1 5
    some (encJ (modN 21 (sextN 12 imm)))
  | k =>
    let imm := bitsTo w 12 1 8 + bitsTo w 10 2 3 + bitsTo w 5 2 6 + bitsTo w 3 2 1 + bitsTo w 2 1 5
    some (encB (k - 6) (rsC w) (modN 13 (sextN 9 imm)))

/-- Quadrant 2: the stack-pointer loads and stores, moves and register jumps. -/
def expandC2 (w : Nat) : Option Nat :=
  let rd := fld w 7 5
  let rs2 := fld w 2 5
  let ldD := bitsTo w 12 1 5 + bitsTo w 5 2 3 + bitsTo w 2 3 6
  let stD := bitsTo w 10 3 3 + bitsTo w 7 3 6
  match fld w 13 3 with
  | 0 => some (encI 0x13 1 rd rd (immC w))
  | 1 => some (encI 0x07 3 rd 2 ldD)
  | 2 => if rd = 0 then none else some (encI 0x03 2 rd 2 (bitsTo w 12 1 5 + bitsTo w 4 3 2 + bitsTo w 2 2 6))
  | 3 => if rd = 0 then none else some (encI 0x03 3 rd 2 ldD)
  | 4 =>
    if rs2 ≠ 0 then some (encR 0x33 0 0 rd (if fld w 12 1 = 1 then rd else 0) rs2)
    else if rd = 0 then (if fld w 12 1 = 1 then some 0x00100073 else none)
    else some (encI 0x67 0 (fld w 12 1) rd 0)
  | 5 => some (encS 0x27 3 2 rs2 stD)
  | 6 => some (encS 0x23 2 2 rs2 (bitsTo w 9 4 2 + bitsTo w 7 2 6))
  | _ => some (encS 0x23 3 2 rs2 stD)

/-- The 32-bit instruction that a compressed one stands for; none for a reserved encoding. -/
def expandC (w : Nat) : Option Nat := match w % 4 with | 0 => expandC0 w | 1 => expandC1 w | _ => expandC2 w

/-! ## Integer arithmetic -/

def signExt (n : Nat) (v : Nat) : W64 := BitVec.ofInt 64 (sextN n v)

/-- The result of a 32-bit operation. -/
def sext32 (v : BitVec 32) : W64 := v.signExtend 64

/-- The quotient and remainder of signed division: by zero, -1 and the dividend; the quotient that does not fit wraps. -/
def sdivW {n : Nat} (a b : BitVec n) : BitVec n := if b = 0 then BitVec.allOnes n else BitVec.ofInt n (a.toInt.tdiv b.toInt)
def sremW {n : Nat} (a b : BitVec n) : BitVec n := if b = 0 then a else BitVec.ofInt n (a.toInt.tmod b.toInt)
def udivW {n : Nat} (a b : BitVec n) : BitVec n := if b = 0 then BitVec.allOnes n else BitVec.ofNat n (a.toNat / b.toNat)
def uremW {n : Nat} (a b : BitVec n) : BitVec n := if b = 0 then a else BitVec.ofNat n (a.toNat % b.toNat)

/-- Zbb: leading zeros, trailing zeros and ones of the low `n` bits. -/
def clzN (n v : Nat) : Nat := (findIdx (fun k => bitN v (n - 1 - k)) (List.range n)).getD n
def ctzN (n v : Nat) : Nat := (findIdx (fun k => bitN v k) (List.range n)).getD n
def popN (n v : Nat) : Nat := ((List.range n).filter fun k => bitN v k).length

/-- Zbb: each byte that is not zero becomes all ones. -/
def orcB (v : W64) : W64 := BitVec.ofNat 64 (ofLe ((leBytes 8 v.toNat).map fun (b : Byte) => if b = 0 then (0 : Byte) else 0xFF))

/-- Zbb: the bytes in reverse. -/
def rev8 (v : W64) : W64 := BitVec.ofNat 64 (ofLe (leBytes 8 v.toNat).reverse)

def b2w (b : Bool) : W64 := if b then 1 else 0

/-- OP-IMM: I-type arithmetic, shifts, and the Zbb and Zbs forms with an immediate. -/
def opImm (w : Nat) (a : W64) : Option W64 :=
  let imm := signExt 12 (fld w 20 12)
  let sh := fld w 20 6
  let one : W64 := 1
  match fld w 12 3 with
  | 0 => some (a + imm)
  | 2 => some (b2w (a.slt imm))
  | 3 => some (b2w (a.ult imm))
  | 4 => some (a ^^^ imm)
  | 6 => some (a ||| imm)
  | 7 => some (a &&& imm)
  | 1 =>
    (match fld w 26 6 with
    | 0x00 => some (a <<< sh)
    | 0x0A => some (a ||| (one <<< sh))
    | 0x12 => some (a &&& ~~~(one <<< sh))
    | 0x1A => some (a ^^^ (one <<< sh))
    | 0x18 =>
      (match sh with
      | 0 => some (BitVec.ofNat 64 (clzN 64 a.toNat))
      | 1 => some (BitVec.ofNat 64 (ctzN 64 a.toNat))
      | 2 => some (BitVec.ofNat 64 (popN 64 a.toNat))
      | 4 => some (signExt 8 a.toNat)
      | 5 => some (signExt 16 a.toNat)
      | _ => none)
    | _ => none)
  | _ =>
    match fld w 26 6 with
    | 0x00 => some (a >>> sh)
    | 0x10 => some (a.sshiftRight sh)
    | 0x18 => some (a.rotateRight sh)
    | 0x12 => some (b2w (tb a sh))
    | _ => if fld w 20 12 = 0x287 then some (orcB a) else if fld w 20 12 = 0x6B8 then some (rev8 a) else none

/-- OP-IMM-32. -/
def opImm32 (w : Nat) (a : W64) : Option W64 :=
  let x : BitVec 32 := a.setWidth 32
  let sh := fld w 20 5
  match fld w 12 3 with
  | 0 => some (sext32 (x + BitVec.ofInt 32 (sextN 12 (fld w 20 12))))
  | 1 =>
    if fld w 26 6 = 2 then some ((x.setWidth 64 : W64) <<< fld w 20 6)
    else if fld w 25 7 = 0 then some (sext32 (x <<< sh))
    else
      (match fld w 20 12 with
      | 0x600 => some (BitVec.ofNat 64 (clzN 32 a.toNat))
      | 0x601 => some (BitVec.ofNat 64 (ctzN 32 a.toNat))
      | 0x602 => some (BitVec.ofNat 64 (popN 32 a.toNat))
      | _ => none)
  | 5 =>
    (match fld w 25 7 with
    | 0x00 => some (sext32 (x >>> sh))
    | 0x20 => some (sext32 (x.sshiftRight sh))
    | 0x30 => some (sext32 (x.rotateRight sh))
    | _ => none)
  | _ => none

/-- The M extension. -/
def opMul (f3 : Nat) (a b : W64) : W64 :=
  match f3 with
  | 0 => a * b
  | 1 => BitVec.ofInt 64 (a.toInt * b.toInt / 2 ^ 64)
  | 2 => BitVec.ofInt 64 (a.toInt * (b.toNat : Int) / 2 ^ 64)
  | 3 => BitVec.ofNat 64 (a.toNat * b.toNat / 2 ^ 64)
  | 4 => sdivW a b
  | 5 => udivW a b
  | 6 => sremW a b
  | _ => uremW a b

/-- OP: R-type arithmetic, with Zba, Zbb, Zbs and Zicond. -/
def opReg (w : Nat) (a b : W64) : Option W64 :=
  let sh := b.toNat % 64
  let bit := (1 : W64) <<< sh
  match fld w 25 7, fld w 12 3 with
  | 0x00, 0 => some (a + b)
  | 0x00, 1 => some (a <<< sh)
  | 0x00, 2 => some (b2w (a.slt b))
  | 0x00, 3 => some (b2w (a.ult b))
  | 0x00, 4 => some (a ^^^ b)
  | 0x00, 5 => some (a >>> sh)
  | 0x00, 6 => some (a ||| b)
  | 0x00, 7 => some (a &&& b)
  | 0x20, 0 => some (a - b)
  | 0x20, 4 => some (~~~(a ^^^ b))
  | 0x20, 5 => some (a.sshiftRight sh)
  | 0x20, 6 => some (a ||| ~~~b)
  | 0x20, 7 => some (a &&& ~~~b)
  | 0x01, k => some (opMul k a b)
  | 0x10, 2 => some ((a <<< 1) + b)
  | 0x10, 4 => some ((a <<< 2) + b)
  | 0x10, 6 => some ((a <<< 3) + b)
  | 0x05, 4 => some (if a.slt b then a else b)
  | 0x05, 5 => some (if a.ult b then a else b)
  | 0x05, 6 => some (if a.slt b then b else a)
  | 0x05, 7 => some (if a.ult b then b else a)
  | 0x30, 1 => some (a.rotateLeft sh)
  | 0x30, 5 => some (a.rotateRight sh)
  | 0x24, 1 => some (a &&& ~~~bit)
  | 0x24, 5 => some (b2w (tb a sh))
  | 0x34, 1 => some (a ^^^ bit)
  | 0x14, 1 => some (a ||| bit)
  | 0x07, 5 => some (if b = 0 then 0 else a)
  | 0x07, 7 => some (if b = 0 then a else 0)
  | _, _ => none

/-- OP-32. -/
def opReg32 (w : Nat) (a b : W64) : Option W64 :=
  let x : BitVec 32 := a.setWidth 32
  let y : BitVec 32 := b.setWidth 32
  let sh := b.toNat % 32
  let u : W64 := x.setWidth 64
  match fld w 25 7, fld w 12 3 with
  | 0x00, 0 => some (sext32 (x + y))
  | 0x00, 1 => some (sext32 (x <<< sh))
  | 0x00, 5 => some (sext32 (x >>> sh))
  | 0x20, 0 => some (sext32 (x - y))
  | 0x20, 5 => some (sext32 (x.sshiftRight sh))
  | 0x01, 0 => some (sext32 (x * y))
  | 0x01, 4 => some (sext32 (sdivW x y))
  | 0x01, 5 => some (sext32 (udivW x y))
  | 0x01, 6 => some (sext32 (sremW x y))
  | 0x01, 7 => some (sext32 (uremW x y))
  | 0x04, 0 => some (u + b)
  | 0x04, 4 => if fld w 20 5 = 0 then some (a &&& 0xFFFF) else none
  | 0x10, 2 => some ((u <<< 1) + b)
  | 0x10, 4 => some ((u <<< 2) + b)
  | 0x10, 6 => some ((u <<< 3) + b)
  | 0x30, 1 => some (sext32 (x.rotateLeft sh))
  | 0x30, 5 => some (sext32 (x.rotateRight sh))
  | _, _ => none

/-- Whether a branch is taken; none for a reserved condition. -/
def branchTaken (f3 : Nat) (a b : W64) : Option Bool :=
  match f3 with
  | 0 => some (a == b)
  | 1 => some (a != b)
  | 4 => some (a.slt b)
  | 5 => some (!a.slt b)
  | 6 => some (a.ult b)
  | 7 => some (!a.ult b)
  | _ => none

/-- Offsets of branches and of JAL. -/
def immB (w : Nat) : W64 := signExt 13 (bitsTo w 31 1 12 + bitsTo w 7 1 11 + bitsTo w 25 6 5 + bitsTo w 8 4 1)
def immJ (w : Nat) : W64 := signExt 21 (bitsTo w 31 1 20 + bitsTo w 12 8 12 + bitsTo w 20 1 11 + bitsTo w 21 10 1)
def immS (w : Nat) : W64 := signExt 12 (bitsTo w 25 7 5 + fld w 7 5)

/-! ## Floating point -/

/-- A register as an operand of a format: a single that is not NaN-boxed reads as the canonical NaN. -/
def Hart.freg (h : Hart) (dbl : Bool) (r : Nat) : Nat :=
  let v := (nth 0 h.f r).toNat
  if dbl then v else if v / 2 ^ 32 = 2 ^ 32 - 1 then v % 2 ^ 32 else fp32.nanBits

def fmtOf (dbl : Bool) : Format := if dbl then fp64 else fp32

/-- A result as it stands in a register: a single is NaN-boxed. -/
def boxed (dbl : Bool) (v : Nat) : W64 := BitVec.ofNat 64 (if dbl then v else (2 ^ 32 - 1) * 2 ^ 32 + v % 2 ^ 32)

/-- The sign of a code inverted where `c` says so. -/
def flipSign (f : Format) (c : Bool) (v : Nat) : Nat := if c then v ^^^ f.signBit true else v

/-- Where a floating-point instruction writes, and what: FP registers are numbered from 32 on. -/
structure FpOut where
  rd : Nat
  val : W64
  flags : Nat

/-- A result in an FP register, and one in an integer register. -/
def FpOut.f (dbl : Bool) (rd : Nat) (r : FRes) : FpOut := ⟨32 + rd, boxed dbl r.1, r.2⟩
def FpOut.x (rd : Nat) (v : W64) (flags : Nat) : FpOut := ⟨rd, v, flags⟩

/-- The rounding mode of an instruction: its own field, or that of fcsr; none where reserved. -/
def Hart.rmOf (h : Hart) (w : Nat) : Option Nat :=
  let rm := if fld w 12 3 = 7 then h.fcsr / 32 % 8 else fld w 12 3
  if rm < 5 then some rm else none

/-- The fused multiply-adds: bit 3 of the opcode negates the product and bit 2 the addend. -/
def Hart.fused (h : Hart) (w : Nat) : Option FpOut :=
  let dbl := fld w 25 2 == 1
  let f := fmtOf dbl
  let a := flipSign f (bitN w 3) (h.freg dbl (fld w 15 5))
  let d := flipSign f (bitN w 2) (h.freg dbl (fld w 27 5))
  if fld w 25 2 ≤ 1 then
    (h.rmOf w).map fun rm => FpOut.f dbl (fld w 7 5) ((xFma rm (f.decode a) (f.decode (h.freg dbl (fld w 20 5))) (f.decode d)).finish f rm)
  else none

/-- The bounds of the integer that a conversion names: W, WU, L, LU. -/
def cvtBounds (k : Nat) : Int × Int :=
  nth (0, 0) [(-2 ^ 31, 2 ^ 31 - 1), (0, 2 ^ 32 - 1), (-2 ^ 63, 2 ^ 63 - 1), (0, 2 ^ 64 - 1)] k

/-- An integer register as the source that a conversion names. -/
def cvtSource (k : Nat) (v : W64) : Int :=
  match k with
  | 0 => sextN 32 v.toNat
  | 1 => (v.toNat % 2 ^ 32 : Nat)
  | 2 => v.toInt
  | _ => (v.toNat : Int)

/-- OP-FP but for the operations that round: sign injection, minimum and maximum, comparisons, moves and classes. -/
def Hart.fpExact (h : Hart) (w : Nat) : Option FpOut :=
  let dbl := bitN w 25
  let f := fmtOf dbl
  let rd := fld w 7 5
  let a := h.freg dbl (fld w 15 5)
  let b := h.freg dbl (fld w 20 5)
  let rs2 := fld w 20 5
  match fld w 27 5, fld w 12 3 with
  | 0x04, k => if k < 3 then some (.f dbl rd (rvSignOf f k a b, 0)) else none
  | 0x05, k => if k < 2 then some (.f dbl rd (rvMinMax f (k == 1) a b)) else none
  | 0x14, k => if k < 3 then let r := rvCompare f k a b; some (.x rd (BitVec.ofNat 64 r.1) r.2) else none
  | 0x1C, 0 =>
    let v := nth 0 h.f (fld w 15 5)
    if rs2 = 0 then some (.x rd (if dbl then v else signExt 32 v.toNat) 0) else none
  | 0x1C, 1 => if rs2 = 0 then some (.x rd (BitVec.ofNat 64 (rvClass f a)) 0) else none
  | 0x1E, 0 => if rs2 = 0 then some (.f dbl rd ((h.reg (BitVec.ofNat 5 (fld w 15 5))).toNat, 0)) else none
  | _, _ => none

/-- OP-FP, the operations that round. -/
def Hart.fpRound (h : Hart) (w rm : Nat) : Option FpOut :=
  let dbl := bitN w 25
  let f := fmtOf dbl
  let rd := fld w 7 5
  let a := f.decode (h.freg dbl (fld w 15 5))
  let b := f.decode (h.freg dbl (fld w 20 5))
  let minus := f.decode (flipSign f true (h.freg dbl (fld w 20 5)))
  let rs2 := fld w 20 5
  let out := fun (r : XRes) => some (FpOut.f dbl rd (r.finish f rm))
  match fld w 27 5 with
  | 0x00 => out (xAdd rm a b)
  | 0x01 => out (xAdd rm a minus)
  | 0x02 => out (xMul a b)
  | 0x03 => out (xDiv a b)
  | 0x0B => if rs2 = 0 then out (xSqrt a) else none
  | 0x08 =>
    let g := fmtOf (!dbl)
    if rs2 = (if dbl then 0 else 1) then out (xVal (g.decode (h.freg (!dbl) (fld w 15 5)))) else none
  | 0x18 =>
    if rs2 < 4 then
      let lh := cvtBounds rs2
      let r := rvToInt rm lh.1 lh.2 a
      some (.x rd (if rs2 < 2 then signExt 32 (modN 32 r.1) else BitVec.ofInt 64 r.1) r.2)
    else none
  | 0x1A => if rs2 < 4 then some (.f dbl rd (rvFromInt f rm (cvtSource rs2 (h.reg (BitVec.ofNat 5 (fld w 15 5)))))) else none
  | _ => none

/-- OP-FP. -/
def Hart.opFp (h : Hart) (w : Nat) : Option FpOut :=
  if fld w 25 2 ≤ 1 then
    match h.fpExact w with
    | some o => some o
    | none => match h.rmOf w with
      | some rm => h.fpRound w rm
      | none => none
  else none

/-- A floating-point instruction's register and flags. -/
def State.fpDone (s : State) (o : FpOut) : State :=
  (s.hartDone o.rd o.val).onH fun h => if o.flags = 0 then h else { h with fcsr := h.fcsr ||| o.flags, fs := 3 }

/-! ## Instructions of the modes -/

/-- EBREAK: debug mode where dcsr says so for the mode, else a breakpoint exception. -/
def State.ebreak (s : State) : State :=
  let bit := match s.h.mode with | .m => 15 | .s => 13 | .u => 12
  if tb s.h.dcsr bit then s.onH fun h => h.enterDebug 1 else s.hartTrap 3 s.h.pc.toNat

/-- SRET and MRET where the mode may execute them. -/
def State.hartRet (s : State) (m : Bool) : State := s.onH fun h => if m then h.retired.mret else h.retired.sret

/-- The instructions of SYSTEM with funct3 0; `word` is the instruction's word. -/
def State.priv (s : State) (w : Nat) : Option State :=
  let h := s.h
  let up := h.mode == .m || (h.mode == .s && !h.tsr)
  match w with
  | 0x00000073 => some (s.hartTrap (8 + h.mode.code) 0)
  | 0x00100073 => some s.ebreak
  | 0x10200073 => if up then some (s.hartRet false) else none
  | 0x30200073 => if h.mode = .m then some (s.hartRet true) else none
  | 0x10500073 => if h.tw && h.mode != .m then none else some s.hartNext
  | _ =>
    if fld w 25 7 = 9 ∧ fld w 7 5 = 0 ∧ (h.mode = .m ∨ h.mode = .s ∧ !h.tvm) then some s.hartNext else none

/-- What menvcfg, and senvcfg for U-mode, let a cache-block operation do: CBIE, 0 where it is illegal, and CBCFE. -/
def Hart.cbie (h : Hart) : Nat :=
  let m := fld h.menvcfg.toNat 4 2
  let v := fld h.senvcfg.toNat 4 2
  match h.mode with
  | .m => 3
  | .s => m
  | .u => if m = 0 ∨ v = 0 then 0 else min m v
def Hart.cbcfe (h : Hart) : Bool :=
  match h.mode with
  | .m => true
  | .s => tb h.menvcfg 6
  | .u => tb h.menvcfg 6 && tb h.senvcfg 6

/-- The cache-block operation of a word at an address; with CBIE 1 an invalidation flushes. -/
def Hart.cboOp (h : Hart) (w va : Nat) : Option HartOp :=
  if fld w 7 5 ≠ 0 then none
  else
    match fld w 20 12 with
    | 0 => if h.cbie = 0 then none else if h.cbie = 1 then some (.cboFlush va) else some (.cboInval va)
    | 1 => if h.cbcfe then some (.cboClean va) else none
    | 2 => if h.cbcfe then some (.cboFlush va) else none
    | _ => none

/-! ## The instructions -/

/-- What an instruction comes to: a memory access, a CSR access, or the state after it. -/
inductive RvAct where
  | mem (op : HartOp)
  | csr (num : Nat) (op : CsrOp) (v : W64) (rd : Nat)
  | run (t : State)

/-- The width and sign of a load; none where reserved. -/
def loadKind (f3 : Nat) : Option (Nat × Bool) := if f3 = 7 then none else some (2 ^ (f3 % 4), decide (f3 < 4))

/-- The operation of an AMO by its funct5. -/
def amoKind (f5 : Nat) : Option AmoKind :=
  match f5 with
  | 0 => some .add
  | 1 => some .swap
  | 4 => some .xor
  | 8 => some .or
  | 12 => some .and
  | 16 => some .min
  | 20 => some .max
  | 24 => some .minu
  | 28 => some .maxu
  | _ => none

/-- The A extension. -/
def rvAtomic (w va : Nat) (v : W64) : Option RvAct :=
  let rd := fld w 7 5
  let len := 2 ^ fld w 12 3
  if len ≠ 4 ∧ len ≠ 8 then none
  else
    match fld w 27 5 with
    | 2 => if fld w 20 5 = 0 then some (.mem (.lr rd va len)) else none
    | 3 => some (.mem (.sc rd va len v))
    | k => (amoKind k).map fun op => .mem (.amo rd va len op v)

/-- SYSTEM with a funct3 other than 0: a CSR instruction, of a register or an immediate. It writes unless it sets or clears with
operand x0 or 0. -/
def rvCsr (w : Nat) (a : W64) : Option RvAct :=
  let f3 := fld w 12 3
  let src := fld w 15 5
  let v := if f3 < 4 then a else BitVec.ofNat 64 src
  let act := fun (op : CsrOp) => some (RvAct.csr (fld w 20 12) op v (fld w 7 5))
  match f3 % 4 with
  | 1 => act .write
  | 2 => act (if src = 0 then .read else .set)
  | 3 => act (if src = 0 then .read else .clear)
  | _ => none

/-- A register written, where there is a result. -/
def State.rvVal (s : State) (rd : Nat) (v : Option W64) : Option RvAct := v.map fun x => .run (s.hartDone rd x)

/-- A jump or taken branch: the link register written, if any, and the pc at the target. -/
def State.jump (s : State) (rd : Nat) (target : W64) : State :=
  let link := s.h.pc + (if s.cur.x = 2 then 2 else 4)
  s.onH fun h => { h.retired.setReg rd link with pc := target }

/-- A floating-point instruction, where the unit is on and the encoding is none of the reserved ones. -/
def State.rvFp (s : State) (o : Option FpOut) : Option RvAct := if s.h.fs = 0 then none else o.map fun x => .run (s.fpDone x)

/-- An instruction of 32 bits at the pc; none where it is illegal. -/
def State.rv (s : State) (w : Nat) : Option RvAct :=
  let h := s.h
  let rd := fld w 7 5
  let f3 := fld w 12 3
  let a := h.reg (BitVec.ofNat 5 (fld w 15 5))
  let b := h.reg (BitVec.ofNat 5 (fld w 20 5))
  let at_ := (a + signExt 12 (fld w 20 12)).toNat
  let to_ := (a + immS w).toNat
  match w % 128 with
  | 0x03 => (loadKind f3).map fun k => .mem (.load rd at_ k.1 k.2)
  | 0x07 => if h.fs ≠ 0 ∧ (f3 = 2 ∨ f3 = 3) then some (.mem (.load (32 + rd) at_ (2 ^ f3) false)) else none
  | 0x0F =>
    if f3 = 0 ∨ f3 = 1 then some (.run s.hartNext)
    else if f3 = 2 then (h.cboOp w a.toNat).map .mem else none
  | 0x13 => s.rvVal rd (opImm w a)
  | 0x17 => s.rvVal rd (some (h.pc + signExt 32 (bitsTo w 12 20 12)))
  | 0x1B => s.rvVal rd (opImm32 w a)
  | 0x23 => if f3 < 4 then some (.mem (.store to_ (2 ^ f3) b)) else none
  | 0x27 => if h.fs ≠ 0 ∧ (f3 = 2 ∨ f3 = 3) then some (.mem (.store to_ (2 ^ f3) (nth 0 h.f (fld w 20 5)))) else none
  | 0x2F => rvAtomic w a.toNat b
  | 0x33 => s.rvVal rd (opReg w a b)
  | 0x37 => s.rvVal rd (some (signExt 32 (bitsTo w 12 20 12)))
  | 0x3B => s.rvVal rd (opReg32 w a b)
  | 0x43 => s.rvFp (h.fused w)
  | 0x47 => s.rvFp (h.fused w)
  | 0x4B => s.rvFp (h.fused w)
  | 0x4F => s.rvFp (h.fused w)
  | 0x53 => s.rvFp (h.opFp w)
  | 0x63 => (branchTaken f3 a b).map fun t => .run (if t then s.jump 0 (h.pc + immB w) else s.hartNext)
  | 0x67 => if f3 = 0 then some (.run (s.jump rd ((a + signExt 12 (fld w 20 12)) &&& ~~~1))) else none
  | 0x6F => some (.run (s.jump rd (h.pc + immJ w)))
  | 0x73 => if f3 = 0 then (s.priv w).map .run else rvCsr w a
  | _ => none

/-- The instruction of `word` at the pc, compressed where its low bits are not 11; an illegal one takes its exception. -/
def State.riscv (s : State) (word : Nat) : RvAct :=
  match (if word % 4 = 3 then some word else expandC word).bind s.rv with
  | some r => r
  | none => .run (s.illegal word)

end Sys2Proof.Machine
end

