-- ==== Sys2Proof/Machine/Fetch.lean ====
section
/-! DEFINITION. What a turn of the agenda runs (log 1, log 3): the conditions under which it runs, and the instruction it takes
from a rule slot, a dock queue or a hart's program; and the state with an instruction placed where the next step takes it
(log 19). -/

namespace Sys2Proof.Machine

/-- What a turn comes to: an instruction to execute in a state, or an outcome at once. -/
inductive Fetched where
  | run (i : Instr) (s : State)
  | done (o : Res)

/-! ## Rules -/

/-- R4, R68: whether slot `cur.j` fires now: it is among the slots the cycle takes and comes after those already fired. -/
def State.mayFire (s : State) : Bool :=
  match s.seg s.cur.n s.cur.k with
  | some g =>
    (s.isle s.cur.n).up && !g.clockHeld && (g.selected s.cur.p s.cur.e).contains s.cur.j &&
    (g.live.elem s.cur.p s.cur.e).cyc.fired.all fun j => decide (j < s.cur.j)
  | none => false

/-- The rule of slot `cur.j`. -/
def State.fetchRule (s : State) : Fetched :=
  if s.mayFire then
    match s.curElem.ruleAt s.cur.j with
    | some i => .run i s
    | none => .done (.fault .undecodable)
  else .done (.next s)

/-! ## Dock words -/

/-- R315: the word at HEAD of queue `cur.k`. -/
def State.fetchDock (s : State) : Fetched :=
  match s.dockRead with
  | .idle => .done (.next s)
  | .stop c => .done (.next (s.dockHalt c 0))
  | .word w v => .run (decodeDock w v) s

/-! ## A hart's program (R364, R367, R372, R380, R381) -/

/-- A single step of the debugger: the next instruction ends it. -/
def State.stepping (s : State) : State := s.onH fun h => if h.stepSt = 1 then { h with stepSt := 2 } else h

/-- What precedes the instruction at the pc: the hart does not execute, a single step is over, a WATCHDOG exception waits, or a
user-level trap is due. -/
def State.hartFirst (s : State) (f : State → Fetched) : Fetched :=
  if !s.hartUp then .done (.next s)
  else if s.h.stepSt = 2 then .done (.next (s.onH fun h => h.enterDebug 4))
  else match s.h.wdDue with
    | some c => .done (.next (s.stepping.watchdog c))
    | none => if s.trapDue && !s.futEmptyNext then .done (.next s) else f s.stepping

/-- A RISC-V instruction of `word`. Its memory accesses and the writes of UFSTATUS are instructions of the opcode table. -/
def State.runRiscv (s : State) (word : Nat) : Fetched :=
  match s.riscv word with
  | .mem op => .run (.hartLoadStore op) s
  | .run t => .done (.next t)
  | .csr num op v rd =>
    if num = 0x800 ∧ rd = 0 ∧ op ≠ .read then .run (.ufstatusRet (op.value (BitVec.ofNat 64 ((s.csrRead num).getD 0)) v)) s
    else .done (.next (s.csrInstr word num op v rd))

/-- The instruction at the pc (R53, R54, R364): a custom one, or one of the RISC-V specifications. -/
def State.fetchPc (s : State) : Fetched :=
  match s.hartFetch 2 with
  | .error t => .done (.next t)
  | .ok (w, t) =>
    if w % 4 ≠ 3 then { t with cur := { t.cur with x := 2 } }.runRiscv w
    else
      match s.hartFetch 4 with
      | .error t => .done (.next t)
      | .ok (w, s) =>
        let s : State := { s with cur := { s.cur with x := 0 } }
        match decodeSkerry w with
        | some i => .run i s
        | none => s.runRiscv w

/-- A hart's turn: a trigger on its pc, or the instruction there. -/
def State.fetchHart (s : State) : Fetched :=
  s.hartFirst fun s =>
    match s.h.trigAt 2 s.h.pc.toNat with
    | some i => .done (.next (s.trigger s.h.pc.toNat i))
    | none => s.fetchPc

/-- What a turn comes to in the state that holds its unit as `cur`. A turn for an event runs no instruction that has a word: those
come from rule slots, queues and programs only. -/
def State.fetch (s : State) (a : Act) : Fetched :=
  match a with
  | .fire => s.fetchRule
  | .clock => .done (.next s.clock)
  | .dock => s.fetchDock
  | .hart => s.fetchHart
  | .perform line => .done (.next (s.performLine s.cur.p s.cur.j line))
  | .copyRead upTo => .done (.next (s.copyReadTurn upTo))
  | .event (.hartLoadStore _) => .done (.next s)
  | .event (.ufstatusRet _) => .done (.next s)
  | .event i => if (encode i).isSome then .done (.next s) else .run i s
  | .intr => .done (.next s.interrupt)
  | .array x corrected => .done (.next (s.arrayError x corrected))
  | .pass d => .done (.next (s.pass d))

/-! ## Placing an instruction (log 19) -/

/-- A data token of the bench: zero lanes, tag 0 present. -/
def Token.bench : Token := ({ Token.blank with seqv := true } : Token).sealed

/-- The configuration of the bench: every out-channel leads to the same in-channel of the next element. -/
def Cfg.bench : Cfg :=
  { route := [0x2400, 0x2500, 0x2600, 0x2700], yt := List.replicate 8 0, ltype := List.replicate 8 0
    ctr := List.replicate 2 ⟨true, false, 0, 0, 2, 2, none, none, 2, 2⟩
    agc := List.replicate 2 ⟨true, 0, 64, 0⟩
    fchain := List.replicate 32 0, mreset := 0, ii := 1, pace := 0, ten := 0, frm := 0, ftz := false }

/-- An element image with one rule word, in slot 0, under guards that ask for a data token on every in-channel and a free slot of
every out-channel (R33). -/
def ElemImg.bench (w : Nat) : ElemImg :=
  { rules := BitVec.ofNat 32 w :: List.replicate 31 0xFC000000, guards := List.replicate 32 0xFF000000
    conf := List.replicate 32 0, consts := List.replicate 8 0, cfg := Cfg.bench, raw := [] }

/-- The segment of the bench: one virtual stripe with the rule in element 0 and nothing in element 1. -/
def Image.bench (w : Nat) : Image :=
  { (default : Image) with
    nstripe := 1, runmax := 1, stateful := [false]
    stripes := [⟨3, 0, [], ElemImg.bench w :: List.replicate 15 (ElemImg.bench 0xFC000000)⟩] }

/-- Element 0 of the bench: tokens on its in-channels, a full B stage of which one token's group is assigned, the plane tiles in
FP8 (R165). -/
def Elem.bench (e : Elem) : Elem :=
  { e with
    inq := List.replicate 4 [.tok Token.bench]
    stage := ⟨Token.bench, some 0, false, false⟩ :: List.replicate 31 ⟨Token.bench, none, false, false⟩
    planes := e.planes.map fun (p : PlaneTile) => { p with fmt := 4 } }

/-- The bench segment on a ring of 24 stripes, its wire set. -/
def Seg.bench (w : Nat) : Seg :=
  let g : Seg := { (default : Seg) with id := 1, image := Image.bench w, runs := [⟨0, 0, 1⟩], runsDealt := 1 }
  let g := g.window 24 0
  let c := g.live.onStripe 0 fun st => { st.onElem 0 Elem.bench with wire := true }
  { g with live := c, start := c }

/-- Isle 0 released. -/
def State.released (s : State) : State := { s.onIsle 0 fun i => { i with up := true } with powered := true }

/-- A unit of isle 0 has the next turn. -/
def State.turnOf (s : State) (k : Nat) (a : Act) : State := { s with agenda := ⟨⟨0, k, 0, 0, 0, 0⟩, a⟩ :: s.agenda }

/-- A rule word in slot 0 of element 0 of the bench segment, on ring 0 of isle 0. -/
def State.placeRule (s : State) (w : Nat) : State :=
  (s.released.onRing 0 0 fun r => { r with stripes := 24, seg := some (Seg.bench w) }).turnOf 0 .fire

/-- A skerry word at the pc of hart 0 of isle 0, in M-mode without an episode, protection or triggers. -/
def State.placeHart (s : State) (w : Nat) : State :=
  let s := s.released.onHart 0 0 fun h =>
    { h with pc := 0x1000, mode := .m, halted := false, futld := none, epi := none, stepSt := 0, mseccfg := 0, pmp := [], trigs := [] }
  (({ s with pois := s.pois.filter fun u => u / 64 != 0x40 }.setBytes 0x1000 (leBytes 4 w)).onIsle 0 fun i =>
    { i with sk := i.sk.filter fun l => l.pa != 0x1000 }).turnOf 0 .hart

/-- R338: a queue type that executes an operation, by its code: a copy queue for COPYQ. -/
def benchType (op : Nat) : BitVec 2 := if op = 5 then 1 else 0

/-- A dock instruction of `len` words at HEAD of the queue that its first word names, on isle 0. -/
def State.placeDock (s : State) (len w : Nat) : State :=
  let q := fld w 52 4
  let s := s.released.onQueue 0 q fun x =>
    { x with ty := benchType (fld w 56 8), en := true, base := 0x2000, limit := 0x3000, head := 0x2000, tail := 0x2000 + 8 * len,
             halt := false, wait := false, out := none, answer := none, work := 0 }
  ({ s with pois := s.pois.filter fun u => u / 64 != 0x80 }.setBytes 0x2000 (leBytes (8 * len) w)).turnOf q .dock

/-- An instruction word of the opcode table placed where the next step takes it; a word that decodes to none is placed where a rule
stands. -/
def State.placeWord (s : State) (nbits w : Nat) : State :=
  if nbits = 64 then s.placeDock 1 (w % 2 ^ 64)
  else if nbits = 128 then s.placeDock 2 (w % 2 ^ 128)
  else
    let w := w % 2 ^ 32
    match decodeSkerry w with
    | some (.skerryIllegalInstruction _) =>
      (match decodeRule w with
      | .ok _ => s.placeRule w
      | .error _ => s.placeHart w)
    | some _ => s.placeHart w
    | none => s.placeRule w

end Sys2Proof.Machine
end

