-- ==== Sys2Proof/Machine/Step.lean ====
section
/-! DEFINITION. One step of the panel (log 1): the first turn of the agenda, or a unit of panel time when there is none
(log 2). -/

namespace Sys2Proof.Machine

/-- One step. -/
def step (s : State) : Host.Outcome State Fault Refusal :=
  match s.agenda with
  | [] => .next (s.pass 1)
  | t :: r =>
    match State.fetch { s with agenda := r, cur := t.cur } t.act with
    | .run i s => exec i s
    | .done o => o

/-- The state with an instruction word placed where the next step fetches it. -/
def State.withFetchWord (s : State) (nbits w : Nat) : State := s.placeWord nbits w

end Sys2Proof.Machine
end

