-- ==== Sys2Proof/Safety.lean ====
section
/-! DEFINITION. What a safe state of the panel is, and the terms in which the claims speak of units, of what a step leaves alone
and of what a token-control or vector rule may change. -/

namespace Sys2Proof.Machine

/-- Memory stands in its canonical form (log 5). -/
def State.Safe (s : State) : Prop := Memory.wf s.mem = true

/-- A step that does not stop and leaves a safe state. -/
def SafeStep (s : State) : Prop := ∃ t, step s = .next t ∧ t.Safe

/-! ## The units of a step -/

/-- The isle of the step exists. -/
def State.HasIsle (s : State) : Prop := s.cur.n < s.isles.length

/-- The ring of the step exists and holds a segment. -/
def State.HasSeg (s : State) : Prop :=
  s.HasIsle ∧ s.cur.k < (s.isle s.cur.n).rings.length ∧ (s.seg s.cur.n s.cur.k).isSome = true

/-- The stripe and the element of the step exist, with sixteen registers, eight predicates and two counters. -/
def State.HasElem (s : State) : Prop :=
  s.HasSeg ∧ s.cur.p < (s.segD s.cur.n s.cur.k).live.stripes.length ∧
  s.cur.e < ((s.segD s.cur.n s.cur.k).live.stripe s.cur.p).elems.length ∧
  s.liveElem.v.length = 16 ∧ s.liveElem.pred.length = 8 ∧ s.liveElem.ctr.length = 2

/-- The hart of the step exists, with 32 registers. -/
def State.HasHart (s : State) : Prop := s.HasIsle ∧ s.cur.e < (s.isle s.cur.n).harts.length ∧ s.h.x.length = 32

/-- The dock queue of the step exists. -/
def State.HasQueue (s : State) : Prop := s.HasIsle ∧ s.cur.k < (s.isle s.cur.n).queues.length

/-! ## What a step leaves alone -/

/-- Nothing outside the segment of the step differs: memory, its marks, the other segments, the harts, the queues, the harbours. -/
def SegOnly (s u : State) : Prop := ∃ f : Seg → Seg, u = s.onCurSeg f

/-- All of memory reads as before, with its poison and presence. -/
def SameMemory (s u : State) : Prop := (∀ a, u.byte a = s.byte a) ∧ u.pois = s.pois ∧ u.full = s.full

/-- The token-control rules (majors 0x00 to 0x12) and the vector rules (majors 0x13 to 0x5C). -/
def tokenOrVector (i : Instr) : Bool :=
  match encode i with
  | some (32, w) => decide (fld w 19 7 ≤ 0x5C) && (ruleInfo i).isSome
  | _ => false

/-! ## The result of a rule -/

/-- None of the operands is a null token (R70). -/
def NoNull (s : State) (codes : List Nat) : Prop := ∀ c ∈ codes, (s.view.src c).null = false

/-- R67, R111: register `d` of the element holds the lanes that the mask selects of `lane` and its old lanes elsewhere, with the
poison and the sequence tag of the operands and, under a mask, its old poison; it is present and written. -/
def RegHolds (s u : State) (d m : Nat) (vs : List Val) (pois : Bool) (lane : Nat → W) : Prop :=
  (∀ k, k < 16 → (u.liveElem.vreg d).lanes.get k = if tb (s.view.maskBits m) k then lane k else (s.view.vreg d).lanes.get k) ∧
  (u.liveElem.vreg d).pres = true ∧ (u.liveElem.vreg d).wr = true ∧
  (u.liveElem.vreg d).pois = (pois || (s.view.maskBits m != 0xFFFF && (s.view.vreg d).pois)) ∧
  ((u.liveElem.vreg d).seqv, (u.liveElem.vreg d).seq) = outTag vs

/-- R62 to R65: a data token with these lanes, the type of out-channel `k`, the operands' poison and tag and a good check value has
entered the arc of that channel, and nothing else differs from `pre`. -/
def TokenSent (s pre u : State) (k : Nat) (vs : List Val) (pois : Bool) (lane : Nat → W) : Prop :=
  ∃ tok : Token, tok.kind = .data ∧ (∀ j, j < 16 → tok.lanes.get j = lane j) ∧ tok.ty = s.view.outType k ∧ tok.poison = pois ∧
    (tok.seqv, tok.seq) = outTag vs ∧ tok.chkOk = true ∧
    u = pre.onCurSeg fun g => g.put s.cur.p s.cur.e k (.tok tok)

/-- A result put to the destination code `d`: a register under a mask, an out-channel, or nowhere. `pre` is the state in which the
rule has consumed its operands. -/
def Writes (s pre u : State) (d m : Nat) (vs : List Val) (pois : Bool) (lane : Nat → W) : Prop :=
  (d < 16 → RegHolds s u d m vs pois lane) ∧ (20 ≤ d → d < 24 → TokenSent s pre u (d - 20) vs pois lane) ∧
  (¬d < 16 → ¬(20 ≤ d ∧ d < 24) → u = pre)

/-- R62, R63, R70, R94: a null token with this tag and poison has entered the arc of out-channel `k`, and nothing else differs from
`pre`. -/
def NullSent (s pre u : State) (k : Nat) (tag : Bool × W16) (pois : Bool) : Prop :=
  ∃ tok : Token, tok.kind = .null ∧ tok.lanes = Lanes.zero ∧ tok.poison = pois ∧ tok.ty = s.view.outType k ∧
    (tok.seqv, tok.seq) = (tag.1, if tag.1 then tag.2 else 0) ∧ tok.chkOk = true ∧
    u = pre.onCurSeg fun g => g.put s.cur.p s.cur.e k (.tok tok)

/-- R73, R98: a marker of a kind has entered the arc of out-channel `k`, and nothing else differs from `pre`. -/
def MarkerSent (s pre u : State) (k : Nat) (kind : Kind) : Prop :=
  ∃ tok : Token, tok.kind = kind ∧ tok.lanes = Lanes.zero ∧ tok.poison = false ∧ tok.seqv = false ∧ tok.seq = 0 ∧ tok.chkOk = true ∧
    u = pre.onCurSeg fun g => g.put s.cur.p s.cur.e k (.tok tok)

/-- R75, R395: the firing rule, which reads `rds`, does nothing but raise a fault of this kind and cause; a head that fails its check
is noted all the same (R419). -/
def RuleFault (s u : State) (rds : List Rd) (kind cause : Nat) : Prop :=
  ∃ r : Rec, r.kind = kind ∧ r.cause = cause ∧ r.vs = (s.segD s.cur.n s.cur.k).vsAt s.cur.p ∧ r.elem = s.cur.e ∧ r.slot = s.cur.j ∧
    u = (s.markFired rds).faultRule r

/-- R90, R112: the registers, predicates, counters, generators, tiles and sequence state of the element are as they were; the
presence of a register that the guard tests may go (R67). -/
def ElemKept (s u : State) : Prop :=
  (∀ r, (u.liveElem.vreg r).val = (s.liveElem.vreg r).val) ∧ u.liveElem.pred = s.liveElem.pred ∧ u.liveElem.ctr = s.liveElem.ctr ∧
  u.liveElem.gen = s.liveElem.gen ∧ u.liveElem.planes = s.liveElem.planes ∧ u.liveElem.acc = s.liveElem.acc ∧
  u.liveElem.nextSeq = s.liveElem.nextSeq ∧ u.liveElem.reord = s.liveElem.reord ∧ u.liveElem.holdLeft = s.liveElem.holdLeft

/-- R123: predicate `d` of the element. -/
def PredIs (u : State) (d : Nat) (f : Nat → Bool) : Prop := ∀ k, k < 16 → tb (u.liveElem.predBits d) k = f k

/-- R126: the width that a bit field control selects. -/
def fieldWidth (c : Nat) : Nat := min (min (fld c 5 6) 32) (32 - c % 32)

/-! ## Integer rules (R115 to R131) -/

/-- A rule of format A with two operands completes and writes, in each lane, `f` of its operands' lanes, the vector unit then busy for
`busy` cycles (R111, R113). -/
def LaneRule (mk : BitVec 6 → FmtABM → Instr) (busy : Nat) (f : W → W → W) : Prop :=
  ∀ (t : BitVec 6) (o : FmtABM) (s : State), s.HasElem → NoNull s [o.a.toNat, o.b.toNat] →
    ∃ u, exec (mk t o) s = .next u ∧
      (let va := s.view.src o.a.toNat
       let vb := s.view.src o.b.toNat
       Writes s ((s.begin t [rd o.a o.ka, rd o.b o.kb]).vecBusy busy) u o.d.toNat o.m.toNat [va, vb] (va.pois || vb.pois)
         fun k => f (va.lanes.get k) (vb.lanes.get k))

/-- R123: a compare completes and writes `f` of its operands' lanes to every bit of its predicate. -/
def CompareRule (mk : BitVec 6 → FmtPB → Instr) (f : W → W → Bool) : Prop :=
  ∀ (t : BitVec 6) (o : FmtPB) (s : State), s.HasElem → NoNull s [o.a.toNat, o.b.toNat] →
    ∃ u, exec (mk t o) s = .next u ∧
      PredIs u o.d.toNat fun k => f ((s.view.src o.a.toNat).lanes.get k) ((s.view.src o.b.toNat).lanes.get k)

/-! ## Floating-point rules (R139 to R156) -/

/-- R139, R141, R143: the instruction computes `res` lane by lane, ORs in the flags of the lanes written, poisons its output where an
enabled one was raised, and advances the SR generators where it rounds. -/
def FloatGives (i : Instr) (s : State) (t : BitVec 6) (rds : List Rd) (d m busy : Nat) (rounds : Bool) (res : List Val → Nat → FRes) : Prop :=
  NoNull s (rds.map (·.code)) →
  (let vs := rds.map fun r => s.view.src r.code
   let fl := fun k => (res vs k).2
   ∃ x, exec i s = .next (x.srAdvance rounds) ∧
     Writes s (((s.begin t rds).vecBusy busy).arith (anyPoison vs) (s.writtenLanes d m) fl) x d m vs
       (anyPoison vs || s.traps (anyPoison vs) (s.writtenLanes d m) fl) fun k => BitVec.ofNat 32 (res vs k).1)

/-- Lane `k` of operand `n`. -/
def opLane (vs : List Val) (n k : Nat) : Nat := ((nth default vs n).lanes.get k).toNat

/-- R146, R147: a floating-point rule with two operands computes `f` lane by lane in the element's mode. -/
def Float2 (mk : BitVec 6 → FmtABM → Instr) (f : RMode → Nat → Nat → FRes) (busy : Nat) (rounds : Bool) : Prop :=
  ∀ (t : BitVec 6) (o : FmtABM) (s : State), s.HasElem →
    FloatGives (mk t o) s t [rd o.a o.ka, rd o.b o.kb] o.d.toNat o.m.toNat busy rounds
      fun vs k => f (s.rmode k) (opLane vs 0 k) (opLane vs 1 k)

/-- R146, R151: a floating-point rule with one operand. -/
def Float1 (mk : BitVec 6 → FmtAM → Instr) (f : RMode → Nat → FRes) (busy : Nat) : Prop :=
  ∀ (t : BitVec 6) (o : FmtAM) (s : State), s.HasElem →
    FloatGives (mk t o) s t [rd o.a o.ka] o.d.toNat o.m.toNat busy true fun vs k => f (s.rmode k) (opLane vs 0 k)

/-- R146: a fused rule, which reads its destination. -/
def Float3 (mk : BitVec 6 → FmtVBM → Instr) (f : RMode → Nat → Nat → Nat → FRes) : Prop :=
  ∀ (t : BitVec 6) (o : FmtVBM) (s : State), s.HasElem →
    FloatGives (mk t o) s t [rd o.a o.ka, rd o.b o.kb, rdV o.d] o.d.toNat o.m.toNat 0 true
      fun vs k => f (s.rmode k) (opLane vs 0 k) (opLane vs 1 k) (opLane vs 2 k)

/-- R149: a floating-point compare. -/
def FloatCompare (mk : BitVec 6 → FmtPB → Instr) (f : Bool → Nat → Nat → Bool × Nat) : Prop :=
  ∀ (t : BitVec 6) (o : FmtPB) (s : State), s.HasElem → NoNull s [o.a.toNat, o.b.toNat] →
    ∃ u, exec (mk t o) s = .next u ∧
      PredIs u o.d.toNat fun k => (f s.view.img.cfg.ftz (opLane [s.view.src o.a.toNat] 0 k) (opLane [s.view.src o.b.toNat] 0 k)).1

/-! ## Tiles, requests and updates -/

/-- Sixteen plane tiles of 512 values and eight accumulator tiles of 256 stand in the element of the step (R159, R175). -/
def State.HasTiles (s : State) : Prop :=
  s.HasElem ∧ s.liveElem.planes.length = 16 ∧ s.liveElem.acc.length = 8 ∧ (∀ x ∈ s.liveElem.planes, x.vals.length = 512) ∧
  ∀ x ∈ s.liveElem.acc, x.vals.length = 256

/-- R158: the occupancy of a dense MMA by the type of its plane tile. -/
def denseOccupancy : List (Nat × Nat) := [(2, 32), (3, 48), (4, 16), (5, 16), (6, 16), (7, 16), (8, 8), (10, 32)]

/-- The wharf of the stripe of the step has its four chains (R202). -/
def State.HasWharf (s : State) : Prop := s.HasElem ∧ (s.wharf s.cur.p).chains.length = 4

/-- R202 to R205: the firing rule has entered one request at the end of its chain, under the segment's next request number and with
its own element, slot, run, invocation and cycle; a reply that is awaited stands in the list of replies, and its register is not
present until it lands. No memory, no other chain and no value of a register has changed. -/
def Queued (s u : State) (q : Req) : Prop :=
  SegOnly s u ∧ SameMemory s u ∧
  nth [] (u.wharf s.cur.p).chains q.chain = nth [] (s.wharf s.cur.p).chains q.chain ++ [q] ∧
  (∀ c, c ≠ q.chain → nth [] (u.wharf s.cur.p).chains c = nth [] (s.wharf s.cur.p).chains c) ∧
  q.no = (s.segD s.cur.n s.cur.k).no ∧ (u.segD s.cur.n s.cur.k).no = q.no + 1 ∧ q.ck = (s.segD s.cur.n s.cur.k).sck ∧
  q.elem = s.cur.e ∧ q.slot = s.cur.j ∧ q.run = s.curElem.erun ∧ q.ord = s.curElem.ord.toNat ∧ q.held = false ∧
  (u.wharf s.cur.p).pend =
    (if q.dest = .none then (s.wharf s.cur.p).pend
     else (s.wharf s.cur.p).pend ++ [⟨q.no, q.elem, q.dest, q.op.isRead, q.null, none⟩]) ∧
  (∀ d, d < 16 → q.dest = .vreg d → q.null = false → (u.liveElem.vreg d).pres = false) ∧
  (∀ r, (u.liveElem.vreg r).val = (s.liveElem.vreg r).val) ∧ u.liveElem.pred = s.liveElem.pred

/-- The operands of a request: the null effect and the tag that they give its reply (R63, R204). -/
def Req.Of (q : Req) (vs : List Val) : Prop := q.null = vs.any (·.null) ∧ (q.seqv, q.seq) = outTag vs

/-- R29: the destinations of a reply. -/
def replyTo (d : Nat) : Dest := if d < 16 then .vreg d else if 20 ≤ d ∧ d < 24 then .out (d - 20) else .none

/-- The lanes of a request equal those of an operand. -/
def SameLanes (l : Lanes) (v : Val) : Prop := ∀ k, k < 16 → l.get k = v.lanes.get k

/-- R260, R261: the value that an integer update leaves in a word that held `x`, given the operand `v`. -/
def updateTable : List (Nat × (W → W → W)) :=
  [ (0, fun x v => BitVec.ofNat 32 (x.toNat + v.toNat)), (1, fun x v => if x.toInt ≤ v.toInt then x else v),
    (2, fun x v => if v.toInt ≤ x.toInt then x else v), (3, fun x v => if x.toNat ≤ v.toNat then x else v),
    (4, fun x v => if v.toNat ≤ x.toNat then x else v), (5, fun x v => BitVec.ofNat 32 (x.toNat &&& v.toNat)),
    (6, fun x v => BitVec.ofNat 32 (x.toNat ||| v.toNat)), (7, fun x v => BitVec.ofNat 32 (x.toNat ^^^ v.toNat)), (8, fun _ v => v),
    (13, fun x v => if v.toNat ≤ x.toNat then 0 else BitVec.ofNat 32 (x.toNat + 1)) ]

/-! ## Wharves, ports and copies at work -/

/-- These writes and no others: every byte reads as the last of them left it, and one that none names reads as before. -/
def Wrote (s u : State) (cells : List Host.Cell) : Prop := ∀ x, u.byte x = (lastAt x cells).getD (s.byte x)

/-- The form of memory holds, and no unit that these writes touch is poisoned (R423, R424). -/
def State.Clean (s : State) (cells : List Host.Cell) : Prop := Memory.wf s.mem = true ∧ ∀ c ∈ cells, s.isPois c.1 = false

/-- R205: the reply of request `no` of the wharf on stripe `p` is known, and `P` holds of it. -/
def Answered (s u : State) (p no : Nat) (P : Token → Prop) : Prop :=
  ∀ x ∈ (s.wharf p).pend, x.no = no → ∃ y ∈ (u.wharf p).pend, y.no = no ∧ y.elem = x.elem ∧ y.dest = x.dest ∧
    ∃ t due, y.got = some (t, due) ∧ P t

/-- The request is no longer in its chain. -/
def OutOfChain (u : State) (p : Nat) (q : Req) : Prop := ∀ x ∈ nth [] (u.wharf p).chains q.chain, x.no ≠ q.no

/-- R203, R213: request `q` heads its chain and may issue, its operands neither null nor poisoned and its accesses legal. -/
def State.Issues (s : State) (q : Req) : Prop :=
  s.issuable s.cur.p s.cur.j = some q ∧ s.behindRelatch s.cur.n (s.segD s.cur.n s.cur.k) q = false ∧ s.slotsOk q = true ∧
  q.null = false ∧ q.apois = false ∧ q.dpois = false ∧ (s.segD s.cur.n s.cur.k).failing s.cur.n q = []

/-- R203, R236: `q` issues and is performed in the same step: what it touches lies in one line, nothing of its chain is on its way to
the bank of that line, and the step does not leave it in flight. -/
def State.IssuesWhole (s : State) (q : Req) : Prop :=
  s.Issues q ∧ s.atOnce s.cur.p q (s.issueLines (s.segD s.cur.n s.cur.k) s.cur.n q) = true

/-- What a load of one access, or of one lane, returns (R224): the bytes of memory at the access, little-endian. -/
def State.LoadedLane (s : State) (q : Req) (l : Lanes) : Prop :=
  (let g := s.segD s.cur.n s.cur.k
   ∀ a x, a ∈ q.accesses → g.extentOf a.reg a.off = some x → x.cmp = false →
     (let pa := paOf s.cur.n x.pbase + (a.off - x.roff)
      (q.sz = 0 → ∀ k, k < 16 → l.get k = BitVec.ofNat 32 (s.num (pa + 4 * k) 4)) ∧
      (q.sz ≠ 0 → l.get a.lane = BitVec.ofNat 32 (s.num pa a.size))))

/-- R276 to R278: bytes `off` up of copy `c` have been read and may land now, on memory of panels that answers and keeps nothing
compressed, whole elements of a scatter with them; the copy belongs to no barrier object and to no queue. -/
def State.LandsPlainly (s : State) (c : Copy) (off len : Nat) : Prop :=
  c.fresh off len = true ∧ c.wholeTo (off + len) ≤ c.read ∧ s.copyCut s.cur.n c = false ∧ s.copyImage s.cur.n c = none ∧
  s.wholeElems s.cur.n c off len = true ∧ c.obj = none ∧ c.queue = none ∧
  ∀ x ∈ s.landing s.cur.n c off len, x.2.cmp = false ∧ s.noReply x.2.pa = false ∧ paHost x.2.pa = false ∧ x.1.pois = false ∧
    ∀ a, x.1.src = some a → s.noReply a = false

/-- The bytes that a range of a copy writes, as they were read. -/
def State.copyCells (s : State) (c : Copy) (off len : Nat) : List Host.Cell :=
  (s.landing s.cur.n c off len).map fun x => (x.2.pa, x.1.v)

/-- R209: in-channel or out-channel place `at_` of a port exists. -/
def Core.HasPlace (c : Core) (x : Nat × Nat × Nat) : Prop :=
  x.1 < c.stripes.length ∧ x.2.1 < (c.stripe x.1).elems.length ∧ x.2.2 < (c.elem x.1 x.2.1).inq.length ∧
  x.2.2 < (c.elem x.1 x.2.1).oq.length

/-- R74: a token has entered the in-channel of an input port, and nothing outside the segment has changed. -/
def Delivered (s u : State) (x : Nat × Nat × Nat) (t : Token) : Prop :=
  SameMemory s u ∧ nth [] ((u.segD s.cur.n s.cur.k).live.elem x.1 x.2.1).inq x.2.2 =
    nth [] ((s.segD s.cur.n s.cur.k).live.elem x.1 x.2.1).inq x.2.2 ++ [.tok t]

/-- R211: the token at the head of an output port's out-channel is gone. -/
def TakenOut (s u : State) (x : Nat × Nat × Nat) : Prop :=
  nth [] ((u.segD s.cur.n s.cur.k).live.elem x.1 x.2.1).oq x.2.2 =
    (nth [] ((s.segD s.cur.n s.cur.k).live.elem x.1 x.2.1).oq x.2.2).drop 1

/-- R398: the segment of the step has one detected fault, of this kind and cause, and freezes. -/
def Detects (s u : State) (kind cause : Nat) : Prop :=
  ∃ r, (u.segD s.cur.n s.cur.k).recs = [r] ∧ r.kind = kind ∧ r.cause = cause ∧ (u.segD s.cur.n s.cur.k).frz.isSome = true

/-! ## Harts -/

/-- The hart of the step may execute an instruction of four bytes: its isle runs, no debugger halts it, nothing of its episode is
due, and no trap precedes it. -/
def State.HartReady (s : State) : Prop :=
  s.HasHart ∧ s.trapDue = false ∧ s.hartUp = true ∧ s.h.wdDue = none ∧ s.cur.x ≠ 2

/-- The hart of the step executes what stands at its pc: it is up, no single step of the debugger is over, no WATCHDOG waits, no
user-level trap is due but a FUTEMPTY, and no trigger matches the pc. -/
def State.HartGoes (s : State) : Prop :=
  s.hartUp = true ∧ s.h.stepSt ≠ 2 ∧ s.h.wdDue = none ∧ (s.trapDue = false ∨ s.futEmptyNext = true) ∧
  s.stepping.h.trigAt 2 s.stepping.h.pc.toNat = none

/-- R364: the word at the pc of the hart of the step is `w`, of two bytes or of four, and its fetch leaves the state `t`, which holds
its length. -/
def State.FetchesWord (s : State) (w : Nat) (t : State) : Prop :=
  (∃ u, s.hartFetch 2 = .ok (w, u) ∧ w % 4 ≠ 3 ∧ t = { u with cur := { u.cur with x := 2 } }) ∨
  ∃ w2 u2 u, s.hartFetch 2 = .ok (w2, u2) ∧ w2 % 4 = 3 ∧ s.hartFetch 4 = .ok (w, u) ∧ t = { u with cur := { u.cur with x := 0 } }

/-- A hart past an instruction of `len` bytes that wrote `v` to register `d`; x0 stays 0, and the instruction counts as retired
(R364). -/
def Hart.stepTo (len : Nat) (d : BitVec 5) (v : W64) (h : Hart) : Hart :=
  { h.retired with pc := h.pc + BitVec.ofNat 64 len, x := if d = 0 then h.x else upd (fun _ => v) h.x d.toNat }

/-- The hart of the step may read (bit 0 of `need`) or write (bit 1) `len` aligned bytes at `va`, which stand in memory at `pa`, and
no trigger matches; the causes are those that a refusal would have (R364, R366, R379). -/
def State.Reaches (s : State) (va len need pf af pa : Nat) : Prop :=
  s.h.dataTrig need va = none ∧ va % len = 0 ∧ s.h.enclosed va len need = true ∧ s.reachOk va len need pf af = .pa pa ∧ pa % 64 = va % 64

/-- The same for a load, with the line not poisoned (R423). -/
def State.Readable (s : State) (va len pa : Nat) : Prop := s.Reaches va len 1 13 5 pa ∧ s.hartPois s.cur.n pa = false

/-- The same for a store. -/
def State.Writable (s : State) (va len pa : Nat) : Prop := s.Reaches va len 2 15 7 pa ∧ s.hartPois s.cur.n pa = false

/-- The hart of the step takes an exception in M-mode: the saved pc, cause, value and mode, no interrupts, the handler's address
(R367, log 7). -/
def TrapsToM (s u : State) (cause : Nat) (tval : W64) : Prop :=
  u = s.onH fun h => { h with
    mepc := s.h.pc, mcause := BitVec.ofNat 64 cause, mtval := tval, mpp := s.h.mode, mpie := s.h.mie, mie := false, mode := .m,
    pc := BitVec.ofNat 64 (s.h.mtvec.toNat / 4 * 4), resv := none, futld := none }

/-- The hart of the step takes an exception in S-mode, the cause being delegated. -/
def TrapsToS (s u : State) (cause : Nat) (tval : W64) : Prop :=
  u = s.onH fun h => { h with
    sepc := s.h.pc, scause := BitVec.ofNat 64 cause, stval := tval, spp := s.h.mode, spie := s.h.sie, sie := false, mode := .s,
    pc := BitVec.ofNat 64 (s.h.stvec.toNat / 4 * 4), resv := none, futld := none }

/-- The hart of the step takes an exception where its mode and delegation send it. -/
def Traps (s u : State) (cause : Nat) (tval : W64) : Prop :=
  (s.h.mode = .m ∨ tb s.h.medeleg cause = false → TrapsToM s u cause tval) ∧
  (s.h.mode ≠ .m → tb s.h.medeleg cause = true → TrapsToS s u cause tval)

/-! ## Dock queues -/

/-- The word in execution belongs to the queue of the step, has no reserved bit set and waits for nothing (R50, R52, R316). -/
def State.DockReady (s : State) (w : DockW) : Prop :=
  s.HasQueue ∧ w.rsv = 0 ∧ w.queue.toNat = s.cur.k ∧ (w.sync = false ∨ s.q.infl = 0)

/-- What the word in execution has gathered is gone. -/
def Queue.Idle (q : Queue) : Prop := q.wait = false ∧ q.out = none ∧ q.answer = none ∧ q.work = 0

/-- R317: the queue of the step halts with this cause and detail, HEAD where it was, and nothing else happens. -/
def Halts (s u : State) (cause detail : Nat) : Prop :=
  u = s.onQ fun q => { q with wait := false, out := none, answer := none, work := 0, halt := true, cause := cause, detail := detail }

/-- R315: the queue of the step has HEAD past a word of `n` words, and is as it was but for what the word had gathered. -/
def HeadPast (s u : State) (n : Nat) : Prop :=
  u.q = { s.q with wait := false, out := none, answer := none, work := 0, head := s.q.head + 8 * n }

/-- R316: the queue of the step waits at its word, and nothing else happens. -/
def WaitsAt (s u : State) : Prop := u = s.onQ fun q => { q with wait := true }

/-- The dock words, each with a second word where it has one. -/
def dockWords (w : DockW) (v : W64) : List Instr :=
  [.launch w, .waitge w v, .signal w v, .semset w v, .copyq w, .jmp w, .loop w, .irq w, .dfence w, .prio w, .handoff w v, .balloc w v,
   .bfree w, .flushr w, .invr w, .fwdr w, .dhalt w]

end Sys2Proof.Machine
end

