-- ==== Sys2Proof/Certificates/Slice0/Obligations.lean ====
section
/-! DEFINITION. What is claimed of the model: each obligation states a rule of the spec, or what follows from its sections, about
the instructions and the units named in it. -/

open Sys2Proof Sys2Proof.Machine

/-- R4, R52, R53, R315, R364, R367 (log 1): a step takes the first turn of the agenda. Where the unit of the turn may act, the step is
`exec` of the instruction that its rule slot, its queue or its program holds; where it may not, the turn passes and nothing happens. A
hart's turn runs the word at its pc: a custom instruction, a memory access, a write of UFSTATUS, or another instruction of the RISC-V
specifications. A turn for an event that has no word is `exec` of the event. Clocks, lines of requests in flight, copies, interrupts, errors of
arrays and panel time have turns of their own. With no turn waiting, panel time passes (log 2, the model's choice). -/
def Obligations.StepRunsTheDecodedInstruction : Prop :=
  ∀ (s : State) (c : Cur) (r : List Turn),
    (let at_ := { s with agenda := r, cur := c }
     (∀ i, s.agenda = ⟨c, .fire⟩ :: r → at_.mayFire = true → decodeRule (nth 0 at_.curElem.img.rules c.j).toNat = .ok i →
       step s = exec i at_) ∧
     (s.agenda = ⟨c, .fire⟩ :: r → at_.mayFire = false → step s = .next at_) ∧
     (∀ w v, s.agenda = ⟨c, .dock⟩ :: r → at_.dockRead = .word w v → step s = exec (decodeDock w v) at_) ∧
     (s.agenda = ⟨c, .dock⟩ :: r → at_.dockRead = .idle → step s = .next at_) ∧
     (∀ w t, s.agenda = ⟨c, .hart⟩ :: r → at_.HartGoes → at_.stepping.FetchesWord w t →
       (∀ i, t.cur.x = 0 → decodeSkerry w = some i → step s = exec i t) ∧
       ((t.cur.x = 2 ∨ decodeSkerry w = none) →
         (∀ op, t.riscv w = .mem op → step s = exec (.hartLoadStore op) t) ∧
         (∀ u, t.riscv w = .run u → step s = .next u) ∧
         (∀ num op v rd, t.riscv w = .csr num op v rd →
           (num = 0x800 ∧ rd = 0 ∧ op ≠ .read → ∀ old, t.csrRead num = some old →
             step s = exec (.ufstatusRet (op.value (BitVec.ofNat 64 old) v)) t) ∧
           (¬(num = 0x800 ∧ rd = 0 ∧ op ≠ .read) → step s = .next (t.csrInstr w num op v rd))))) ∧
     (s.agenda = ⟨c, .hart⟩ :: r → at_.hartUp = false → step s = .next at_) ∧
     (∀ i, s.agenda = ⟨c, .event i⟩ :: r → encode i = none → (∀ op, i ≠ .hartLoadStore op) → (∀ v, i ≠ .ufstatusRet v) →
       step s = exec i at_) ∧
     (∀ i, s.agenda = ⟨c, .event i⟩ :: r → ((encode i).isSome = true ∨ (∃ op, i = .hartLoadStore op) ∨ ∃ v, i = .ufstatusRet v) →
       step s = .next at_) ∧
     (s.agenda = ⟨c, .clock⟩ :: r → step s = .next at_.clock) ∧
     (∀ l, s.agenda = ⟨c, .perform l⟩ :: r → step s = .next (at_.performLine c.p c.j l)) ∧
     (∀ hi, s.agenda = ⟨c, .copyRead hi⟩ :: r → step s = .next (at_.copyReadTurn hi)) ∧
     (s.agenda = ⟨c, .intr⟩ :: r → step s = .next at_.interrupt) ∧
     (∀ x fixed, s.agenda = ⟨c, .array x fixed⟩ :: r → step s = .next (at_.arrayError x fixed)) ∧
     (∀ d, s.agenda = ⟨c, .pass d⟩ :: r → step s = .next (at_.pass d)) ∧
     (s.agenda = [] → step s = .next (s.pass 1)))

/-- R13, R87, R191, R207, R221, R287, R312, R314, R319, R368, R374, R441, R445, R449, R451, R482, R488, R489, R493, R498: what reset leaves, where the
spec gives the value. Every isle is held, panel time is 0, no lagoon granule is full and nothing is poisoned; each register of an isle's
blocks holds its reset value. -/
def Obligations.ResetState : Prop :=
  let s := State.reset
  s.pt = 0 ∧ s.full = [] ∧ s.pois = [] ∧ s.accReset = [] ∧ s.isles.length = 40 ∧ Memory.wf s.mem = true ∧
  s.ports.length = 16 ∧ (∀ k, k < 16 → (s.port k).up = false ∧ (s.port k).bridge = false ∧ (s.port k).retry = 0 ∧
    (s.port k).dbdrop = 0 ∧ (s.port k).irqdrop = 0) ∧
  ∀ n, n < 40 →
    (let i := s.isle n
     i.no = n ∧ i.up = false ∧ i.rings.length = 6 ∧ i.queues.length = 16 ∧ i.harts.length = 16 ∧ i.mbx.length = 256 ∧
     i.handlers.length = 64 ∧ i.bps.length = 8 ∧ i.hb.sem.length = 256 ∧
     (∀ k, k < 6 → (i.ring k).built = 34 ∧ (i.ring k).disabled = 0 ∧ (i.ring k).log2t = 20 ∧ (i.ring k).seg = none) ∧
     (∀ k, k < 16 → (i.queue k).en = false ∧ (i.queue k).ty = 0 ∧ (i.queue k).tenant = 0 ∧ (i.queue k).maxprio = 0 ∧
       (i.queue k).base = 0 ∧ (i.queue k).limit = 0 ∧ (i.queue k).head = 0 ∧ (i.queue k).tail = 0 ∧ (i.queue k).halt = false ∧
       (i.queue k).cause = 0 ∧ (i.queue k).infl = 0 ∧ (i.queue k).cap = 0 ∧ (i.queue k).lc = 0 ∧ (i.queue k).laddr = 0) ∧
     (∀ k, k < 256 → nth 0 i.hb.sem k = 0) ∧ i.hb.bpCount = 0 ∧ i.hb.ctxSlots = 0 ∧ i.hb.prqLog2n = 4 ∧ i.hb.tasks = [] ∧
     i.hb.relatch.act = none ∧ (∀ k, k < 4 → (nth default i.hb.promo k).state = 0) ∧
     i.ferry.ftout = 100000 ∧ i.ferry.faults = 0 ∧ i.ferry.copies = [] ∧ i.ferry.hpcThr = 0 ∧ i.ferry.hpcLog2n = 4 ∧
     i.colTout = 1000000 ∧ i.vchg = 0 ∧ i.pview.num = 1 ∧ i.sview.num = 1 ∧ i.pview.st = .stable ∧ i.sview.st = .stable ∧ i.ops = [] ∧ (∀ k, k < 16 → (i.comm k).en = false ∧ (i.comm k).imask = 0 ∧ (i.comm k).pmask = 0) ∧
     (∀ e, e < 16 → (i.hart e).sftEn = false ∧ (i.hart e).sftHnd = false ∧ (i.hart e).sftTenant = 0 ∧ (i.hart e).ie = false ∧
       (i.hart e).pie = false ∧ (i.hart e).uftvec = 0 ∧ (i.hart e).ufcause = 0 ∧ (i.hart e).ufepc = 0 ∧ (i.hart e).uftval = 0 ∧
       (i.hart e).ufscratch = 0) ∧
     (∀ m, m < 256 → (i.mailbox m).en = false ∧ (i.mailbox m).act = [] ∧ (i.mailbox m).obs = [] ∧ (i.mailbox m).open_ = false ∧
       (i.mailbox m).cur = none ∧ (i.mailbox m).next = none ∧ (i.mailbox m).ostep = 0xFFFFFFFF ∧ (i.mailbox m).astep = 0xFFFFFFFF) ∧
     (∀ t, t < 64 → (nth default i.handlers t).en = false ∧ (nth default i.handlers t).core = 0) ∧
     i.cont.replayTry = 1 ∧ i.cont.spareInt = 4096 ∧ i.cont.spareOff = false ∧ i.cont.swin = 100000000 ∧ i.cont.vhold = 1000000000 ∧
     i.cont.steps = 0 ∧ i.cont.attempts = 0 ∧ (∀ a, a < 12 → nth 0 i.cont.thr a = 1000 ∧ nth 0 i.cont.ue a = 0 ∧ nth [] i.cont.ce a = []) ∧
     i.trace.en = false ∧ i.trace.dthr = 16 ∧ i.trace.log.log2n = 7 ∧ i.trace.log.tail = 0 ∧ i.trace.log.head = 0 ∧ i.trace.tsamp = 0 ∧
     (∀ b, b < 8 → (nth default i.bps b).en = false ∧ (nth default i.bps b).hit = false) ∧
     i.dump.mem = true ∧ i.dump.state = 0 ∧ i.dump.cut = 0 ∧ i.dump.mask = 0 ∧
     (∀ k, k < 8 → nth [] i.mr k = List.replicate 32 0) ∧ (∀ t c, nth 0 (nth [] i.acct t) c = 0) ∧ i.throt = false ∧ i.throtCnt = 0 ∧
     s.regWord n 0x9000 = 0 ∧ s.regWord n 0x9008 = 0)

/-- R59, R180, R335, R361, R411 and the encoding tables: words written out from the spec's encodings decode to the instructions they stand
for. -/
def Obligations.WordsDecode : Prop :=
  decodeRule 0x0DF8A020 = .ok (.fadd 3 ⟨2, 16, 2, false, false, 0⟩) ∧
  decodeRule 0xFBC02E00 = .ok (.trap 0x3E 23) ∧
  decodeRule 0xFBC00602 = .ok (.mark 0x3E 3) ∧
  decodeRule 0xFBC18003 = .ok (.cyc 0x3E 6) ∧
  decodeRule 0xFC000000 = .error .emptySlot ∧
  decodeDock 0x0100004000100000 0 = .launch ⟨0, 0, false, 0x4000100000⟩ ∧
  decodeDock 0x0600000001000000 0 = .jmp ⟨0, 0, false, 0x1000000⟩ ∧
  decodeDock 0x0700000AFFFFFFFD 0 = .loop ⟨0, 0, false, 0xAFFFFFFFD⟩ ∧
  decodeSkerry 0x00B5000B = some (.mbxput 0 10 11) ∧
  decodeSkerry 0x0000D00B = some (.skerryIllegalInstruction 0x0000D00B)

/-- R24, R50, R53: decoding the encoding of a well-formed instruction gives it back, every operand at every value that its encoding
admits: a rule through the rule decoder, a custom instruction of a hart, or an illegal one, through the skerry decoder, and a dock word
with its second word through the dock decoder. -/
def Obligations.DecodeOfEncode : Prop :=
  ∀ (i : Instr) (nbits w : Nat), i.wf = true → encode i = some (nbits, w) →
    (nbits = 32 ∧ (ruleInfo i).isSome = true ∧ decodeRule w = .ok i) ∨
    (nbits = 32 ∧ ruleInfo i = none ∧ decodeSkerry w = some i) ∨
    (nbits = 64 ∧ decodeDock w 0 = i) ∨ (nbits = 128 ∧ decodeDock (w % 2 ^ 64) (w / 2 ^ 64) = i)

/-- R191 gives the address space; the form of memory is the model's choice (log 5), and every step keeps it: addresses strictly rising, and no entry equal to what an unlisted address reads as. -/
def Obligations.MemoryKeepsItsForm : Prop :=
  ∀ (s t : State), Memory.wf s.mem = true → step s = .next t → Memory.wf t.mem = true

/-- R115, R116, R118 to R121, with R111: ADD, SUB, ADDS, SUBS, MULL, MULH, MULHU, AND, OR, XOR, ANDN, SHL, SHR, SRA, MIN, MAX, MINU,
MAXU, DIVU and REMU complete and write this result in each lane, for every destination and mask; DIVU and REMU keep the vector unit busy
for 7 cycles, the others for none (R113). -/
def Obligations.IntegerLanes : Prop :=
  LaneRule .add 0 (fun a b => BitVec.ofNat 32 (a.toNat + b.toNat)) ∧
  LaneRule .sub 0 (fun a b => BitVec.ofInt 32 (a.toInt - b.toInt)) ∧
  LaneRule .adds 0 (fun a b => BitVec.ofInt 32 (max (-2147483648) (min 2147483647 (a.toInt + b.toInt)))) ∧
  LaneRule .subs 0 (fun a b => BitVec.ofInt 32 (max (-2147483648) (min 2147483647 (a.toInt - b.toInt)))) ∧
  LaneRule .mull 0 (fun a b => BitVec.ofNat 32 (a.toNat * b.toNat)) ∧
  LaneRule .mulh 0 (fun a b => BitVec.ofInt 32 (a.toInt * b.toInt / 2 ^ 32)) ∧
  LaneRule .mulhu 0 (fun a b => BitVec.ofNat 32 (a.toNat * b.toNat / 2 ^ 32)) ∧
  LaneRule .and_ 0 (fun a b => BitVec.ofNat 32 (a.toNat &&& b.toNat)) ∧
  LaneRule .or_ 0 (fun a b => BitVec.ofNat 32 (a.toNat ||| b.toNat)) ∧
  LaneRule .xor_ 0 (fun a b => BitVec.ofNat 32 (a.toNat ^^^ b.toNat)) ∧
  LaneRule .andn 0 (fun a b => BitVec.ofNat 32 (a.toNat &&& (2 ^ 32 - 1 - b.toNat))) ∧
  LaneRule .shl 0 (fun a b => BitVec.ofNat 32 (a.toNat * 2 ^ (b.toNat % 32))) ∧
  LaneRule .shr 0 (fun a b => BitVec.ofNat 32 (a.toNat / 2 ^ (b.toNat % 32))) ∧
  LaneRule .sra 0 (fun a b => BitVec.ofInt 32 (a.toInt / 2 ^ (b.toNat % 32))) ∧
  LaneRule .min_ 0 (fun a b => if a.toInt ≤ b.toInt then a else b) ∧
  LaneRule .max_ 0 (fun a b => if b.toInt ≤ a.toInt then a else b) ∧
  LaneRule .minu 0 (fun a b => if a.toNat ≤ b.toNat then a else b) ∧
  LaneRule .maxu 0 (fun a b => if b.toNat ≤ a.toNat then a else b) ∧
  LaneRule .divu 7 (fun a b => if b.toNat = 0 then 0xFFFFFFFF else BitVec.ofNat 32 (a.toNat / b.toNat)) ∧
  LaneRule .remu 7 (fun a b => if b.toNat = 0 then a else BitVec.ofNat 32 (a.toNat % b.toNat))

/-- R117, R126: MAD and BFI complete, reading and writing their destination register; BFX completes and extracts the field that the control
of its lane names.

R115, R120, R122, R124, R125: ADDI, SHI, ABS, CLZ, POPC, SEL, LI and LUI complete and write their result, lane by lane. -/
def Obligations.IntegerFieldsAndUnary : Prop :=
  (∀ (t : BitVec 6) (s : State), s.HasElem →
    (∀ (o : FmtVBM), NoNull s [o.a.toNat, o.b.toNat] →
      (let va := s.view.src o.a.toNat
       let vb := s.view.src o.b.toNat
       let vd := s.view.src o.d.toNat
       (∃ u, exec (.mad t o) s = .next u ∧
         RegHolds s u o.d.toNat o.m.toNat [va, vb, vd] (va.pois || vb.pois || vd.pois)
           fun k => BitVec.ofNat 32 ((vd.lanes.get k).toNat + (va.lanes.get k).toNat * (vb.lanes.get k).toNat)) ∧
       (∃ u, exec (.bfi t o) s = .next u ∧
         RegHolds s u o.d.toNat o.m.toNat [va, vb, vd] (va.pois || vb.pois || vd.pois)
           fun k =>
             let c := (vb.lanes.get k).toNat
             let x : W := BitVec.ofNat 32 (2 ^ fieldWidth c - 1)
             (vd.lanes.get k &&& ~~~(x <<< (c % 32))) ||| ((va.lanes.get k &&& x) <<< (c % 32))))) ∧
    (∀ (o : FmtABM), NoNull s [o.a.toNat, o.b.toNat] →
      (let va := s.view.src o.a.toNat
       let vb := s.view.src o.b.toNat
       ∃ u, exec (.bfx t o) s = .next u ∧
         Writes s (s.begin t [rd o.a o.ka, rd o.b o.kb]) u o.d.toNat o.m.toNat [va, vb] (va.pois || vb.pois)
           fun k =>
             let c := (vb.lanes.get k).toNat
             let w := fieldWidth c
             let f := (va.lanes.get k).toNat / 2 ^ (c % 32) % 2 ^ w
             if w = 0 then 0 else if bitN c 11 && decide (2 ^ (w - 1) ≤ f) then BitVec.ofInt 32 ((f : Int) - 2 ^ w) else BitVec.ofNat 32 f))) ∧
  (∀ (t : BitVec 6) (s : State), s.HasElem →
    (∀ (o : FmtI), NoNull s [o.a.toNat] → ∃ u, exec (.addi t o) s = .next u ∧
      Writes s (s.begin t [rd o.a o.ka]) u o.d.toNat 0 [s.view.src o.a.toNat] (s.view.src o.a.toNat).pois
        fun k => BitVec.ofInt 32 (((s.view.src o.a.toNat).lanes.get k).toInt + o.imm.toInt)) ∧
    (∀ (o : FmtShi), NoNull s [o.a.toNat] → ∃ u, exec (.shi t o) s = .next u ∧
      Writes s (s.begin t [rd o.a o.ka]) u o.d.toNat 0 [s.view.src o.a.toNat] (s.view.src o.a.toNat).pois
        fun k =>
          let a := (s.view.src o.a.toNat).lanes.get k
          if o.k = 0 then BitVec.ofNat 32 (a.toNat * 2 ^ o.n.toNat)
          else if o.k = 1 then BitVec.ofNat 32 (a.toNat / 2 ^ o.n.toNat) else BitVec.ofInt 32 (a.toInt / 2 ^ o.n.toNat)) ∧
    (∀ (o : FmtAM), NoNull s [o.a.toNat] →
      (let va := s.view.src o.a.toNat
       let pre := s.begin t [rd o.a o.ka]
       (∃ u, exec (.abs_ t o) s = .next u ∧
         Writes s pre u o.d.toNat o.m.toNat [va] va.pois fun k => BitVec.ofNat 32 (va.lanes.get k).toInt.natAbs) ∧
       (∃ u, exec (.clz t o) s = .next u ∧
         Writes s pre u o.d.toNat o.m.toNat [va] va.pois fun k =>
           if va.lanes.get k = 0 then 32 else BitVec.ofNat 32 (31 - Nat.log2 (va.lanes.get k).toNat)) ∧
       (∃ u, exec (.popc t o) s = .next u ∧
         Writes s pre u o.d.toNat o.m.toNat [va] va.pois fun k =>
           BitVec.ofNat 32 ((List.range 32).filter fun i => tb (va.lanes.get k) i).length))) ∧
    (∀ (o : FmtSel), NoNull s [o.a.toNat, o.b.toNat] →
      (let va := s.view.src o.a.toNat
       let vb := s.view.src o.b.toNat
       ∃ u, exec (.sel t o) s = .next u ∧
         Writes s (s.begin t [rd o.a o.ka, rd o.b o.kb]) u o.d.toNat 0 [va, vb] (va.pois || vb.pois)
           fun k => if tb (s.view.predBits o.p.toNat) k then va.lanes.get k else vb.lanes.get k)) ∧
    (∀ (d : BitVec 4) (imm : BitVec 14),
      (∃ u, exec (.li t d imm) s = .next u ∧ RegHolds s u d.toNat 0 [] false fun _ => BitVec.ofInt 32 imm.toInt) ∧
      (∃ u, exec (.lui t d imm) s = .next u ∧ RegHolds s u d.toNat 0 [] false fun _ => BitVec.ofNat 32 (imm.toNat * 2 ^ 18))))

/-- R127 to R131: BCAST, PERM, SLIDE, REDADD, REDMAX, REDMIN and SCAN complete and write the lanes that they move or combine; the last four
keep the vector unit busy for a cycle (R113). -/
def Obligations.CrossLane : Prop :=
  ∀ (t : BitVec 6) (s : State), s.HasElem →
    (∀ (o : FmtBcast), NoNull s [o.a.toNat] → ∃ u, exec (.bcast t o) s = .next u ∧
      Writes s (s.begin t [rd o.a o.ka]) u o.d.toNat 0 [s.view.src o.a.toNat] (s.view.src o.a.toNat).pois
        fun _ => (s.view.src o.a.toNat).lanes.get o.lane.toNat) ∧
    (∀ (o : FmtABM), NoNull s [o.a.toNat, o.b.toNat] →
      (let va := s.view.src o.a.toNat
       let vb := s.view.src o.b.toNat
       ∃ u, exec (.perm t o) s = .next u ∧
         Writes s (s.begin t [rd o.a o.ka, rd o.b o.kb]) u o.d.toNat o.m.toNat [va, vb] (va.pois || vb.pois)
           fun k => if tb (vb.lanes.get k) 4 then 0 else va.lanes.get ((vb.lanes.get k).toNat % 16))) ∧
    (∀ (o : FmtI), NoNull s [o.a.toNat] → ∃ u, exec (.slide t o) s = .next u ∧
      Writes s (s.begin t [rd o.a o.ka]) u o.d.toNat 0 [s.view.src o.a.toNat] (s.view.src o.a.toNat).pois
        fun k => if 0 ≤ (k : Int) - o.imm.toInt ∧ (k : Int) - o.imm.toInt ≤ 15
          then (s.view.src o.a.toNat).lanes.get ((k : Int) - o.imm.toInt).toNat else 0) ∧
    (∀ (o : FmtAM), NoNull s [o.a.toNat] →
      (let va := s.view.src o.a.toNat
       let pre := (s.begin t [rd o.a o.ka]).vecBusy 1
       (∃ u, exec (.redadd t o) s = .next u ∧
         Writes s pre u o.d.toNat o.m.toNat [va] va.pois fun _ =>
           BitVec.ofNat 32 ((laneNums.map fun j => (va.lanes.get j).toNat).sum)) ∧
       (∃ u x, exec (.redmax t o) s = .next u ∧ (∃ j, j < 16 ∧ x = va.lanes.get j) ∧ (∀ j, j < 16 → (va.lanes.get j).toInt ≤ x.toInt) ∧
         Writes s pre u o.d.toNat o.m.toNat [va] va.pois fun _ => x) ∧
       (∃ u x, exec (.redmin t o) s = .next u ∧ (∃ j, j < 16 ∧ x = va.lanes.get j) ∧ (∀ j, j < 16 → x.toInt ≤ (va.lanes.get j).toInt) ∧
         Writes s pre u o.d.toNat o.m.toNat [va] va.pois fun _ => x) ∧
       (∃ u, exec (.scan t o) s = .next u ∧
         Writes s pre u o.d.toNat o.m.toNat [va] va.pois fun k =>
           BitVec.ofNat 32 (((List.range (k + 1)).map fun j => (va.lanes.get j).toNat).sum))))

/-- R123, R107, R106: CMPEQ, CMPNE, CMPLT, CMPLE, CMPLTU, CMPLEU, PSET and PLOG complete and write every bit of their predicate. -/
def Obligations.Predicates : Prop :=
  (CompareRule .cmpeq (fun a b => decide (a.toNat = b.toNat)) ∧ CompareRule .cmpne (fun a b => decide (a.toNat ≠ b.toNat)) ∧
   CompareRule .cmplt (fun a b => decide (a.toInt < b.toInt)) ∧ CompareRule .cmple (fun a b => decide (a.toInt ≤ b.toInt)) ∧
   CompareRule .cmpltu (fun a b => decide (a.toNat < b.toNat)) ∧ CompareRule .cmpleu (fun a b => decide (a.toNat ≤ b.toNat))) ∧
  ∀ (t : BitVec 6) (s : State), s.HasElem →
    (∀ (d : BitVec 3) (a : BitVec 5), NoNull s [a.toNat] → ∃ u, exec (.pset t d a) s = .next u ∧
      PredIs u d.toNat fun k => decide ((s.view.src a.toNat).lanes.get k ≠ 0)) ∧
    (∀ (o : FmtPlog), ∃ u, exec (.plog t o) s = .next u ∧
      PredIs u o.d.toNat fun k =>
        tb o.f (2 * (tb (s.view.predBits o.a.toNat) k).toNat + (tb (s.view.predBits o.b.toNat) k).toNat))

/-- R90 to R93, R102, R105, R108: the rules that pass a token on. A NOP consumes nothing and keeps the element; a MOV or a GATE puts
its operand to the destination with tag and poison; a DROP takes the head of its channel; a NULL writes a null with SEQV 0; a SEQT
writes the tag of its second operand; a SLOTS writes the counts of R108. -/
def Obligations.TokenPassing : Prop :=
  ∀ (t : BitVec 6) (s : State), s.HasElem →
    (∃ u, exec (.nop t) s = .next u ∧ SegOnly s u ∧ ElemKept s u ∧ (∀ k, k ∈ u.liveElem.cyc.taken ↔ k ∈ s.liveElem.cyc.taken)) ∧
    (∀ (o : FmtDA), NoNull s [o.a.toNat] → ∀ i ∈ [Instr.mov t o, Instr.gate t o], ∃ u, exec i s = .next u ∧
      Writes s (s.begin t [rd o.a false]) u o.d.toNat 0 [s.view.src o.a.toNat] (s.view.src o.a.toNat).pois
        fun k => (s.view.src o.a.toNat).lanes.get k) ∧
    (∀ (a : BitVec 2), ∃ u, exec (.drop t a) s = .next u ∧ SegOnly s u ∧ ElemKept s u ∧
      ∀ h, s.view.head a.toNat = some h → h.kind.isMarker = false → a.toNat ∈ u.liveElem.cyc.taken) ∧
    (∀ (d : BitVec 2), ∃ u, exec (.null_ t d) s = .next u ∧ NullSent s (s.begin t []) u d.toNat (false, 0) false) ∧
    (∀ (o : FmtABM), NoNull s [o.a.toNat, o.b.toNat] →
      (let va := s.view.src o.a.toNat
       let vb := s.view.src o.b.toNat
       ∃ u, exec (.seqt t o) s = .next u ∧ Writes s (s.begin t [rd o.a o.ka, rd o.b o.kb]) u o.d.toNat o.m.toNat
         [{ va with seqv := true, seq := BitVec.ofNat 16 (vb.lanes.get 0).toNat }] (va.pois || vb.pois) fun k => va.lanes.get k)) ∧
    (∀ (d : BitVec 5), ∃ u, exec (.slots t d) s = .next u ∧
      Writes s (s.begin t []) u d.toNat 0 [] false fun k =>
        BitVec.ofNat 32 (if k < 4 then (if (s.segD s.cur.n s.cur.k).routed s.view k then
            min 4 ((s.segD s.cur.n s.cur.k).freeOf s.cur.p s.cur.e k) else 0)
          else if k < 8 then waiting (nth [] s.view.inq (k - 4))
          else if k < 12 then (s.segD s.cur.n s.cur.k).parkedOn s.cur.p s.cur.e (k - 8) else 0))

/-- R94, R96: STEER sends its operand down the channel that bit 0 of the predicate chooses and a null with its tag down the other;
SPLIT4 sends it down the channel that the selector names, or the lowest of the mask where the selector is poisoned, and, where it is not
compact, a null with its tag down each other channel of the mask; a selector outside the mask is MARKER 0x3, and a compact one's token
without a tag MARKER 0x4. -/
def Obligations.Steering : Prop :=
  ∀ (t : BitVec 6) (s : State), s.HasElem →
    (∀ (o : FmtSteer), NoNull s [o.a.toNat] →
      (let va := s.view.src o.a.toNat
       let to_ := if tb (s.view.predBits o.p.toNat) 0 then o.d.toNat else o.f.toNat
       let other := if tb (s.view.predBits o.p.toNat) 0 then o.f.toNat else o.d.toNat
       ∃ x u, exec (.steer t o) s = .next u ∧ TokenSent s (s.begin t [rd o.a o.ka]) x to_ [va] va.pois (fun k => va.lanes.get k) ∧
         NullSent s x u other (outTag [va]) false)) ∧
    (∀ (o : FmtSplit), NoNull s [o.a.toNat, o.b.toNat] →
      (let va := s.view.src o.a.toNat
       let vb := s.view.src o.b.toNat
       let rds := [rd o.a o.ka, rd o.b o.kb]
       let sent := fun (x : State) (n : Nat) => TokenSent s (s.begin t rds) x n [va, vb] (va.pois || vb.pois) fun k => va.lanes.get k
       (∀ n, n < 4 → tb o.mask n = true → (if vb.pois then ∀ j, j < n → tb o.mask j = false else (vb.lanes.get 0).toNat = n) →
         (o.c = true → va.seqv = true → ∃ u, exec (.split4 t o) s = .next u ∧ sent u n) ∧
         (o.c = true → va.seqv = false → ∃ u, exec (.split4 t o) s = .next u ∧ RuleFault s u rds 4 4) ∧
         (o.c = false → ∃ x u, exec (.split4 t o) s = .next u ∧ sent x n ∧
           u = ([0, 1, 2, 3].filter fun j => tb o.mask j && j != n).foldl (fun y j => y.putNullLike j [va]) x) ∧
         (o.c = false → ∀ m, [0, 1, 2, 3].filter (fun j => tb o.mask j && j != n) = [m] → ∃ x u, exec (.split4 t o) s = .next u ∧ sent x n ∧
           NullSent s x u m (outTag [va]) false)) ∧
       (vb.pois = false → ¬((vb.lanes.get 0).toNat < 4 ∧ tb o.mask (vb.lanes.get 0).toNat = true) →
         ∃ u, exec (.split4 t o) s = .next u ∧ RuleFault s u rds 4 3)))

/-- R95, R97: MERGE completes on every head, puts the head that its table names, with the tag and poison of the heads it takes, and
takes those it pairs; PICK4 completes on every head, puts the selected head and takes every masked head. -/
def Obligations.Joining : Prop :=
  ∀ (t : BitVec 6) (s : State), s.HasElem →
    (∀ (o : FmtMerge),
      (let ra := rdIn o.a false
       let rb := rdIn o.b false
       (∃ u, exec (.merge t o) s = .next u) ∧
       (∀ x y : Token, s.view.head o.a.toNat = some x → s.view.head o.b.toNat = some y →
         (x.kind = .data → y.kind = .null → ∃ u, exec (.merge t o) s = .next u ∧
           Writes s (s.begin t [ra, rb]) u o.d.toNat o.m.toNat [x.val, y.val] (x.pois || y.pois) fun k => x.lanes.get k) ∧
         (x.kind = .null → y.kind = .data → ∃ u, exec (.merge t o) s = .next u ∧
           Writes s (s.begin t [ra, rb]) u o.d.toNat o.m.toNat [x.val, y.val] (x.pois || y.pois) fun k => y.lanes.get k) ∧
         (x.kind = .null → y.kind = .null → 20 ≤ o.d.toNat → o.d.toNat < 24 → ∃ u, exec (.merge t o) s = .next u ∧
           NullSent s (s.begin t [ra, rb]) u (o.d.toNat - 20) (outTag [x.val, y.val]) (x.pois || y.pois)) ∧
         (x.kind = .data → x.seqv = true → ((y.kind = .data ∧ y.seqv = true) ∨ y.kind.isMarker = true) →
           ∃ u, exec (.merge t o) s = .next u ∧
             Writes s (s.begin t [ra]) u o.d.toNat o.m.toNat [x.val] x.pois fun k => x.lanes.get k) ∧
         (x.kind.isMarker = true → y.kind = .data → y.seqv = true → ∃ u, exec (.merge t o) s = .next u ∧
             Writes s (s.begin t [rb]) u o.d.toNat o.m.toNat [y.val] y.pois fun k => y.lanes.get k) ∧
         ((x.kind = .data ∧ y.kind = .data ∧ (x.seqv = false ∨ y.seqv = false)) ∨
           (((x.kind = .data ∧ x.seqv = false) ∨ x.kind = .null) ∧ y.kind.isMarker = true) ∨
           (x.kind.isMarker = true ∧ ((y.kind = .data ∧ y.seqv = false) ∨ y.kind = .null)) →
           ∃ u, exec (.merge t o) s = .next u ∧ RuleFault s u [ra, rb] 4 2)) ∧
       (∀ x : Token, s.view.head o.a.toNat = some x → s.view.head o.b.toNat = none → x.kind = .data → x.seqv = true →
         ∃ u, exec (.merge t o) s = .next u ∧
           Writes s (s.begin t [ra]) u o.d.toNat o.m.toNat [x.val] x.pois fun k => x.lanes.get k) ∧
       (∀ y : Token, s.view.head o.a.toNat = none → s.view.head o.b.toNat = some y → y.kind = .data → y.seqv = true →
         ∃ u, exec (.merge t o) s = .next u ∧
           Writes s (s.begin t [rb]) u o.d.toNat o.m.toNat [y.val] y.pois fun k => y.lanes.get k))) ∧
    (∀ (o : FmtPick) (n : Nat),
      (let sel := s.view.src o.a.toNat
       let rds := rd o.a o.ka :: (maskList o.mask).map fun k => ⟨16 + k, false⟩
       let alone := ∀ j, j < 4 → tb o.mask j = true → j ≠ n → ∀ h, s.view.head j = some h → h.kind ≠ .data
       (∃ u, exec (.pick4 t o) s = .next u) ∧
       (sel.null = true → 20 ≤ o.d.toNat → o.d.toNat < 24 → ∃ u, exec (.pick4 t o) s = .next u ∧
         NullSent s (s.begin t rds) u (o.d.toNat - 20) (outTag [sel]) sel.pois) ∧
       (sel.null = false → (if sel.pois then ∀ j, j < n → tb o.mask j = false else (sel.lanes.get 0).toNat = n) → n < 4 →
         tb o.mask n = true →
         (let v := s.view.src (16 + n)
          (alone → v.null = false → ∃ u, exec (.pick4 t o) s = .next u ∧
            Writes s (s.begin t rds) u o.d.toNat 0 [sel, v] (sel.pois || v.pois) fun k => v.lanes.get k) ∧
          (alone → v.null = true → 20 ≤ o.d.toNat → o.d.toNat < 24 → ∃ u, exec (.pick4 t o) s = .next u ∧
            NullSent s (s.begin t rds) u (o.d.toNat - 20) (outTag [sel, v]) (sel.pois || v.pois)) ∧
          (¬alone → ∃ u, exec (.pick4 t o) s = .next u ∧ RuleFault s u rds 4 2))) ∧
       (sel.null = false → sel.pois = false → ¬((sel.lanes.get 0).toNat < 4 ∧ tb o.mask (sel.lanes.get 0).toNat = true) →
         ∃ u, exec (.pick4 t o) s = .next u ∧ RuleFault s u rds 4 3)))

/-- R99 to R101: a CNT steps the counter as R78 says and writes the wraps to p6 and p7; a CNTB binds the trip count at once where
it is unbound and leaves it pending otherwise, a value out of range is MARKER 0x7; a REP writes its token and holds it, with a count of 0
it writes nothing, and while it holds it writes the held token; a poisoned count is CONTAIN. -/
def Obligations.Counting : Prop :=
  ∀ (t : BitVec 6) (s : State), s.HasElem →
    (∀ (k : Bool),
      (let c := s.view.counter k.toNat
       ∃ u, exec (.cnt t k false) s = .next u ∧
         (c.ki.toNat + 1 ≠ c.ti.toNat → (u.liveElem.counter k.toNat).ki = c.ki + 1 ∧ (u.liveElem.counter k.toNat).ko = c.ko ∧
           (u.liveElem.counter k.toNat).ti = c.ti ∧ (u.liveElem.counter k.toNat).to_ = c.to_ ∧
           (∀ l, l < 16 → tb (u.liveElem.predBits 6) l = false ∧ tb (u.liveElem.predBits 7) l = false)) ∧
         (c.ki.toNat + 1 = c.ti.toNat → (u.liveElem.counter k.toNat).ki = 0 ∧ (u.liveElem.counter k.toNat).ti = c.pti.getD c.ti ∧
           (u.liveElem.counter k.toNat).pti = none ∧
           (u.liveElem.counter k.toNat).ko = (if c.ko.toNat + 1 = c.to_.toNat then 0 else c.ko + 1) ∧
           (u.liveElem.counter k.toNat).to_ = (if c.ko.toNat + 1 = c.to_.toNat then c.pto.getD c.to_ else c.to_) ∧
           (u.liveElem.counter k.toNat).pto = (if c.ko.toNat + 1 = c.to_.toNat then none else c.pto) ∧
           (∀ l, l < 16 → tb (u.liveElem.predBits 6) l = true ∧
             tb (u.liveElem.predBits 7) l = decide (c.ko.toNat + 1 = c.to_.toNat))))) ∧
    (∀ (k : Bool),
      (let c := s.view.counter k.toNat
       ∃ u, exec (.cnt t k true) s = .next u ∧ (u.liveElem.counter k.toNat).ki = 0 ∧
         (u.liveElem.counter k.toNat).ti = c.ti ∧ (u.liveElem.counter k.toNat).pti = c.pti ∧
         (u.liveElem.counter k.toNat).ko = (if c.ko.toNat + 1 = c.to_.toNat then 0 else c.ko + 1) ∧
         (u.liveElem.counter k.toNat).to_ = (if c.ko.toNat + 1 = c.to_.toNat then c.pto.getD c.to_ else c.to_) ∧
         (u.liveElem.counter k.toNat).pto = (if c.ko.toNat + 1 = c.to_.toNat then none else c.pto) ∧
         (∀ l, l < 16 → tb (u.liveElem.predBits 6) l = false ∧
           tb (u.liveElem.predBits 7) l = decide (c.ko.toNat + 1 = c.to_.toNat)))) ∧
    (∀ (o : FmtCntb),
      (let va := s.view.src o.a.toNat
       let n := (va.lanes.get 0).toNat
       let c := s.liveElem.counter o.k.toNat
       va.null = false → va.pois = false →
       (0 < n → n ≤ 65535 → ∃ u, exec (.cntb t o) s = .next u ∧
         (u.liveElem.counter o.k.toNat = if o.outer then (if c.to_ = 0 then { c with to_ := BitVec.ofNat 16 n } else { c with pto := some (BitVec.ofNat 16 n) })
           else (if c.ti = 0 then { c with ti := BitVec.ofNat 16 n } else { c with pti := some (BitVec.ofNat 16 n) }))) ∧
       (n = 0 ∨ 65535 < n → ∃ u, exec (.cntb t o) s = .next u ∧ RuleFault s u [rd o.a o.ka] 4 7))) ∧
    (∀ (o : FmtCntb), (s.view.src o.a.toNat).null = false → (s.view.src o.a.toNat).pois = true →
      ∃ u, exec (.cntb t o) s = .next u ∧ RuleFault s u [rd o.a o.ka] 7 5) ∧
    (∀ (o : FmtRep), s.view.holdLeft = 0 → NoNull s [o.a.toNat, o.b.toNat] →
      ((s.view.src o.b.toNat).pois = true → ∃ u, exec (.rep t o) s = .next u ∧ RuleFault s u [rd o.a o.ka, rd o.b o.kb] 7 5) ∧
      ((s.view.src o.b.toNat).pois = false → (s.view.src o.b.toNat).lanes.get 0 = 0 →
        exec (.rep t o) s = .next (s.begin t [rd o.a o.ka, rd o.b o.kb]))) ∧
    (∀ (o : FmtRep), s.view.holdLeft = 0 → NoNull s [o.a.toNat, o.b.toNat] → (s.view.src o.b.toNat).pois = false →
      (let va := s.view.src o.a.toNat
       let n := (s.view.src o.b.toNat).lanes.get 0
       0 < n.toNat → ∃ x, exec (.rep t o) s = .next (x.onCurElem fun lv => { lv with
           holdTok := ((⟨va.lanes, .data, s.view.outType o.d.toNat, va.pois, (outTag [va, s.view.src o.b.toNat]).1,
             (outTag [va, s.view.src o.b.toNat]).2, 0⟩ : Token)).sealed, holdLeft := n - 1 }) ∧
         TokenSent s (s.begin t [rd o.a o.ka, rd o.b o.kb]) x o.d.toNat [va, s.view.src o.b.toNat] va.pois fun k => va.lanes.get k)) ∧
    (∀ (o : FmtRep), s.view.holdLeft ≠ 0 → ∃ x, exec (.rep t o) s = .next (x.onCurElem fun lv => { lv with holdLeft := lv.holdLeft - 1 }) ∧
      TokenSent s (s.begin 0x3E []) x o.d.toNat [s.view.holdTok.val] s.view.holdTok.val.pois fun k => s.view.holdTok.val.lanes.get k)

/-- R81, R98, R103, R104, R76: an EMIT writes its marker, and an END to the one routed channel of an element without a gate ends its
run; a REORD passes the token whose tag is NEXTSEQ, held or at the head, passes a null, holds one of its window and raises MARKER 0x5
for another; a SIG set sets the stripe's wire. -/
def Obligations.MarkersAndOrder : Prop :=
  ∀ (t : BitVec 6) (s : State), s.HasElem →
    (∀ (d : BitVec 5) (e : Bool), 20 ≤ d.toNat → d.toNat < 24 → ∃ x, MarkerSent s (s.begin t []) x (d.toNat - 20) (if e then .fin else .eoi) ∧
      exec (.emit t d e) s = .next (if e then x.noteEnd (d.toNat - 20) else x)) ∧
    (∀ (d : BitVec 5), 20 ≤ d.toNat → d.toNat < 24 → (s.segD s.cur.n s.cur.k).gateChans s.cur.p s.cur.e = [] →
      [0, 1, 2, 3].filter (fun k => (s.segD s.cur.n s.cur.k).routed s.view k) = [d.toNat - 20] →
      ∃ u, exec (.emit t d true) s = .next u ∧ u.liveElem.erun = s.liveElem.erun + 1) ∧
    (∃ u x, exec (.emit t 28 false) s = .next u ∧ SegOnly s u ∧ u.liveElem.ord = s.liveElem.ord + 1 ∧
      u.liveElem.erun = s.liveElem.erun ∧ u.liveElem.sr = s.liveElem.sr ∧ u.liveElem.cyc.newSr = some x) ∧
    (∃ u, exec (.emit t 28 true) s = .next u ∧ SegOnly s u ∧ u.liveElem.ord = 0 ∧ u.liveElem.nextSeq = 0 ∧
      u.liveElem.erun = s.liveElem.erun + 1) ∧
    (∀ (e : Bool) (o : Nat), [0, 1, 2, 3].filter (fun k => (s.segD s.cur.n s.cur.k).routed s.view k) = [o] →
      routeKind (s.curElem.route o) ≠ 3 → ∃ x, MarkerSent s (s.begin t []) x o (if e then .fin else .eoi) ∧
        exec (.emit t 28 e) s = .next (x.gateActs (if e then .fin else .eoi))) ∧
    (∀ (d : BitVec 5) (a : BitVec 2) (h : Token), s.view.reordMatch = none → s.view.head a.toNat = some h → h.kind = .data →
      h.seqv = true →
      (let dist := (h.seq.toNat + 65536 - s.view.nextSeq.toNat) % 65536
       let place := h.seq.toNat % 256
       (dist = 0 → ∃ x, exec (.reord t d a) s = .next (x.onCurElem fun lv => { lv with nextSeq := lv.nextSeq + 1 }) ∧
         Writes s (s.begin t [rdIn a false]) x d.toNat 0 [h.val] h.val.pois fun k => h.lanes.get k) ∧
       (0 < dist → dist ≤ 255 → nth none s.view.reord place = none → place < s.liveElem.reord.length → ∃ u, exec (.reord t d a) s = .next u ∧
         (∃ x, nth none u.liveElem.reord place = some x ∧ x.lanes = h.lanes ∧ x.seq = h.seq ∧ x.poison = h.val.pois) ∧
         a.toNat ∈ u.liveElem.cyc.taken ∧ u.liveElem.nextSeq = s.liveElem.nextSeq) ∧
       (0 < dist → dist ≤ 255 → nth none s.view.reord place ≠ none → ∃ u, exec (.reord t d a) s = .next u ∧ RuleFault s u [rdIn a false] 4 5) ∧
       (255 < dist → ∃ u, exec (.reord t d a) s = .next u ∧ RuleFault s u [rdIn a false] 4 5))) ∧
    (∀ (d : BitVec 5) (a : BitVec 2) (h : Token), s.view.reordMatch = some h → ∃ x y, exec (.reord t d a) s = .next y ∧
      Writes s (s.begin 0x3E []) x d.toNat 0 [h.val] h.val.pois (fun k => h.val.lanes.get k) ∧
      y = x.onCurElem fun lv => { lv with reord := upd (fun _ => none) lv.reord (s.view.nextSeq.toNat % 256), nextSeq := lv.nextSeq + 1 }) ∧
    (∀ (d : BitVec 5) (a : BitVec 2) (h : Token), s.view.reordMatch = none → s.view.head a.toNat = some h → h.kind = .null →
      exec (.reord t d a) s = .next (s.nullFire t [rdIn a false] [d.toNat])) ∧
    (∀ (d : BitVec 5) (a : BitVec 2) (h : Token), s.view.reordMatch = none → s.view.head a.toNat = some h →
      ((h.kind = .data ∧ h.seqv = false) ∨ h.kind.isMarker = true) →
      ∃ u, exec (.reord t d a) s = .next u ∧ RuleFault s u [rdIn a false] 4 5) ∧
    (∃ u, exec (.sig t true) s = .next u ∧ ((u.segD s.cur.n s.cur.k).live.stripe s.cur.p).wire = true) ∧
    (∃ u, exec (.sig t false) s = .next u ∧
      ((u.segD s.cur.n s.cur.k).live.stripe s.cur.p).wire = (((s.begin t []).segD s.cur.n s.cur.k).live.stripe s.cur.p).sigSet)

/-- R62, R70, R112: every token-control and vector rule changes nothing outside the segment of its element: every byte of memory
reads as before. -/
def Obligations.RuleFrame : Prop :=
  ∀ (i : Instr) (s u : State), tokenOrVector i = true → exec i s = .next u → SegOnly s u ∧ SameMemory s u

/-- R29, R67, R106: a token-control or vector rule writes no register, predicate or counter but those that its word names (and
those of MRESET, for an EMIT to every channel), and no plane or accumulator tile. -/
def Obligations.RuleWritesOnlyItsOwn : Prop :=
  ∀ (i : Instr) (r : RuleInfo) (s u : State), s.HasElem → tokenOrVector i = true → ruleInfo i = some r → ¬(2, 9) ∈ r.wr →
    exec i s = .next u →
    (∀ d, ¬(0, d) ∈ r.wr → (u.liveElem.vreg d).val = (s.liveElem.vreg d).val) ∧
    (∀ d, ¬(1, d) ∈ r.wr → u.liveElem.predBits d = s.liveElem.predBits d) ∧
    (∀ d, ¬(5, d) ∈ r.wr → u.liveElem.counter d = s.liveElem.counter d) ∧
    u.liveElem.planes = s.liveElem.planes ∧ u.liveElem.acc = s.liveElem.acc ∧ u.liveElem.gen = s.liveElem.gen

/-- R62, R63, R70, R113: a rule that reads a null writes nulls to its out-channels, with the tag and the poison of its operands, and no
register, predicate, counter or tile; the vector unit is as busy as after its own effect. -/
def Obligations.NullEffect : Prop :=
  ∀ (t : BitVec 6) (rds : List Rd) (outs : List Nat) (eff : List Val → State → State) (s : State), s.HasElem →
    (∃ r ∈ rds, (s.view.src r.code).null = true) →
    s.fire t rds outs eff = s.nullFire t rds outs ∧
    (∀ busy, s.fireV busy t rds outs eff = (s.nullFire t rds outs).vecBusy busy) ∧ ElemKept s (s.nullFire t rds outs) ∧
    SegOnly s (s.nullFire t rds outs) ∧
    ∀ k, k < 4 → outs = [20 + k] →
      NullSent s (s.begin t rds) (s.nullFire t rds outs) k (outTag (rds.map fun r => s.view.src r.code))
        (rds.any fun r => (s.view.src r.code).pois)

/-- R146, R147, R151, with R139, R141, R143 and R157: FADD, FSUB, FMUL, FDIV, FSCALE, FMIN, FMAX, FSQRT, FRCP, FRSQ, FEXP2, FLOG2,
FTANH, FSIGM, FRND, FFMA, FFMS and FNMA complete on operands that are no nulls, and compute their lane function of the operands in the
element's mode, with the flags, traps, busy cycles and generator steps of the rule. -/
def Obligations.FloatLanes : Prop :=
  (Float2 .fadd f32Add 0 true ∧ Float2 .fsub f32Sub 0 true ∧ Float2 .fmul f32Mul 0 true ∧ Float2 .fdiv f32Div 7 true ∧
   Float2 .fscale f32Scale 0 true ∧ Float2 .fmin (fun rm => f32MinMax false rm.ftz) 0 false ∧
   Float2 .fmax (fun rm => f32MinMax true rm.ftz) 0 false) ∧
  (Float1 .fsqrt f32Sqrt 7 ∧ Float1 .frcp f32Rcp 7 ∧ Float1 .frsq f32Rsq 7 ∧ Float1 .fexp2 f32Exp2 3 ∧ Float1 .flog2 f32Log2 3 ∧
   Float1 .ftanh f32Tanh 5 ∧ Float1 .fsigm f32Sigm 5 ∧ Float1 .frnd f32Rnd 0) ∧
  (Float3 .ffma f32Fma ∧ Float3 .ffms f32Fms ∧ Float3 .fnma f32Fnma)

/-- R148, R149, R150: FABS clears bit 31 and FNEG inverts it, with no flag; FCLASS writes a mask with one of ten bits; FCMPEQ,
FCMPLT, FCMPLE and FCMPUN write their relation to every bit of their predicate. -/
def Obligations.FloatSignsAndCompares : Prop :=
  ∀ (t : BitVec 6) (s : State), s.HasElem →
    (∀ (o : FmtAM), NoNull s [o.a.toNat] →
      (let va := s.view.src o.a.toNat
       let pre := s.begin t [rd o.a o.ka]
       (∃ u, exec (.fabs t o) s = .next u ∧
         Writes s pre u o.d.toNat o.m.toNat [va] va.pois fun k => BitVec.ofNat 32 ((va.lanes.get k).toNat % 2 ^ 31)) ∧
       (∃ u, exec (.fneg t o) s = .next u ∧
         Writes s pre u o.d.toNat o.m.toNat [va] va.pois fun k => BitVec.ofNat 32 ((va.lanes.get k).toNat + 2 ^ 31)) ∧
       (∃ u c, exec (.fclass t o) s = .next u ∧ (∀ k, ∃ b, b < 10 ∧ c k = BitVec.ofNat 32 (2 ^ b)) ∧
         Writes s pre u o.d.toNat o.m.toNat [va] va.pois c))) ∧
    FloatCompare .fcmpeq f32CmpEq ∧ FloatCompare .fcmplt f32CmpLt ∧ FloatCompare .fcmple f32CmpLe ∧ FloatCompare .fcmpun f32CmpUn

/-- R152 to R156: CVT, UNPMX, FPACK, FUNPK and CVTMX complete on operands that are no nulls and write their conversion of each lane. -/
def Obligations.Conversions : Prop :=
  ∀ (t : BitVec 6) (s : State), s.HasElem →
    (∀ (o : FmtCvt), FloatGives (.cvt t o) s t [rd o.a false] o.d.toNat 0 0 (cvtRounds o.from_.toNat o.to_.toNat)
      fun vs k => cvtLane (s.rmode k) o.from_.toNat o.to_.toNat o.sat (opLane vs 0 k)) ∧
    (∀ (o : FmtUnpmx), FloatGives (.unpmx t o) s t [rd o.a false, rd o.b false] o.d.toNat 0 1 true
      fun vs k => unpmxLane (s.rmode k) (o.from_.toNat + 4) (opLane vs 1 0 % 256)
        (packedGet (typeWidth (o.from_.toNat + 4)) (nth default vs 0).lanes k)) ∧
    (∀ (o : FmtFpack), FloatGives (.fpack t o) s t [rd o.a false, rdV o.d] o.d.toNat 0 0 (cvtRounds 1 o.to_.toNat)
      fun vs k =>
        let r := fromFp32 (s.rmode k) o.to_.toNat true (opLane vs 0 k)
        (putPart (typeWidth o.to_.toNat) o.part.toNat (opLane vs 1 k) r.1, r.2)) ∧
    (∀ (o : FmtFunpk), FloatGives (.funpk t o) s t [rd o.a false] o.d.toNat 0 0 false
      fun vs k => toFp32 (s.rmode k) o.from_.toNat (opLane vs 0 k / 2 ^ (typeWidth o.from_.toNat * o.part.toNat))) ∧
    (∀ (o : FmtCvtmx), NoNull s [o.a.toNat, o.b.toNat] →
      (let vs := [s.view.src o.a.toNat, s.view.src o.b.toNat]
       let w := typeWidth (o.to_.toNat + 4)
       let q := fun k => cvtmxLane (s.rmode k) (o.to_.toNat + 4) o.sat (opLane vs 1 0 % 256) (opLane vs 0 k)
       let fl := fun k => (q k).2
       ∃ x l, exec (.cvtmx t o) s = .next (x.srAdvance true) ∧ (∀ i, i < 16 → packedGet w l i = (q i).1 % 2 ^ w) ∧
         Writes s (((s.begin t [rd o.a false, rd o.b false]).vecBusy 1).arith (anyPoison vs) 0xFFFF fl) x o.d.toNat 0 vs
           (anyPoison vs || s.traps (anyPoison vs) 0xFFFF fl) fun k => l.get k))

/-- R141, R143: the flags of written lanes are ORed into FFLAGS; a poisoned operand raises none; an enabled flag in a written lane
raises an arithmetic fault with the enabled flags and the lanes that raised them.

R146: the special cases of the arithmetic rules, in every rounding mode. -/
def Obligations.FloatFlagsAndSpecials : Prop :=
  (∀ (s : State) (mask : W16) (fl : Nat → Nat), s.HasElem →
    s.arith true mask fl = s ∧
    (∀ b, b < 6 → tb (s.arith false mask fl).liveElem.fflags b =
      (tb s.liveElem.fflags b || laneNums.any fun k => tb mask k && bitN (fl k) b)) ∧
    ((∃ k, k < 16 ∧ tb mask k = true ∧ fl k &&& s.view.img.cfg.ten.toNat ≠ 0) → (s.segD s.cur.n s.cur.k).stopped = false →
      ((s.arith false mask fl).segD s.cur.n s.cur.k).frz.isSome = true ∧
      ((s.segD s.cur.n s.cur.k).recs = [] → ∃ r, r ∈ ((s.arith false mask fl).segD s.cur.n s.cur.k).recs ∧ r.kind = 6 ∧ r.slot = s.cur.j ∧
        (∀ k, k < 16 → tb r.lmask k = (tb mask k && fl k &&& s.view.img.cfg.ten.toNat != 0))))) ∧
  (∀ (rm : RMode),
    f32Add rm 0x7F800000 0xFF800000 = (0x7FC00000, flNV) ∧ f32Sub rm 0x7F800000 0x7F800000 = (0x7FC00000, flNV) ∧
    f32Mul rm 0x7F800000 0x80000000 = (0x7FC00000, flNV) ∧ f32Fma rm 0x7F800000 0 0x7FC00000 = (0x7FC00000, flNV) ∧
    f32Div rm 0 0 = (0x7FC00000, flNV) ∧ f32Div rm 0x7F800000 0xFF800000 = (0x7FC00000, flNV) ∧
    f32Div rm 0x3F800000 0x80000000 = (0xFF800000, flDZ) ∧
    f32Sqrt rm 0xFF800000 = (0x7FC00000, flNV) ∧ f32Sqrt rm 0x80000000 = (0x80000000, 0) ∧ f32Sqrt rm 0x7F800000 = (0x7F800000, 0) ∧
    f32Rcp rm 0xFF800000 = (0x80000000, 0) ∧ f32Rcp rm 0x80000000 = (0xFF800000, flDZ) ∧ f32Rcp rm 0 = (0x7F800000, flDZ) ∧
    f32Rsq rm 0xFF800000 = (0x7FC00000, flNV) ∧ f32Rsq rm 0x80000000 = (0xFF800000, flDZ) ∧ f32Rsq rm 0x7F800000 = (0, 0) ∧
    f32Exp2 rm 0xFF800000 = (0, 0) ∧ f32Exp2 rm 0 = (0x3F800000, 0) ∧ f32Exp2 rm 0x80000000 = (0x3F800000, 0) ∧
    f32Log2 rm 0xFF800000 = (0x7FC00000, flNV) ∧ f32Log2 rm 0 = (0xFF800000, flDZ) ∧ f32Log2 rm 0x7F800000 = (0x7F800000, 0) ∧
    f32Tanh rm 0xFF800000 = (0xBF800000, 0) ∧ f32Tanh rm 0x80000000 = (0x80000000, 0) ∧
    f32Sigm rm 0xFF800000 = (0, 0) ∧ f32Sigm rm 0 = (0x3F000000, 0) ∧ f32Sigm rm 0x7F800000 = (0x3F800000, 0))

/-- R161, R181 to R183: a PLW or PLWS fills its rows from the token and steps the fill; a head that is no data token fills nothing;
a PLCLR clears the tile; a SCLD loads sixteen scales and their poison. -/
def Obligations.PlaneTiles : Prop :=
  ∀ (t : BitVec 6) (s : State), s.HasTiles →
    (∀ (pl : BitVec 4) (ch : BitVec 2) (row : BitVec 4) (sp : BitVec 2) (k : Bool) (h : Token), s.view.head ch.toNat = some h →
      ∀ i ∈ [Instr.plw t ⟨pl, ch, row, k⟩, Instr.plws t ⟨pl, ch, row, sp, k⟩],
      (let pt := s.liveElem.plane pl.toNat
       let w := typeWidth pt.fmt.toNat
       let rows := partsPerLane w / 2
       let f := if pt.filling then pt.fc.toNat else row.toNat
       (h.kind = .data → f + rows ≤ 16 → ∃ u, exec i s = .next u ∧ SegOnly s u ∧
         (∀ n, n < 32 * rows → (nth 0 (u.liveElem.plane pl.toNat).vals (32 * f + n)).toNat = packedGet w h.lanes n) ∧
         (∀ n, n < 32 * f ∨ 32 * (f + rows) ≤ n → nth 0 (u.liveElem.plane pl.toNat).vals n = nth 0 pt.vals n) ∧
         (∀ r, r < 16 → tb (u.liveElem.plane pl.toNat).prow r = if f ≤ r ∧ r < f + rows then h.pois else tb pt.prow r) ∧
         (u.liveElem.plane pl.toNat).fc.toNat = (f + rows) % 16 ∧
         (u.liveElem.plane pl.toNat).filling = decide (f + rows ≠ 16) ∧
         ∀ m, m ≠ pl.toNat → u.liveElem.plane m = s.liveElem.plane m) ∧
       (h.kind ≠ .data → ∃ u, exec i s = .next u ∧ SegOnly s u ∧ ElemKept s u))) ∧
    (∀ (pl : BitVec 4), ∃ u, exec (.plclr t pl) s = .next u ∧ SegOnly s u ∧
      (∀ n, nth 0 (u.liveElem.plane pl.toNat).vals n = 0) ∧ (u.liveElem.plane pl.toNat).fc = 0 ∧
      (u.liveElem.plane pl.toNat).filling = false ∧ (u.liveElem.plane pl.toNat).prow = 0 ∧
      (u.liveElem.plane pl.toNat).apois = false ∧ (u.liveElem.plane pl.toNat).bpois = false ∧
      (∀ n, n < 16 → nth 0 (u.liveElem.plane pl.toNat).ascale n = 0x7F ∧ nth 0 (u.liveElem.plane pl.toNat).bscale n = 0x7F) ∧
      (u.liveElem.plane pl.toNat).sparse = (s.liveElem.plane pl.toNat).sparse ∧
      (u.liveElem.plane pl.toNat).fmt = (s.liveElem.plane pl.toNat).fmt) ∧
    (∀ (o : FmtScld) (h : Token), s.view.head o.ch.toNat = some h →
      (h.kind = .data → ∃ u, exec (.scld t o) s = .next u ∧ SegOnly s u ∧
        (let p := u.liveElem.plane o.pl.toNat
         let q := s.liveElem.plane o.pl.toNat
         (∀ n, n < 16 → (nth 0 (if o.bsc then p.bscale else p.ascale) n).toNat = fld (h.lanes.get (n / 4)).toNat (8 * (n % 4)) 8) ∧
         (if o.bsc then p.ascale = q.ascale ∧ p.apois = q.apois ∧ p.bpois = h.pois
          else p.bscale = q.bscale ∧ p.bpois = q.bpois ∧ p.apois = h.pois) ∧
         p.vals = q.vals)) ∧
      (h.kind ≠ .data → ∃ u, exec (.scld t o) s = .next u ∧ SegOnly s u ∧ ElemKept s u))

/-- R158, R163, R173, R184, R188: an MMA or MMAS whose group holds no null takes the oldest unassigned group, latches the scales and
enters the queue, with its dense occupancy as R158 gives it; a group with a null enters no queue and changes no tile; an MFWD sends
the oldest unforwarded token of an assigned group. -/
def Obligations.MatrixMultiplies : Prop :=
  ∀ (t : BitVec 6) (s : State), s.HasTiles →
    (∀ (o : FmtMma), ∀ i ∈ [Instr.mma t o, Instr.mmas t o],
      (let pt := s.liveElem.plane o.pl.toNat
       let grp := (s.liveElem.unassigned.take (groupLen pt.fmt.toNat pt.sparse.toNat)).map (·.tok)
       ((∀ x ∈ grp, x.kind ≠ .null) → ∃ u m, exec i s = .next u ∧ u.liveElem.mq = s.liveElem.mq ++ [m] ∧ m.group = grp ∧
         m.acc = o.t.toNat ∧ m.plane = o.pl.toNat ∧ m.zero = o.zero ∧ m.ascale = pt.ascale ∧ m.bscale = pt.bscale ∧
         m.pois = (grp.any (·.poison) || pt.apois || pt.bpois) ∧ m.slot = s.cur.j ∧ m.start = none ∧
         (∀ x ∈ denseOccupancy, pt.fmt.toNat = x.1 → pt.sparse = 0 → m.dur = x.2) ∧
         (u.liveElem.plane o.pl.toNat).busy = pt.busy + 1 ∧ (u.liveElem.accT o.t.toNat).pend = (s.liveElem.accT o.t.toNat).pend + 1 ∧
         (∀ n, (u.liveElem.accT n).vals = (s.liveElem.accT n).vals ∧ (u.liveElem.plane n).vals = (s.liveElem.plane n).vals) ∧
         (∀ r, (u.liveElem.vreg r).val = (s.liveElem.vreg r).val) ∧ SameMemory s u) ∧
       ((∃ x ∈ grp, x.kind = .null) → ∃ u, exec i s = .next u ∧ SegOnly s u ∧ ElemKept s u ∧ u.liveElem.mq = s.liveElem.mq))) ∧
    (∀ (ch out : BitVec 2) (pre : List Staged) (x : Staged) (post : List Staged), s.liveElem.stage = pre ++ x :: post →
      (∀ y ∈ pre, y.grp = none ∨ y.fwd = true) → x.grp.isSome = true → x.fwd = false →
      ∃ y, exec (.mfwd t ch out) s =
          .next (y.onCurSeg fun g => g.put s.cur.p s.cur.e out.toNat (.tok x.tok)) ∧
        SegOnly s y ∧ ElemKept s y)

/-- R176, R185 to R187: an ACCRD sends the next token of the tile, exactly for FP32 and converted for another type, and steps its
cursor; an ACCWR writes the next token of the tile; an ACCCLR clears it. -/
def Obligations.AccumulatorTiles : Prop :=
  ∀ (t : BitVec 6) (s : State), s.HasTiles →
    (∀ (o : FmtAccrd),
      (let tile := s.view.accT o.t.toNat
       let live := s.liveElem.accT o.t.toNat
       let rows := partsPerLane (typeWidth o.ty.toNat)
       let at_ := fun (a : AccTile) => if a.xfer = 0 then 0 else a.cur.toNat
       let res := fun v => accOut s.view.img.cfg s.view.sr tile o.ty.toNat o.sat (at_ tile) v
       let fl := fun k => (List.range rows).foldl (fun acc p => acc ||| (res (rows * k + p)).2) 0
       ∃ x u, exec (.accrd t o) s = .next u ∧
         TokenSent s ((s.begin (if tile.xfer = 1 then 0x3E else t) []).arith tile.poison 0xFFFF fl) x o.ch.toNat []
           (tile.poison || s.traps tile.poison 0xFFFF fl)
           (fun k => (packLanes (typeWidth o.ty.toNat) fun v => (res v).1).get k) ∧
         (o.ty.toNat = 1 → ∀ v, v < 16 → res v = ((nth (0 : W) tile.vals (16 * at_ tile + v)).toNat, 0)) ∧
         (at_ live + 1 = 16 / rows → (u.liveElem.accT o.t.toNat).xfer = 0 ∧ (u.liveElem.accT o.t.toNat).cur = 0 ∧
           (o.clr = true → (∀ n, nth (0 : W) (u.liveElem.accT o.t.toNat).vals n = 0) ∧ (u.liveElem.accT o.t.toNat).poison = false) ∧
           (o.clr = false → (u.liveElem.accT o.t.toNat).vals = live.vals ∧ (u.liveElem.accT o.t.toNat).poison = live.poison)) ∧
         (at_ live + 1 < 16 / rows → (u.liveElem.accT o.t.toNat).xfer = 1 ∧
           (u.liveElem.accT o.t.toNat).cur.toNat = at_ live + 1 ∧ (u.liveElem.accT o.t.toNat).vals = live.vals))) ∧
    (∀ (o : FmtAccwr) (h : Token), s.view.head o.ch.toNat = some h →
      (let live := s.liveElem.accT o.t.toNat
       let rows := partsPerLane (typeWidth o.ty.toNat)
       let n := 16 * rows
       (h.kind = .data → live.cur.toNat < 16 / rows → ∃ u, exec (.accwr t o) s = .next u ∧ SegOnly s u ∧
         (o.ty.toNat = 1 → ∀ v, v < 16 → nth (0 : W) (u.liveElem.accT o.t.toNat).vals (16 * live.cur.toNat + v) = h.lanes.get v) ∧
         (∀ v, v < n * live.cur.toNat ∨ n * live.cur.toNat + n ≤ v →
           nth (0 : W) (u.liveElem.accT o.t.toNat).vals v = nth 0 live.vals v) ∧
         (live.cur.toNat + 1 = 16 / rows → (u.liveElem.accT o.t.toNat).xfer = 0 ∧ (u.liveElem.accT o.t.toNat).cur = 0) ∧
         (live.cur.toNat + 1 < 16 / rows → (u.liveElem.accT o.t.toNat).xfer = 2 ∧
           (u.liveElem.accT o.t.toNat).cur = live.cur + 1)) ∧
       (h.kind ≠ .data → ∃ u, exec (.accwr t o) s = .next u ∧ SegOnly s u ∧ ElemKept s u))) ∧
    (∀ (n : BitVec 3), ∃ u, exec (.accclr t n) s = .next u ∧ SegOnly s u ∧ (∀ v, nth (0 : W) (u.liveElem.accT n.toNat).vals v = 0) ∧
      (u.liveElem.accT n.toNat).xfer = 0 ∧ (u.liveElem.accT n.toNat).cur = 0 ∧ (u.liveElem.accT n.toNat).poison = false ∧
      ∀ m, m ≠ n.toNat → u.liveElem.accT m = s.liveElem.accT m)

/-- R202, R204, R205, R222 to R225, R229: a LD, LDS or LDQ enters a request with its address, size, chain and position, and keeps the
place of its reply; memory is as it was. -/
def Obligations.LoadsQueue : Prop :=
  ∀ (t : BitVec 6) (s : State), s.HasWharf →
    (∀ (o : FmtM), ∀ x ∈ [(Instr.ld t o, ReqOp.ld), (Instr.lds t o, ReqOp.lds)], ∃ u q, exec x.1 s = .next u ∧ Queued s u q ∧
      q.op = x.2 ∧ q.chain = o.ch.toNat ∧ q.pos = o.pos.toNat ∧ q.sz = o.sz.toNat ∧ SameLanes q.addr (s.view.src o.a.toNat) ∧
      q.apois = (s.view.src o.a.toNat).pois ∧ q.dest = replyTo o.d.toNat ∧ q.Of [s.view.src o.a.toNat]) ∧
    (∀ (y : BitVec 3) (a : BitVec 5) (ch : BitVec 2) (pos : BitVec 4) (sz : BitVec 2) (ka : Bool),
      ∃ u q, exec (.ldq t y a ch pos sz ka) s = .next u ∧ Queued s u q ∧ q.op = .ldq ∧ q.chain = ch.toNat ∧ q.pos = pos.toNat ∧
      q.sz = sz.toNat ∧ SameLanes q.addr (s.view.src a.toNat) ∧ q.dest = .reply y.toNat ∧ q.Of [s.view.src a.toNat])

/-- R222, R227, R230 to R233: a ST, STF or STO enters a request with its address and its data, a SETE or PFX one with its address; no
byte of memory changes when the rule fires. -/
def Obligations.StoresQueue : Prop :=
  ∀ (t : BitVec 6) (s : State), s.HasWharf →
    (∀ (o : FmtM), ∀ x ∈ [(Instr.st t o, ReqOp.st), (Instr.stf t o, ReqOp.stf), (Instr.sto t o, ReqOp.sto)],
      ∃ u q, exec x.1 s = .next u ∧ Queued s u q ∧ q.op = x.2 ∧ q.chain = o.ch.toNat ∧ q.pos = o.pos.toNat ∧ q.sz = o.sz.toNat ∧
      SameLanes q.addr (s.view.src o.a.toNat) ∧ SameLanes q.data (s.view.src o.d.toNat) ∧ q.dpois = (s.view.src o.d.toNat).pois ∧
      q.dest = .none ∧ q.Of [s.view.src o.a.toNat, s.view.src o.d.toNat]) ∧
    (∀ (o : FmtML), ∀ x ∈ [(Instr.sete t o, ReqOp.sete), (Instr.pfx t o, ReqOp.pfx)],
      ∃ u q, exec x.1 s = .next u ∧ Queued s u q ∧ q.op = x.2 ∧ q.chain = o.ch.toNat ∧ q.pos = o.pos.toNat ∧ q.sz = 0 ∧
      SameLanes q.addr (s.view.src o.a.toNat) ∧ q.dest = .none ∧ q.Of [s.view.src o.a.toNat])

/-- R226, R228, R234: an SRD or SWR enters a request at its generator's cursor and adds the signed stride to the cursor; an AGN adds
the stride as often as its immediate says.

R251, R253: a FENCE stands unresolved at its stripe with its scope and cycle, the element counts it, and the buffer of the stripe
has drained. -/
def Obligations.GeneratorsAndFences : Prop :=
  (∀ (t : BitVec 6) (s : State), s.HasWharf → s.liveElem.gen.length = 2 →
    (∀ (o : FmtMG),
      (let g := nth default s.curElem.gen o.g.toNat
       (∃ u q, exec (.srd t o) s = .next u ∧ Queued s u q ∧ q.op = .srd ∧ q.chain = o.ch.toNat ∧ q.pos = o.pos.toNat ∧
         q.sz = o.sz.toNat ∧ q.gen = g.region ∧ q.off = g.cursor.toNat ∧ q.dest = replyTo o.d.toNat ∧
         (nth default u.liveElem.gen o.g.toNat).cursor = BitVec.ofInt 40 (g.cursor.toNat + g.stride.toInt)) ∧
       (∃ u q, exec (.swr t o) s = .next u ∧ Queued s u q ∧ q.op = .swr ∧ q.gen = g.region ∧ q.off = g.cursor.toNat ∧
         q.chain = o.ch.toNat ∧ q.pos = o.pos.toNat ∧ q.sz = o.sz.toNat ∧ SameLanes q.data (s.view.src o.d.toNat) ∧
         q.dest = .none ∧ q.Of [s.view.src o.d.toNat] ∧
         (nth default u.liveElem.gen o.g.toNat).cursor = BitVec.ofInt 40 (g.cursor.toNat + g.stride.toInt)))) ∧
    (∀ (k : Bool) (imm : BitVec 14),
      (let g := nth default s.curElem.gen k.toNat
       ∃ u, exec (.agn t k imm) s = .next u ∧ SegOnly s u ∧
         (nth default u.liveElem.gen k.toNat).cursor = BitVec.ofInt 40 (g.cursor.toNat + imm.toInt * g.stride.toInt) ∧
         ∀ m, m ≠ k.toNat → nth default u.liveElem.gen m = nth default s.liveElem.gen m))) ∧
  (∀ (t : BitVec 6) (s : State) (scope : BitVec 3), s.HasWharf →
    ∃ u, exec (.fence t scope) s = .next u ∧
      (u.wharf s.cur.p).fences = (s.wharf s.cur.p).fences ++
        [⟨s.cur.e, scope.toNat, (s.segD s.cur.n s.cur.k).sck, (s.segD s.cur.n s.cur.k).no⟩] ∧
      u.liveElem.fences = s.liveElem.fences + 1 ∧ (u.wharf s.cur.p).wc = [] ∧ (u.wharf s.cur.p).chains = (s.wharf s.cur.p).chains ∧
      (∀ r, (u.liveElem.vreg r).val = (s.liveElem.vreg r).val) ∧ u.liveElem.pred = s.liveElem.pred)

/-- R39, R259, R263, R264: AADD, AMIN, AMAX, AMINU, AMAXU, AAND, AOR, AXOR, AXCHG, ACAS, AFADD, AFMIN, AFMAX and AINCW complete: an update enters a request with its addresses, values and function at the chain and position of its slot;
its reply goes to its target only where RPL is set.

R39, R274, R282 to R285: CPY1, CPY2, CPYG, CPYS, CPYF, CPYX, BINIT, BARV, BEXP and BWAIT complete: a copy rule enters a request with its descriptor and object address, CPYX one with a copy id, a barrier
rule one with its object address and, for BINIT and BEXP, its value; each keeps the place of its reply. -/
def Obligations.UpdatesCopiesAndBarriersQueue : Prop :=
  (∀ (t : BitVec 6) (s : State), s.HasWharf →
    (let f := (nth 0 s.view.img.cfg.fchain s.cur.j).toNat
     (∀ (o : FmtAt), ∀ x ∈ [(Instr.aadd t o, 0), (Instr.amin t o, 1), (Instr.amax t o, 2), (Instr.aminu t o, 3), (Instr.amaxu t o, 4),
         (Instr.aand t o, 5), (Instr.aor t o, 6), (Instr.axor t o, 7), (Instr.axchg t o, 8), (Instr.afadd t o, 10),
         (Instr.afmin t o, 11), (Instr.afmax t o, 12), (Instr.aincw t o, 13)], ∃ u q, exec x.1 s = .next u ∧ Queued s u q ∧ q.op = .atom x.2 ∧ q.chain = f / 16 ∧
       q.pos = f % 16 ∧ SameLanes q.addr (s.view.src o.a.toNat) ∧ SameLanes q.data (s.view.src o.b.toNat) ∧
       q.apois = (s.view.src o.a.toNat).pois ∧ q.dpois = (s.view.src o.b.toNat).pois ∧ q.rpl = o.rpl ∧
       q.dest = (if o.rpl then .reply o.y.toNat else .none) ∧ q.Of [s.view.src o.a.toNat, s.view.src o.b.toNat]) ∧
     (∀ (rpl : Bool) (y : BitVec 3) (a : BitVec 5) (b : BitVec 3), ∃ u q, exec (.acas t rpl y a b) s = .next u ∧ Queued s u q ∧
       q.op = .atom 9 ∧ q.chain = f / 16 ∧ q.pos = f % 16 ∧ SameLanes q.addr (s.view.src a.toNat) ∧
       SameLanes q.data (s.view.src (2 * b.toNat)) ∧ SameLanes q.swap (s.view.src (2 * b.toNat + 1)) ∧
       q.dest = (if rpl then .reply y.toNat else .none)))) ∧
  (∀ (t : BitVec 6) (s : State), s.HasWharf →
    (let f := (nth 0 s.view.img.cfg.fchain s.cur.j).toNat
     (∀ (o : FmtCpy), ∀ x ∈ [(Instr.cpy1 t o, 0), (Instr.cpy2 t o, 1), (Instr.cpyg t o, 2), (Instr.cpys t o, 3), (Instr.cpyf t o, 4)],
       ∃ u q, exec x.1 s = .next u ∧ Queued s u q ∧ q.op = .cpy x.2 ∧ q.chain = f / 16 ∧
       q.pos = f % 16 ∧ SameLanes q.data (s.view.src o.a.toNat) ∧ SameLanes q.addr (s.view.src o.b.toNat) ∧
       q.dest = replyTo o.d.toNat ∧ q.Of [s.view.src o.a.toNat, s.view.src o.b.toNat]) ∧
     (∀ (o : FmtDA), ∃ u q, exec (.cpyx t o) s = .next u ∧ Queued s u q ∧ q.op = .cpyx ∧ q.chain = f / 16 ∧ q.pos = f % 16 ∧
       SameLanes q.data (s.view.src o.a.toNat) ∧ q.dest = replyTo o.d.toNat ∧ q.Of [s.view.src o.a.toNat]) ∧
     (∀ (o : FmtDAB), ∀ x ∈ [(Instr.binit t o, ReqOp.binit), (Instr.bexp t o, ReqOp.bexp)],
       ∃ u q, exec x.1 s = .next u ∧ Queued s u q ∧ q.op = x.2 ∧ q.chain = f / 16 ∧ q.pos = f % 16 ∧
       SameLanes q.addr (s.view.src o.a.toNat) ∧ SameLanes q.data (s.view.src o.b.toNat) ∧ q.dest = replyTo o.d.toNat ∧
       q.Of [s.view.src o.a.toNat, s.view.src o.b.toNat]) ∧
     (∀ (o : FmtDA), ∀ x ∈ [(Instr.barv t o, ReqOp.barv), (Instr.bwait t o, ReqOp.bwait)],
       ∃ u q, exec x.1 s = .next u ∧ Queued s u q ∧ q.op = x.2 ∧ q.chain = f / 16 ∧ q.pos = f % 16 ∧
       SameLanes q.addr (s.view.src o.a.toNat) ∧ q.dest = replyTo o.d.toNat ∧ q.Of [s.view.src o.a.toNat])))

/-- R260: the value an update leaves in its word: the table of integer updates, and ACAS, which writes its swap value only where the
word equals the compare value.

R282: what a barrier operation does to an object: BINIT resets it unless copies are in flight (code 3); BEXP adds to what it
expects; BARV takes one of the remaining arrivals, the last of which opens the next phase, and answers 4 on an object of count 0. -/
def Obligations.UpdateAndBarrierValues : Prop :=
  ((∀ x ∈ updateTable, ∀ (ftz : Bool) (old v sw : W), atomLane x.1 ftz old v sw = (x.2 old v, true, 0)) ∧
  (∀ (ftz : Bool) (old v sw : W), (atomLane 9 ftz old v sw).1 = sw ∧ ((atomLane 9 ftz old v sw).2.1 = true ↔ old = v))) ∧
  (∀ (b : BObj) (n : W),
    (b.infl = 0 → (b.apply .binit n).1 =
      { b with count := n, remain := n, phase := 0, pend := 0, err := false, fseen := false } ∧ (b.apply .binit n).2.1 = 0) ∧
    (b.infl ≠ 0 → (b.apply .binit n).1 = b ∧ (b.apply .binit n).2.1 = 3) ∧
    ((b.apply .bexp n).1.pend.toNat = (b.pend.toNat + n.toNat) % 2 ^ 64) ∧
    (b.count = 0 → (b.apply .barv n).1 = b ∧ (b.apply .barv n).2.1 = 4 ∧ (b.apply .barv n).2.2 = none) ∧
    (b.count ≠ 0 → (b.apply .barv n).2.2 = some b.phase ∧
      (b.remain = 1 → (b.apply .barv n).1.remain = b.count ∧ (b.apply .barv n).1.phase = b.phase + 1) ∧
      (b.remain ≠ 1 → (b.apply .barv n).1.remain = b.remain - 1 ∧ (b.apply .barv n).1.phase = b.phase)))

/-- R296, R298, R299, R308: ARED, RSCAT, AGATH, BCST, A2A, CWAIT and CABRT complete: a collective operation enters a request with its descriptor at the chain and position that lane 5 gives;
CWAIT and CABRT enter one with the operation's id at the chain and position that the id gives. -/
def Obligations.CollectivesQueue : Prop :=
  ∀ (t : BitVec 6) (s : State), s.HasWharf →
    (∀ (o : FmtColl), ∀ x ∈ [(Instr.ared t o, 0), (Instr.rscat t o, 1), (Instr.agath t o, 2), (Instr.bcst t o, 3), (Instr.a2a t o, 4)],
      (let w := ((s.view.src o.a.toNat).lanes.get 5).toNat
       ∃ u q, exec x.1 s = .next u ∧ Queued s u q ∧ q.op = .coll x.2 ∧ q.chain = fld w 16 2 ∧ q.pos = fld w 12 4 ∧
         SameLanes q.data (s.view.src o.a.toNat) ∧ q.dest = replyTo o.d.toNat ∧ q.Of [s.view.src o.a.toNat])) ∧
    (∀ (o : FmtDA),
      (let w := ((s.view.src o.a.toNat).lanes.get 0).toNat
       ∃ u q, exec (.cwait t o) s = .next u ∧ Queued s u q ∧ q.op = .cwait ∧ q.chain = fld w 14 2 ∧ q.pos = fld w 10 4 ∧
         SameLanes q.data (s.view.src o.a.toNat) ∧ q.dest = replyTo o.d.toNat ∧ q.Of [s.view.src o.a.toNat])) ∧
    (∀ (a : BitVec 5),
      (let w := ((s.view.src a.toNat).lanes.get 0).toNat
       ∃ u q, exec (.cabrt t a) s = .next u ∧ Queued s u q ∧ q.op = .cabrt ∧ q.chain = fld w 14 2 ∧ q.pos = fld w 10 4 ∧
         SameLanes q.data (s.view.src a.toNat) ∧ q.dest = .none ∧ q.Of [s.view.src a.toNat]))

/-- R4, R305, R307, R309 to R311: a cycle begins by noting both views of its isle, and VGET writes what it noted and subscribes its
segment to both scopes; VACK makes a number that is the scope's current one the segment's acknowledged number at the end of the cycle
and ignores any other; VJOIN moves both scopes of an isle that is isolated since its reset to JOINING and does nothing on another. -/
def Obligations.ViewRules : Prop :=
  (∀ (s : State) (n k : Nat), s.seg n k ≠ none → k < (s.isle n).rings.length → n < s.isles.length →
    (let g := s.segD n k
     let p := (s.isle n).pview
     let y := (s.isle n).sview
     ∀ i, i < 16 → ((s.noteStart n k).segD n k).vlanes.get i = BitVec.ofNat 32
       (nth 0 [p.num, p.st.code, p.members.length, p.rank (s.panel, n), maskOf (p.members.map (·.2)) % 2 ^ 32,
         maskOf (p.members.map (·.2)) / 2 ^ 32, g.ackP, 0, y.num, y.st.code, y.members.length,
         y.rank (s.panel, n), maskOf (y.members.map (·.1)) % 2 ^ 32, maskOf (y.members.map (·.1)) / 2 ^ 32,
         g.ackS, 0] i))) ∧
  (∀ g : Seg, g.endAcks.nackP = none ∧ g.endAcks.nackS = none ∧ (∀ x, g.nackP = some x → g.endAcks.ackP = x) ∧
    (g.nackP = none → g.endAcks.ackP = g.ackP) ∧ (∀ x, g.nackS = some x → g.endAcks.ackS = x) ∧
    (g.nackS = none → g.endAcks.ackS = g.ackS)) ∧
  ∀ (t : BitVec 6) (s : State), s.HasElem →
    (∀ (d : BitVec 5), ∃ x, exec (.vget t d) s = .next (x.onCurSeg fun g => { g with subP := true, subS := true }) ∧
      Writes s (s.begin t []) x d.toNat 0 [] false fun k => (s.segD s.cur.n s.cur.k).vlanes.get k) ∧
    (∀ (a : BitVec 5),
      (let v := s.view.src a.toNat
       let num := (v.lanes.get 0).toNat
       v.null = false → v.pois = false →
       ((v.lanes.get 1).toNat = 5 → ∃ u, exec (.vack t a) s = .next u ∧ SegOnly s u ∧ SameMemory s u ∧
         (u.segD s.cur.n s.cur.k).subP = true ∧
         (u.segD s.cur.n s.cur.k).nackP = (if num = (s.isle s.cur.n).pview.num then some num else (s.segD s.cur.n s.cur.k).nackP) ∧
         (u.segD s.cur.n s.cur.k).nackS = (s.segD s.cur.n s.cur.k).nackS ∧
         (u.segD s.cur.n s.cur.k).ackP = (s.segD s.cur.n s.cur.k).ackP ∧ (u.segD s.cur.n s.cur.k).ackS = (s.segD s.cur.n s.cur.k).ackS) ∧
       ((v.lanes.get 1).toNat = 6 → ∃ u, exec (.vack t a) s = .next u ∧ SegOnly s u ∧ SameMemory s u ∧
         (u.segD s.cur.n s.cur.k).subS = true ∧
         (u.segD s.cur.n s.cur.k).nackS = (if num = (s.isle s.cur.n).sview.num then some num else (s.segD s.cur.n s.cur.k).nackS) ∧
         (u.segD s.cur.n s.cur.k).nackP = (s.segD s.cur.n s.cur.k).nackP ∧
         (u.segD s.cur.n s.cur.k).ackP = (s.segD s.cur.n s.cur.k).ackP ∧ (u.segD s.cur.n s.cur.k).ackS = (s.segD s.cur.n s.cur.k).ackS) ∧
       ((v.lanes.get 1).toNat ≠ 5 → (v.lanes.get 1).toNat ≠ 6 → exec (.vack t a) s = .next (s.begin t [rd a false])))) ∧
    (∃ u, exec (.vjoin t) s = .next u ∧ SameMemory s u ∧
      (((s.isle s.cur.n).pview.st = .isolated ∧ (s.isle s.cur.n).pview.sinceReset = true ∧ (s.isle s.cur.n).sview.st = .isolated ∧
          (s.isle s.cur.n).sview.sinceReset = true) →
        (u.isle s.cur.n).pview.st = .joining ∧ (u.isle s.cur.n).sview.st = .joining) ∧
      (((s.isle s.cur.n).pview.st ≠ .isolated ∨ (s.isle s.cur.n).sview.st ≠ .isolated) →
        (u.isle s.cur.n).pview = (s.isle s.cur.n).pview ∧ (u.isle s.cur.n).sview = (s.isle s.cur.n).sview))

/-- R398, R413, R414, R416 to R418: a TRAP detects a TRAP fault with its code, poisoned or not; a BRK arms a stop for its stripe's
invocation; a CYC writes the segment's cycle and the panel time at its start; a PERF writes the counters that its selector names and
clears FFLAGS or ERMASK where CLR is set, but for what the cycle raised; a HALT is noted, and at the end of its cycle ends the deal of
its task; one in a segment that has halted does nothing. -/
def Obligations.SystemRules : Prop :=
  ∀ (t : BitVec 6) (s : State), s.HasElem →
    (∀ (a : BitVec 5),
      (let v := s.view.src a.toNat
       let g := s.segD s.cur.n s.cur.k
       v.null = false → g.stopped = false → g.recs = [] → ∃ u r, exec (.trap t a) s = .next u ∧ SegOnly s u ∧ ElemKept s u ∧
         (u.segD s.cur.n s.cur.k).recs = [r] ∧ (u.segD s.cur.n s.cur.k).frz = some (g.frz.getD g.sck) ∧ r.kind = 0xA ∧
         r.d0 = (v.lanes.get 0).toNat ∧ r.pois = v.pois ∧ r.elem = s.cur.e ∧ r.slot = s.cur.j ∧ r.vs = g.vsAt s.cur.p ∧
         r.ord = s.curElem.ord.toNat)) ∧
    (∃ u, exec (.brk t) s = .next u ∧ SegOnly s u ∧ ElemKept s u ∧
      (((s.segD s.cur.n s.cur.k).live.stripe s.cur.p).arm = none →
        ((u.segD s.cur.n s.cur.k).live.stripe s.cur.p).arm = some ⟨s.curElem.erun, s.curElem.ord.toNat, 1, 0⟩)) ∧
    (∀ (d : BitVec 5),
      (let c := (s.segD s.cur.n s.cur.k).sck
       let time := (s.segD s.cur.n s.cur.k).cpt
       ∃ u, exec (.cyc t d) s = .next u ∧ Writes s (s.begin t []) u d.toNat 0 [] false fun k => BitVec.ofNat 32
         (if k = 0 then c else if k = 1 then c / 2 ^ 32 else if k = 2 then time else if k = 3 then time / 2 ^ 32 else 0))) ∧
    (((s.noteStart s.cur.n s.cur.k).segD s.cur.n s.cur.k).cpt = s.pt) ∧
    (∀ (o : FmtDA),
      (let v := s.view.src o.a.toNat
       let sel := fld (v.lanes.get 0).toNat 0 8
       let clr := tb (v.lanes.get 0) 8
       let el := s.view
       v.null = false → ∃ x u, exec (.perf t o) s = .next u ∧
         Writes s (s.begin t [rd o.a false]) x o.d.toNat 0 [v] v.pois (fun k => BitVec.ofNat 32
           (if sel = 0 then (if k = 0 then el.fflags.toNat else 0) else if sel = 1 then (if k = 0 then el.ermask.toNat else 0)
            else if sel = 2 then (if k = 0 then el.fires.toNat else if k = 1 then el.fires.toNat / 2 ^ 32 else 0)
            else if sel = 3 then (if k = 0 then (s.segD s.cur.n s.cur.k).sck else if k = 1 then (s.segD s.cur.n s.cur.k).sck / 2 ^ 32 else 0)
            else (nth (0 : W) (el.perfLanes (s.segD s.cur.n s.cur.k).sck sel) k).toNat)) ∧
         (0x10 ≤ sel → ∀ k, nth (0 : W) (el.perfLanes (s.segD s.cur.n s.cur.k).sck sel) k = 0) ∧
         (clr = true → sel = 0 → u.liveElem.fflags = x.liveElem.cyc.fnew) ∧
         (clr = true → sel = 1 → u.liveElem.ermask = x.liveElem.cyc.enew) ∧
         (clr = false ∨ 2 ≤ sel → u = x))) ∧
    ((s.segD s.cur.n s.cur.k).halted = true → exec (.halt t) s = .next (s.begin t [])) ∧
    ((s.segD s.cur.n s.cur.k).halted = false →
      (let g := s.segD s.cur.n s.cur.k
       let top := g.runsDealt - 1
       ∃ u, exec (.halt t) s = .next u ∧ SegOnly s u ∧ ElemKept s u ∧ (u.segD s.cur.n s.cur.k).halting = true ∧
         (u.segD s.cur.n s.cur.k).halted = false ∧ (u.segD s.cur.n s.cur.k).runs = g.runs ∧
         let w := u.endHalt s.cur.n s.cur.k
         SameMemory s w ∧ (w.segD s.cur.n s.cur.k).halted = true ∧ (w.segD s.cur.n s.cur.k).noMore = true ∧
         (∀ x ∈ (w.isle s.cur.n).hb.tasks, x.no = g.task → x.dealt = true) ∧
         (∀ r ∈ g.runs, r.no ≠ top → r ∈ (w.segD s.cur.n s.cur.k).runs) ∧
         ∀ r ∈ g.runs, r.no = top → ∃ c, { r with count := c } ∈ (w.segD s.cur.n s.cur.k).runs ∧ c ≤ r.count ∧
           ∀ x ∈ g.ports.zip g.image.streams, x.2.dir = 0 → x.1.run = top → min r.count (x.1.inv + x.1.begun.toNat) ≤ c))

/-- R415, R445 to R448: a MARK writes a trace record of kind 1 at the TAIL of the isle's trace ring, with the lane and the place of
the rule, and nothing where tracing does not take it; every byte outside the record is as it was. -/
def Obligations.Marks : Prop :=
  ∀ (t : BitVec 6) (a : BitVec 5) (s : State), s.HasElem → (s.view.src a.toNat).null = false →
    (let g := s.segD s.cur.n s.cur.k
     let v := s.view.src a.toNat
     let tr := (s.isle s.cur.n).trace
     let at_ := paOf s.cur.n (tr.log.base + 32 * tr.log.tail)
     (tr.takes 1 g.tenant = false → exec (.mark t a) s = .next (s.begin t [rd a false])) ∧
     (tr.takes 1 g.tenant = true → (tr.wrap = true ∨ tr.log.next ≠ tr.log.head) → Memory.wf s.mem = true → ∃ u, exec (.mark t a) s = .next u ∧
       u.bytes at_ 32 = leBytes 4 (1 + v.pois.toNat * 2 ^ 8 + tr.log.gap.toNat * 2 ^ 9 + s.cur.n * 2 ^ 16 + s.cur.k * 2 ^ 22) ++
         leBytes 4 tr.log.seq.toNat ++ leBytes 8 s.pt ++ leBytes 4 g.id.toNat ++ leBytes 2 (g.vsAt s.cur.p) ++ leBytes 1 s.cur.e ++
         leBytes 1 s.cur.j ++ leBytes 4 s.curElem.ord.toNat ++ leBytes 4 (v.lanes.get 0).toNat ∧
       (∀ x, x < at_ ∨ at_ + 32 ≤ x → u.byte x = s.byte x) ∧ (u.isle s.cur.n).trace.log.tail = tr.log.next ∧
       (u.isle s.cur.n).trace.log.seq = tr.log.seq + 1) ∧
     (tr.takes 1 g.tenant = true → tr.wrap = false → tr.log.next = tr.log.head → ∃ u, exec (.mark t a) s = .next u ∧ SameMemory s u ∧
       (u.isle s.cur.n).trace.log.lost.toNat = min (2 ^ 32 - 1) (tr.log.lost.toNat + 1) ∧
       (u.isle s.cur.n).trace.log.tail = tr.log.tail))

/-- R382 to R385: a mailbox instruction that fails a check writes its status and does nothing else; an MBXPUT that passes queues its
64 bytes as an observation of the next step; an MBXGET writes the oldest action to memory and takes it; an MBXPOLL writes the
mailbox's state, or all ones where the hart may not use it. -/
def Obligations.MailboxInstructions : Prop :=
  ∀ (d a b : BitVec 5) (s : State), s.HartReady →
    (let m := (s.h.reg a).toNat
     let box := (s.isle s.cur.n).mailbox (m % 256)
     let gives := fun (i : Instr) (v : W64) => exec i s = .next (s.onH (Hart.stepTo 4 d v))
     let ok := m < 256 ∧ s.mbxPermit m = true ∧ box.aborted = false ∧ m < (s.isle s.cur.n).mbx.length
     (∀ i ∈ [Instr.mbxput d a b, Instr.mbxget d a b],
       (256 ≤ m → gives i 5) ∧ (m < 256 → s.mbxPermit m = false → gives i 2) ∧
       (m < 256 → s.mbxPermit m = true → box.aborted = true → gives i 4)) ∧
     (m < 256 → s.mbxPermit m = true → gives (.mbxpoll d a) (BitVec.ofNat 64
       (box.act.length % 64 + (32 - box.obs.length) * 2 ^ 8 + box.open_.toNat * 2 ^ 16 + box.aborted.toNat * 2 ^ 17 +
         box.cur.isSome.toNat * 2 ^ 18))) ∧
     ((256 ≤ m ∨ s.mbxPermit m = false) → gives (.mbxpoll d a) (BitVec.allOnes 64)) ∧
     (ok → ∀ pa, s.Readable (s.h.reg b).toNat 64 pa →
       (let l := lanesOfBytes ((List.range 64).map fun k => s.skByte s.cur.n (pa + k))
        let w := (l.get 0).toNat
        let fits := w < 2 ^ 18 ∧ box.open_ = true ∧ w % 2 ^ 16 = box.epi.toNat ∧ l.get 1 = stepAfter box.ostep ∧ box.abortDue = []
        (fits → box.obs.length < 32 → ∃ u x, exec (.mbxput d a b) s = .next u ∧ SameMemory s u ∧ u.h.pc = s.h.pc + 4 ∧
          u.h.reg d = 0 ∧ (∀ r, r ≠ d → u.h.reg r = s.h.reg r) ∧ ((u.isle s.cur.n).mailbox m).obs = box.obs ++ [x] ∧
          (∀ k, k < 16 → x.lanes.get k = l.get k) ∧ x.kind = .data ∧ x.chkOk = true ∧
          ((u.isle s.cur.n).mailbox m).ostep = l.get 1 ∧ ((u.isle s.cur.n).mailbox m).act = box.act) ∧
        (∀ st : W64, (fits ∧ 32 ≤ box.obs.length ∧ st = 1) ∨ (2 ^ 18 ≤ w ∧ st = 5) ∨
            (w < 2 ^ 18 ∧ (box.open_ = false ∨ w % 2 ^ 16 ≠ box.epi.toNat ∨ l.get 1 ≠ stepAfter box.ostep) ∧ st = 3) →
          ∃ u, exec (.mbxput d a b) s = .next u ∧ SameMemory s u ∧ u.h = Hart.stepTo 4 d st s.h ∧
            (u.isle s.cur.n).mbx = (s.isle s.cur.n).mbx))) ∧
     (ok → box.act = [] → gives (.mbxget d a b) 1) ∧
     (ok → ∀ pa l rest, box.act = l :: rest → s.Writable (s.h.reg b).toNat 64 pa → ∃ u, exec (.mbxget d a b) s = .next u ∧
       SameMemory s u ∧ (∀ k, k < 64 → u.skByte s.cur.n (pa + k) = nth 0 (laneBytes l) k) ∧
       ((u.isle s.cur.n).mailbox m).act = rest ∧ ((u.isle s.cur.n).mailbox m).obs = box.obs ∧ u.h.pc = s.h.pc + 4 ∧ u.h.reg d = 0 ∧
       ∀ r, r ≠ d → u.h.reg r = s.h.reg r))

/-- R366, R380, R386, R423: a FUTLD of a full granule writes its eight bytes to the register; of an empty one it waits, or raises
FUTEMPTY in U-mode where user traps are enabled; a FUTST writes its granule, sets it full and changes no other byte; a misaligned
address and one outside the lagoon take their exceptions. -/
def Obligations.Futures : Prop :=
  ∀ (d a b : BitVec 5) (s : State), s.HartReady →
    (let va := (s.h.reg a).toNat
     (∀ pa, s.Reaches va 8 1 13 5 pa → paLagoon pa = true →
       (s.isFull pa = true → s.isPois pa = false → ∃ u, exec (.futld d a) s = .next u ∧ SameMemory s u ∧
         u.h = Hart.stepTo 4 d (BitVec.ofNat 64 (s.num pa 8)) s.h) ∧
       (s.isFull pa = false → s.h.mode = .u → s.h.ie = true → s.h.uftvec ≠ 0 → exec (.futld d a) s = .next (s.onH fun h =>
         { h with ufepc := h.pc, ufcause := BitVec.ofNat 64 (2 ^ 63 + 1), uftval := s.h.reg a, pie := true, ie := false, pc := h.uftvec })) ∧
       (s.isFull pa = false → (s.h.mode ≠ .u ∨ s.h.ie = false ∨ s.h.uftvec = 0) →
         exec (.futld d a) s = .next (s.onH fun h => { h with futld := some (d.toNat, va) }))) ∧
     (∀ pa, s.Reaches va 8 2 15 7 pa → paLagoon pa = true → Memory.wf s.mem = true → ∃ u, exec (.futst a b) s = .next u ∧
       (∀ k, k < 8 → u.byte (pa + k) = BitVec.ofNat 8 ((s.h.reg b).toNat / 256 ^ k)) ∧
       (∀ x, x < pa ∨ pa + 8 ≤ x → u.byte x = s.byte x) ∧ u.isFull pa = true ∧ u.isPois pa = false ∧
       (∀ x, x / 8 ≠ pa / 8 → u.isFull x = s.isFull x) ∧ u.h.pc = s.h.pc + 4 ∧ u.h.x = s.h.x) ∧
     (va % 8 ≠ 0 → (s.h.dataTrig 1 va = none → ∃ u, exec (.futld d a) s = .next u ∧ Traps s u 4 (s.h.reg a)) ∧
       (s.h.dataTrig 2 va = none → ∃ u, exec (.futst a b) s = .next u ∧ Traps s u 6 (s.h.reg a))) ∧
     (∀ pa, s.Reaches va 8 1 13 5 pa → paLagoon pa = false → ∃ u, exec (.futld d a) s = .next u ∧ Traps s u 5 (s.h.reg a)) ∧
     (∀ pa, s.Reaches va 8 2 15 7 pa → paLagoon pa = false → ∃ u, exec (.futst a b) s = .next u ∧ Traps s u 7 (s.h.reg a)))

/-- R379, R381, R382, R387, R388: an EPIBEG with a legal descriptor opens the episode on its hart and mailbox; one that fails a check
writes its status; one whose mailbox has a binding to promote waits for that (R377); an EPIEND closes the episode of its id and does nothing for another; a WDSET sets both budgets; in U-mode each of
them is an illegal instruction. -/
def Obligations.Episodes : Prop :=
  ∀ (d a b : BitVec 5) (s : State), s.HartReady →
    (s.h.mode = .u → ∀ i ∈ [Instr.epibeg d a b, Instr.epiend a, Instr.wdset a b], ∃ u, exec i s = .next u ∧
      Traps s u 2 (BitVec.ofNat 64 (wordOf i))) ∧
    (s.h.mode ≠ .u →
      (let va := (s.h.reg a).toNat
       let id := (s.h.reg b).toNat
       ((2 ^ 16 ≤ id ∨ va % 16 ≠ 0) → exec (.epibeg d a b) s = .next (s.onH (Hart.stepTo 4 d 5))) ∧
       (∀ bs x, id < 2 ^ 16 → va % 16 = 0 → s.readDescriptor va = .ok (bs, x) →
         (enclosureOf bs = none → ∃ u, exec (.epibeg d a b) s = .next u ∧ SameMemory s u ∧ u.h.reg d = (if d = 0 then 0 else 5) ∧
           u.h.epi = s.h.epi) ∧
         (∀ box wins, enclosureOf bs = some (box, wins) →
           (let m := (s.isle s.cur.n).mailbox box
            (m.en = false ∨ s.h.isTenant m.tenant = false → ∃ u, exec (.epibeg d a b) s = .next u ∧ SameMemory s u ∧
              u.h.reg d = (if d = 0 then 0 else 2) ∧ u.h.epi = s.h.epi) ∧
            (m.en = true → s.h.isTenant m.tenant = true → (m.open_ = true ∨ s.h.epi ≠ none) →
              ∃ u, exec (.epibeg d a b) s = .next u ∧ SameMemory s u ∧ u.h.reg d = (if d = 0 then 0 else 6) ∧ u.h.epi = s.h.epi) ∧
            (m.en = true → s.h.isTenant m.tenant = true → m.open_ = false → s.h.epi = none → m.promoDue = true →
              exec (.epibeg d a b) s = .next s) ∧
            (m.en = true → s.h.isTenant m.tenant = true → m.open_ = false → s.h.epi = none → m.promoDue = false →
              box < (s.isle s.cur.n).mbx.length →
              ∃ u, exec (.epibeg d a b) s = .next u ∧ SameMemory s u ∧ u.h.reg d = 0 ∧ u.h.pc = s.h.pc + 4 ∧
                u.h.epi = some ⟨box, BitVec.ofNat 16 id, wins, 0, false, 0, 0, none⟩ ∧
                (let m' := (u.isle s.cur.n).mailbox box
                 m'.open_ = true ∧ m'.hart = s.cur.e ∧ m'.epi = BitVec.ofNat 16 id ∧ m'.aborted = false ∧ m'.stale = false ∧
                 m'.ostep = 0xFFFFFFFF ∧ m'.astep = 0xFFFFFFFF ∧ m'.act = [] ∧ m'.obs = m.obs))))) ∧
       (∀ e, s.h.epi = some e →
         ((s.h.reg a).toNat % 2 ^ 16 = e.id.toNat → ∃ u, exec (.epiend a) s = .next u ∧ SameMemory s u ∧ u.h.epi = none ∧
           u.h.pc = s.h.pc + 4 ∧ u.h.x = s.h.x ∧ ((u.isle s.cur.n).mailbox e.mbx).open_ = false ∧
           ((u.isle s.cur.n).mailbox e.mbx).aborted = ((s.isle s.cur.n).mailbox e.mbx).aborted) ∧
         (∃ u, exec (.wdset a b) s = .next u ∧ SameMemory s u ∧ u.h.pc = s.h.pc + 4 ∧ u.h.x = s.h.x ∧
           ∃ e', u.h.epi = some e' ∧ e'.cyc = s.h.reg a ∧ e'.rtt = (s.h.reg b).toNat % 2 ^ 32 ∧ e'.cycCnt = 0 ∧ e'.wins = e.wins ∧
             e'.id = e.id ∧ e'.mbx = e.mbx)) ∧
       ((match s.h.epi with | some e => (s.h.reg a).toNat % 2 ^ 16 ≠ e.id.toNat | none => True) →
         exec (.epiend a) s = .next (s.onH (Hart.stepTo 4 0 0))) ∧
       (s.h.epi = none → exec (.wdset a b) s = .next (s.onH (Hart.stepTo 4 0 0)))))

/-- R382, R389, R390, R402: FRZRD and FRZWR read and write eight bytes of the scan window of a frozen segment of the hart's tenant and
are access faults for another address; SEGRES restarts the segment's clock, SEGRPL discards its repair entries and replays it,
SEGKILL ends it and its task, and changes no memory where nothing that has issued is unperformed; a command that the harbour does not accept writes its code; in U-mode without HND each is an illegal
instruction. -/
def Obligations.FrozenSegments : Prop :=
  ∀ (d a b : BitVec 5) (s : State), s.HartReady →
    (let at_ := (s.h.reg a).toNat
     let n := s.cur.n
     (s.h.mode = .u → s.h.sftHnd = false →
       ∀ i ∈ [Instr.frzrd d a, Instr.frzwr a b, Instr.segres d a, Instr.segrpl d a, Instr.segkill d a], ∃ u, exec i s = .next u ∧
         Traps s u 2 (BitVec.ofNat 64 (wordOf i))) ∧
     (s.h.mode ≠ .u ∨ s.h.sftHnd = true →
       (s.scanRing at_ = none → (∃ u, exec (.frzrd d a) s = .next u ∧ Traps s u 5 (s.h.reg a)) ∧
         ∃ u, exec (.frzwr a b) s = .next u ∧ Traps s u 7 (s.h.reg a)) ∧
       (∀ k, s.scanRing at_ = some k →
         (let g := s.segD n k
          ((g.scanOpen (at_ % 2 ^ 32) = false → exec (.frzrd d a) s =
              .next (s.onH (Hart.stepTo 4 d (BitVec.ofNat 64 (g.scanRead ((s.isle n).ring k) (at_ % 2 ^ 32)))))) ∧
           (g.scanOpen (at_ % 2 ^ 32) = true → ∃ v u, exec (.frzrd d a) s = .next u ∧ u.h = Hart.stepTo 4 d v s.h ∧ SameMemory s u) ∧
           ∃ u, exec (.frzwr a b) s = .next u ∧ SameMemory s u ∧ u.seg n k = some (g.scanWrite (at_ % 2 ^ 32) (s.h.reg b).toNat) ∧
             u.h = Hart.stepTo 4 0 0 s.h))) ∧
       (∀ c k, s.cmdStatus (at_ % 2 ^ 32) = (c, k) → c ≠ 0 → ∀ i ∈ [Instr.segres d a, Instr.segrpl d a, Instr.segkill d a],
         exec i s = .next (s.onH (Hart.stepTo 4 d (BitVec.ofNat 64 c)))) ∧
       (∀ k, s.cmdStatus (at_ % 2 ^ 32) = (0, k) →
         (let g := s.segD n k
          (g.sopend = false → ∃ u, exec (.segres d a) s = .next u ∧ u.h = Hart.stepTo 4 d 0 s.h ∧ (u.segD n k).stopped = false ∧
            (u.segD n k).sck = g.sck) ∧
          (s.replayReaches n g = false → exec (.segrpl d a) s = .next (s.onH (Hart.stepTo 4 d 8))) ∧
          (s.replayReaches n g = true → ∃ u, exec (.segrpl d a) s = .next u ∧ u.h = Hart.stepTo 4 d 0 s.h ∧ (u.segD n k).sopend = false ∧
            (g.settled = false → (u.segD n k).cmd = true ∧
              ∀ st ∈ (u.segD n k).live.stripes, ∀ e ∈ st.wharf.rq, e = none) ∧
            (g.settled = true → (u.segD n k).stopped = false)) ∧
          ∃ u, exec (.segkill d a) s = .next u ∧ u.h = Hart.stepTo 4 d 0 s.h ∧ u.seg n k = none ∧
            ((∀ st ∈ g.live.stripes, st.wharf.fly = [] ∧ st.wharf.atoms = [] ∧ st.wharf.wc = []) → SameMemory s u) ∧
            ∀ x ∈ (u.isle n).hb.tasks, x.no = g.task → x.status ≠ none ∧ x.dealt = true))))

/-- R50, R52, R315, R317: a dock word with a reserved bit set or that names another queue halts its queue with BADDOCK; so does an
unassigned operation. HEAD stays, and nothing else happens. -/
def Obligations.DockWordChecks : Prop :=
  ∀ (w : DockW) (v : W64) (s : State), s.HasQueue →
    ((w.rsv ≠ 0 ∨ w.queue.toNat ≠ s.cur.k) → ∀ i ∈ dockWords w v, ∃ u, exec i s = .next u ∧ Halts s u 1 0) ∧
    (∀ op, ∃ u, exec (.unassignedDockOp w op) s = .next u ∧ Halts s u 1 0)

/-- R320, R321, R337: WAITGE, SIGNAL and SEMSET on a semaphore of their own isle that the tenant may use: WAITGE completes once the
value has reached its operand and waits otherwise, SIGNAL adds modulo 2^64, SEMSET writes; a semaphore that the tenant may not use is
SEMPERM; a word for another isle is sent there once, waits, and completes with the answer. -/
def Obligations.DockSemaphores : Prop :=
  ∀ (w : DockW) (v : W64) (s : State), s.DockReady w → s.cur.n < 64 →
    (let name := w.arg.toNat
     let idx := name % 256
     let own := (nth 0 (s.isle s.cur.n).hb.own idx).toNat
     let old := nth 0 (s.isle s.cur.n).hb.sem idx
     let may := own % 64 = s.q.tenant.toNat ∨ own / 64 % 2 = 1
     (name / 256 = s.cur.n → name < 40 * 256 → (s.isle s.cur.n).hb.sem.length = 256 →
       (may → v.toNat ≤ old.toNat → ∃ u, exec (.waitge w v) s = .next u ∧ HeadPast s u 2 ∧ SameMemory s u ∧
         (u.isle s.cur.n).hb = (s.isle s.cur.n).hb) ∧
       (may → old.toNat < v.toNat → ∃ u, exec (.waitge w v) s = .next u ∧ WaitsAt s u) ∧
       (may → ∃ u, exec (.signal w v) s = .next u ∧ HeadPast s u 2 ∧ SameMemory s u ∧
         (nth 0 (u.isle s.cur.n).hb.sem idx).toNat = (old.toNat + v.toNat) % 2 ^ 64 ∧
         ∀ j, j ≠ idx → nth 0 (u.isle s.cur.n).hb.sem j = nth 0 (s.isle s.cur.n).hb.sem j) ∧
       (may → ∃ u, exec (.semset w v) s = .next u ∧ HeadPast s u 2 ∧ SameMemory s u ∧ nth 0 (u.isle s.cur.n).hb.sem idx = v ∧
         ∀ j, j ≠ idx → nth 0 (u.isle s.cur.n).hb.sem j = nth 0 (s.isle s.cur.n).hb.sem j) ∧
       (¬may → ∀ i ∈ [Instr.waitge w v, Instr.signal w v, Instr.semset w v], ∃ u, exec i s = .next u ∧ Halts s u 5 0)) ∧
     (name / 256 ≠ s.cur.n → name < 40 * 256 →
       ∀ i ∈ [(Instr.waitge w v, 0), (Instr.signal w v, 1), (Instr.semset w v, 2)],
         (s.inView s.cur.n (name / 256) = false → ∃ u, exec i.1 s = .next u ∧ Halts s u 6 0) ∧
         (s.inView s.cur.n (name / 256) = true → s.q.out = none → ∃ u f, exec i.1 s = .next u ∧ u.net = s.net ++ [f] ∧
           f.dst = s.member (name / 256) ∧ f.body = .sem i.2 s.cur.k (s.isle s.cur.n).hb.msgNo idx v s.q.tenant.toNat ∧
           u.q.wait = true ∧ u.q.head = s.q.head ∧ SameMemory s u) ∧
         (s.inView s.cur.n (name / 256) = true → ∀ x id, s.q.out = some x → s.q.answer = some (id, true) →
           ∃ u, exec i.1 s = .next u ∧ HeadPast s u 2 ∧ SameMemory s u) ∧
         (s.inView s.cur.n (name / 256) = true → ∀ x id, s.q.out = some x → s.q.answer = some (id, false) →
           ∃ u, exec i.1 s = .next u ∧ Halts s u 5 0)) ∧
     (40 * 256 ≤ name → ∀ i ∈ [Instr.waitge w v, Instr.signal w v, Instr.semset w v], ∃ u, exec i s = .next u ∧ Halts s u 1 0))

/-- R339 to R342, R346: JMP sets HEAD inside the window; LOOP counts and goes back while its count stands; IRQ sends its message, or
counts one for an absent bridge; DFENCE completes when nothing launched is left and waits otherwise; PRIO caps the priority; DHALT
halts past its word. A target outside the window, a count of 0 and a bad operand are BADDOCK. -/
def Obligations.DockControl : Prop :=
  ∀ (w : DockW) (s : State), s.DockReady w →
    (let a := w.arg.toNat
     let q := s.q
     (a % 8 = 0 → q.base ≤ a → a < q.limit → ∃ u, exec (.jmp w) s = .next u ∧ SameMemory s u ∧
       u.q = { q with wait := false, out := none, answer := none, work := 0, head := a }) ∧
     ((a % 8 ≠ 0 ∨ a < q.base ∨ q.limit ≤ a) → ∃ u, exec (.jmp w) s = .next u ∧ Halts s u 1 0) ∧
     (let m := a / 2 ^ 32
      let to_ := (q.head : Int) + 8 * (BitVec.ofNat 32 a).toInt
      let left := (if q.lc = 0 ∨ q.laddr ≠ q.head then m else q.lc) - 1
      (m ≠ 0 → (q.base : Int) ≤ to_ → to_ < q.limit → ∃ u, exec (.loop w) s = .next u ∧ SameMemory s u ∧
        (0 < left → u.q.lc = left ∧ u.q.laddr = q.head ∧ (u.q.head : Int) = to_) ∧
        (left = 0 → u.q.lc = 0 ∧ u.q.laddr = 0 ∧ u.q.head = q.head + 8)) ∧
      ((m = 0 ∨ to_ < q.base ∨ (q.limit : Int) ≤ to_) → ∃ u, exec (.loop w) s = .next u ∧ Halts s u 1 0)) ∧
     (a < 2 ^ 13 → ∃ u, exec (.irq w) s = .next u ∧ HeadPast s u 1 ∧ SameMemory s u ∧
       (s.bridgeUp (a / 2 ^ 11) = true → u.irqs = s.irqs ++ [(a / 2 ^ 11, a % 2 ^ 11)]) ∧
       (s.bridgeUp (a / 2 ^ 11) = false → a / 2 ^ 11 < s.ports.length → u.irqs = s.irqs ∧
         (u.port (a / 2 ^ 11)).irqdrop.toNat = min (2 ^ 32 - 1) ((s.port (a / 2 ^ 11)).irqdrop.toNat + 1))) ∧
     (1 ≤ a → a ≤ 6 → (q.infl = 0 → ∃ u, exec (.dfence w) s = .next u ∧ HeadPast s u 1 ∧ SameMemory s u) ∧
       (q.infl ≠ 0 → ∃ u, exec (.dfence w) s = .next u ∧ WaitsAt s u)) ∧
     ((a = 0 ∨ 7 ≤ a) → ∃ u, exec (.dfence w) s = .next u ∧ Halts s u 1 0) ∧
     (a < 4 → ∃ u, exec (.prio w) s = .next u ∧ SameMemory s u ∧ u.q.cap.toNat = min a q.maxprio.toNat ∧ u.q.head = q.head + 8) ∧
     (a = 0 → ∃ u, exec (.dhalt w) s = .next u ∧ SameMemory s u ∧ u.q.halt = true ∧ u.q.cause = 2 ∧ u.q.detail = 0 ∧
       u.q.head = q.head + 8))

/-- R316, R324, R336: a LAUNCH whose card passes its checks creates a task with the card's fields and the priority of R328, raises
INFL and completes; a card of another tenant and a card with a field out of form are BADCARD 2 and 3; a poisoned card is POISONED.

R276, R316, R338: a COPYQ with a well-formed descriptor raises INFL and completes; its copy starts in the lowest free slot, or waits in
the ferry where all 1,024 are in use; an unreadable descriptor and a reserved operation are COPYDESC. -/
def Obligations.DockLaunchAndCopy : Prop :=
  (∀ (w : DockW) (s : State), s.DockReady w → s.q.ty ≠ 1 → w.arg.toNat % 64 = 0 → s.launchFull = false →
    s.pagesEnd s.q.tenant.toNat s.cur.n (dockVa w) 64 = none →
    (let tenant := s.q.tenant.toNat
     let c := s.readCard tenant (dockVa w)
     (s.vaPois tenant (dockVa w) 64 = true → ∃ u, exec (.launch w) s = .next u ∧ Halts s u 10 1) ∧
     (s.vaPois tenant (dockVa w) 64 = false → s.cardPages s.cur.n c = true →
       (c.tenant ≠ tenant → ∃ u, exec (.launch w) s = .next u ∧ Halts s u 4 2) ∧
       (c.tenant = tenant → c.formed = false → ∃ u, exec (.launch w) s = .next u ∧ Halts s u 4 3) ∧
       (c.tenant = tenant → c.formed = true → c.donesem = 0xFFFF → c.failsem = 0xFFFF → s.q.out = none → s.q.work = 0 →
         ((s.isle s.cur.n).cardHandles c = false → ∃ u, exec (.launch w) s = .next u ∧ Halts s u 4 5) ∧
         ((s.isle s.cur.n).cardHandles c = true → (s.isle s.cur.n).cardRings c = false →
           ∃ u, exec (.launch w) s = .next u ∧ Halts s u 4 6) ∧
         ((s.isle s.cur.n).cardHandles c = true → (s.isle s.cur.n).cardRings c = true → s.vaPois tenant c.regs (16 * c.regn) = false →
           ∃ u x, exec (.launch w) s = .next u ∧ u.q.infl = s.q.infl + 1 ∧ u.q.head = s.q.head + 8 ∧ u.q.halt = s.q.halt ∧
             x ∈ (u.isle s.cur.n).hb.tasks ∧ x.no = (s.isle s.cur.n).hb.taskNo + 1 ∧ x.card = c ∧ x.queue = s.cur.k ∧
             x.prio = min c.prio s.q.cap.toNat))))) ∧
  (∀ (w : DockW) (s : State), s.DockReady w → s.q.ty = 1 → w.arg.toNat % 64 = 0 → s.launchFull = false →
    (let tenant := s.q.tenant.toNat
     let n := s.cur.n
     let c := (s.readCopyq tenant (dockVa w) w.arg.toNat s.cur.k).1
     (s.vaReadable tenant (dockVa w) 64 = false → ∃ u, exec (.copyq w) s = .next u ∧ Halts s u 8 0) ∧
     (s.vaReadable tenant (dockVa w) 64 = true → s.vaPois tenant (dockVa w) 64 = false →
       (5 ≤ c.op → ∃ u, exec (.copyq w) s = .next u ∧ Halts s u 8 0) ∧
       (c.op < 5 → (∀ i, i < 1024 → s.slotFree n i = false) → ∃ u f, exec (.copyq w) s = .next u ∧ SameMemory s u ∧
         u.q.infl = s.q.infl + 1 ∧ u.q.head = s.q.head + 8 ∧ (u.isle n).ferry.copies = (s.isle n).ferry.copies ∧
         (u.isle n).ferry.waiting = (s.isle n).ferry.waiting ++ [(c, f)]) ∧
       (c.op < 5 → (s.readCopyq tenant (dockVa w) w.arg.toNat s.cur.k).2 = true → c.bytes ≠ 0 → (s.isle n).ferry.waiting = [] →
         (∀ x ∈ s.nextReads n c, ∀ pa ∈ s.copyPa n tenant x.2 false, s.hostDown pa = false) →
         ∀ slot, slot < 1024 → s.slotFree n slot = true → (∀ i, i < slot → s.slotFree n i = false) →
         ∃ u x, exec (.copyq w) s = .next u ∧ SameMemory s u ∧ u.q.infl = s.q.infl + 1 ∧ u.q.head = s.q.head + 8 ∧
           (u.isle n).ferry.copies = (s.isle n).ferry.copies ++ [(slot, x)] ∧ x.op = c.op ∧ x.src = c.src ∧ x.dst = c.dst ∧
           x.len = c.len ∧ x.rows = c.rows ∧ x.tenant = tenant))))

/-- R343 to R345: BALLOC allots the lowest free frames and id to the tenant, cleared and empty, and writes the handle; BFREE frees a
buffer that no task holds and raises its generation; HANDOFF writes the handle and IH into the successor card; each checks its handle
or size and halts with BUFFER.

R353, R354, R361 to R363: FLUSHR cleans the lines of its region in the stack cache, and in the skerry caches for a SKERRY-SHARED
one; INVR takes those lines out of the skerry caches; FWDR flushes and then copies. The word waits while its action goes on, 64 KiB a
step, and completes with it. -/
def Obligations.DockBuffersAndRegions : Prop :=
  (∀ (w : DockW) (v : W64) (s : State), s.DockReady w →
    (let tenant := s.q.tenant.toNat
     let n := s.cur.n
     let h := (s.isle n).hb
     let size := w.arg.toNat
     let cnt := (size + 65535) / 65536
     let form := v.toNat / 2 ^ 62
     (size < 2 ^ 40 → form ≠ 3 → fld v.toNat 48 14 = 0 →
       ((size = 0 ∨ h.bpCount < cnt) → ∃ u, exec (.balloc w v) s = .next u ∧ Halts s u 7 1) ∧
       (size ≠ 0 → cnt ≤ h.bpCount → ∀ first id, h.freeRun cnt = some first → h.freeId = some id →
         (let gen := match lookupN id h.handles with | some x => x.gen | none => 0
          ∀ x, (s.clearFrames n first cnt).putHandle form (v.toNat % 2 ^ 48) (gen * 2 ^ 16 + id) (h.bwin + 65536 * first) = some x →
            ∃ u, exec (.balloc w v) s = .next u ∧ u.mem = x.mem ∧ HeadPast s u 2 ∧
              lookupN id (u.isle n).hb.handles = some ⟨gen, some tenant, first, cnt, false⟩)) ∧
       (size ≠ 0 → cnt ≤ h.bpCount → (h.freeRun cnt = none ∨ h.freeId = none) → ∃ u, exec (.balloc w v) s = .next u ∧ WaitsAt s u)) ∧
     (∀ first a, (paOf n (0x8000000000 + 65536 * first) ≤ a ∧ a < paOf n (0x8000000000 + 65536 * first) + 65536 * cnt →
         (s.clearFrames n first cnt).byte a = 0) ∧
       (¬(paOf n (0x8000000000 + 65536 * first) ≤ a ∧ a < paOf n (0x8000000000 + 65536 * first) + 65536 * cnt) →
         (s.clearFrames n first cnt).byte a = s.byte a)) ∧
     (size < 2 ^ 32 →
       (h.handleOk size tenant = false → ∃ u, exec (.bfree w) s = .next u ∧ Halts s u 7 2) ∧
       (h.handleOk size tenant = true → (∃ x, x ∈ h.holders size) → ∃ u, exec (.bfree w) s = .next u ∧ WaitsAt s u) ∧
       (h.handleOk size tenant = true → h.holders size = [] → ∃ u x, exec (.bfree w) s = .next u ∧ SameMemory s u ∧ HeadPast s u 1 ∧
         lookupN (size % 2 ^ 16) (u.isle n).hb.handles = some x ∧ x.owner = none ∧ x.gen = (size / 2 ^ 16 + 1) % 2 ^ 16) ∧
       (s.q.ty = 0 →
         (h.handleOk size tenant = false → ∃ u, exec (.handoff w v) s = .next u ∧ Halts s u 7 2) ∧
         (let va := sext48 v.toNat
          h.handleOk size tenant = true → (∀ x ∈ h.tasks, bitN x.card.flags 0 = true → x.card.result ≠ size) →
          (∀ o ∈ [0x24, 0x25, 0x34, 0x37], ∃ l, s.walk tenant ((va + o) % 2 ^ 64) = some l ∧ paPanel l.pa = true ∧ paIsle l.pa = n ∧
            l.w = true) →
          s.vaPois tenant (va + 0x24) 2 = false →
          ∃ u, exec (.handoff w v) s = .next u ∧ HeadPast s u 2 ∧
            u.mem = ((s.vaWrite tenant (va + 0x34) (leBytes 4 size)).vaWrite tenant (va + 0x24)
              (leBytes 2 (s.vaNum tenant (va + 0x24) 2 ||| 2))).mem))))) ∧
  (∀ (w : DockW) (s : State), s.DockReady w → w.arg.toNat % 16 = 0 →
    (let tenant := s.q.tenant.toNat
     let n := s.cur.n
     let k := s.cur.k
     let h := (s.isle n).hb
     let cleanIn := fun (u : State) (r : Region) => ∀ x ∈ u.sc, x.1 ∈ s.linesOf tenant r.base (min 65536 r.extent) →
       paIsle (x.1 * 64) = n → x.2 = false
     (∀ r, s.q.work ≠ 1 → h.edge = [] → s.readRecord tenant (dockVa w) = .ok r →
       (∃ u, exec (.flushr w) s = .next u ∧ cleanIn u r ∧ (r.extent ≤ 65536 → u.q.head = s.q.head + 8) ∧
         (65536 < r.extent → u.q.head = s.q.head ∧ u.q.wait = true)) ∧
       (∃ u, exec (.invr w) s = .next u ∧ (bitN r.mode 3 = false → SameMemory s u) ∧
         (bitN r.mode 3 = true → ∀ x ∈ s.linesOf tenant r.base (min 65536 r.extent), ∀ l ∈ (u.isle n).sk, l.pa ≠ x * 64) ∧
         ((bitN r.mode 3 = false ∨ r.extent ≤ 65536) → u.q.head = s.q.head + 8) ∧
         (bitN r.mode 3 = true → 65536 < r.extent → u.q.head = s.q.head ∧ u.q.wait = true)) ∧
       (∀ t, s.readTarget tenant (dockVa w) r = .ok t → s.targetEnd tenant r.fwd t = none → 0 < r.extent →
         ∃ u, exec (.fwdr w) s = .next u ∧ cleanIn u r ∧ u.q.head = s.q.head ∧ u.q.wait = true)) ∧
     (∀ j, s.q.work = 1 → h.edge = [j] → j.isQueue = true → j.who = k → j.act = 2 →
       (let full := (j.reg.extent + 65535) / 65536 * 65536
        (full ≤ j.off → j.off < full + j.reg.extent → j.gone = false → s.targetGone n j (j.off - full) = false →
          (∀ pa ∈ s.copyPa n j.tenant ((j.reg.base + (j.off - full)) % 2 ^ 64) false, s.hostDown pa = false) → ∀ slot, slot < 1024 → s.slotFree n slot = true →
          (∀ i, i < slot → s.slotFree n i = false) → ∃ u c, exec (.fwdr w) s = .next u ∧ SameMemory s u ∧
          (u.isle n).ferry.copies = (s.isle n).ferry.copies ++ [(slot, c)] ∧ c.op = 0 ∧ c.src = (j.reg.base + (j.off - full)) % 2 ^ 64 ∧
          c.dst = (j.dst + (j.off - full)) % 2 ^ 64 ∧ c.len = min 65536 (j.reg.extent - (j.off - full)) ∧ u.q.wait = true) ∧
        (2 * full ≤ j.off → (∀ c ∈ (s.isle n).ferry.copies, c.2.edge ≠ some (k * 2 + 1)) →
          ∃ u, exec (.fwdr w) s = .next u ∧ SameMemory s u ∧ u.q.head = s.q.head + 8))) ∧
     (∀ e d, s.q.work ≠ 1 → s.readRecord tenant (dockVa w) = .error (e, d) → ∀ i ∈ [Instr.flushr w, Instr.invr w, Instr.fwdr w],
       ∃ u, exec i s = .next u ∧ Halts s u e d)))

/-- R314 to R317, R319 to R321, R337, R484: the events of dock queues and semaphores: doorbells, GO, STOP, QCFG, writes of a semaphore,
a waiting word that is executed again, messages between harbours with their answers and their time limit, and a write of PRQHEAD. -/
def Obligations.QueueEvents : Prop :=
  ∀ (s : State), s.HasQueue →
    (let n := s.cur.n
     let k := s.cur.k
     let q := s.q
     (∀ v : BitVec 64, s.cur.e = 0 →
       (let m := v.toNat / 2 ^ 40 % 64
        let j := v.toNat / 2 ^ 46 % 16
        let a := v.toNat % 2 ^ 40
        let x := (s.isle m).queue j
        (v.toNat < 2 ^ 50 → a % 8 = 0 → m < s.isles.length → m < 40 → (s.isle m).up = true → j < (s.isle m).queues.length →
          (x.base ≤ a ∧ a ≤ x.limit → ∃ u, exec (.doorbell v) s = .next u ∧ (u.isle m).queue j = { x with tail := a }) ∧
          (a < x.base ∨ x.limit < a → ∃ u, exec (.doorbell v) s = .next u ∧ (u.isle m).queue j = { x with dberr := true })) ∧
        ((2 ^ 50 ≤ v.toNat ∨ a % 8 ≠ 0 ∨ 40 ≤ m) → k < s.ports.length → ∃ u, exec (.doorbell v) s = .next u ∧ u.isles = s.isles ∧
          (u.port k).dbdrop.toNat = min (2 ^ 32 - 1) ((s.port k).dbdrop.toNat + 1)))) ∧
     (q.halt = true → ∃ u, exec .queueGo s = .next u ∧ u.q = { q with halt := false, cause := 0, detail := 0 }) ∧
     (q.halt = false → ∃ u, exec .queueGo s = .next u ∧ u.q = q) ∧
     (q.halt = false → ∃ u, exec .queueStop s = .next u ∧ u.q.halt = true ∧ u.q.cause = 3 ∧ u.q.head = q.head ∧ u.q.wait = false) ∧
     (q.halt = true → exec .queueStop s = .next s) ∧
     (∀ v : BitVec 32, ∃ u, exec (.qcfgWrite v) s = .next u ∧ u.q.maxprio.toNat = v.toNat / 2 ^ 8 % 4 ∧ u.q.en = tb v 10 ∧
       ((q.en = false ∨ q.halt = true ∨ q.ty = 3) → u.q.ty.toNat = v.toNat % 4 ∧ u.q.tenant.toNat = v.toNat / 4 % 64) ∧
       (q.en = true → q.halt = false → q.ty ≠ 3 → u.q.ty = q.ty ∧ u.q.tenant = q.tenant) ∧ u.q.head = q.head ∧ u.q.tail = q.tail) ∧
     (∀ v : BitVec 64, s.cur.j < (s.isle n).hb.sem.length → ∃ u, exec (.semaphoreWrite v) s = .next u ∧
       nth 0 (u.isle n).hb.sem s.cur.j = v ∧ ∀ i, i ≠ s.cur.j → nth 0 (u.isle n).hb.sem i = nth 0 (s.isle n).hb.sem i) ∧
     (∀ w v, s.dockRead = .word w v → q.wait = true →
       (∃ u, exec .blockedWordResume s = .next u ∧ exec (decodeDock w v) s = .next u) ∧
       (∀ d x, decodeDock w v = .waitge d x → s.DockReady d → d.arg.toNat / 256 = n → d.arg.toNat < 40 * 256 →
         (s.isle n).hb.semAllowed (d.arg.toNat % 256) q.tenant.toNat = true →
         x.toNat ≤ (nth 0 (s.isle n).hb.sem (d.arg.toNat % 256)).toNat → ∃ u, exec .waitgeSatisfied s = .next u ∧ HeadPast s u 2)) ∧
     (∀ f kind who id idx v tenant, s.flitFor n s.cur.j = some f → f.body = .sem kind who id idx v tenant → s.firstMsg s.cur.j f = true →
       idx < (s.isle n).hb.sem.length →
       (let old := nth 0 (s.isle n).hb.sem idx
        let answers := fun (u : State) (ok final : Bool) => ∃ g ∈ u.net, g.dst = s.member f.src.2 ∧ g.body = .semAns who id ok final
        ((s.isle n).hb.semAllowed idx tenant = true →
          (kind = 1 → ∃ u, exec .semaphoreMessageReceive s = .next u ∧ nth 0 (u.isle n).hb.sem idx = old + v ∧ answers u true true) ∧
          (kind = 2 → ∃ u, exec .semaphoreMessageReceive s = .next u ∧ nth 0 (u.isle n).hb.sem idx = v ∧ answers u true true) ∧
          (kind = 0 → old.toNat < v.toNat → ∃ u, exec .semaphoreMessageReceive s = .next u ∧ nth 0 (u.isle n).hb.sem idx = old ∧
            answers u true false ∧ ⟨idx, v, f.src.2, who, id⟩ ∈ (u.isle n).hb.watches)) ∧
        ((s.isle n).hb.semAllowed idx tenant = false → kind ≤ 3 → ∃ u, exec .semaphoreMessageReceive s = .next u ∧
          (u.isle n).hb.sem = (s.isle n).hb.sem ∧ answers u false true))) ∧
     (∀ f id ok sent isle acked, s.flitFor n s.cur.j = some f → s.firstMsg s.cur.j f = true → q.out = some (id, sent, isle, acked) →
       (f.body = .semAns k id ok false → ∃ u, exec .semaphoreAnswerReceive s = .next u ∧ u.q.out = some (id, sent, isle, acked || ok) ∧
         u.q.head = q.head) ∧
       (∀ w v d x, f.body = .semAns k id ok true → s.dockRead = .word w v → decodeDock w v = .signal d x → s.DockReady d →
         d.arg.toNat / 256 ≠ n → d.arg.toNat < 40 * 256 → s.inView n (d.arg.toNat / 256) = true → ∃ u,
         exec .semaphoreAnswerReceive s = .next u ∧ (ok = true → HeadPast s u 2) ∧ (ok = false → u.q.halt = true ∧ u.q.cause = 5))) ∧
     (∀ id sent isle acked, q.out = some (id, sent, isle, acked) →
       (acked = false → q.answer = none → sent + 100000 ≤ s.pt → ∃ u, exec .semaphoreMessageTimeout s = .next u ∧ Halts s u 6 0) ∧
       (s.inView n isle = false → ∃ u, exec .semaphoreMessageTimeout s = .next u ∧ Halts s u 6 0) ∧
       (s.inView n isle = true → (acked = true ∨ s.pt < sent + 100000) → exec .semaphoreMessageTimeout s = .next s)) ∧
     (∀ v : BitVec 32, (s.isle n).hb.prqHeld = [] → ∃ u, exec (.prqHeadWrite v) s = .next u ∧ SameMemory s u ∧
       (u.isle n).hb.prqHead = v.toNat % 2 ^ 16))

/-- R213 to R217, R220, R221, R248, R325 to R331, R355, R410: the harbour's own work: a ring takes a task and is dealt its run, a task
runs through its edge actions and completes, a segment is pre-empted, scanned out and comes back, re-latches and promotions start and
end, and the ferry's page counters are released. -/
def Obligations.TaskEvents : Prop :=
  ∀ (s : State), s.HasIsle → s.cur.k < (s.isle s.cur.n).rings.length →
    (let n := s.cur.n
     let k := s.cur.k
     let h := (s.isle n).hb
     let skip := match s.seg n k with | some g => g.task | none => 0
     (∀ t xs a, (s.isle n).nextTask k skip = some t → s.ringFree n k = true →
       (∀ p, (s.isle n).backPrio k = some p → p < t.prio) →
       (∀ v, v < t.image.nstripe → v + 1 < ((s.isle n).ring k).stripes → (t.no, v) ∈ ((s.isle n).ring k).cache) →
       s.extentsOf t.card.tenant n t.regions = .ok xs → t.image.mailboxes = [] → s.pairingBad n k (s.newSeg n k t xs) = false →
       h.area t k = some a → ∃ u g, exec .ringPlace s = .next u ∧ u.seg n k = some g ∧ g.task = t.no ∧ g.tenant = t.card.tenant ∧
         g.extents = xs ∧ g.runsDealt = 1 ∧ g.stopped = false) ∧
     (∀ g t, s.seg n k = some g → h.task g.task = some t → g.stopped = false → g.frz = none → g.halt = .none → g.runOver = true →
       t.dealt = false → (s.isle n).nextTask k t.no = none → (s.isle n).backPrio k = none →
       (let left := t.card.argn - t.next
        let rings := max 1 ((s.isle n).ringsOf t.no)
        let c := min left (min (max ((left + 2 * rings - 1) / (2 * rings)) (max t.card.cmin 1)) g.image.runmax)
        ∃ u, exec .runDeal s = .next u ∧ (u.segD n k).runsDealt = g.runsDealt + 1 ∧
          (⟨g.runsDealt, t.next, c⟩ : Run) ∈ (u.segD n k).runs ∧ ∃ x ∈ (u.isle n).hb.tasks, x.no = t.no ∧ x.next = t.next + c)) ∧
     (∀ t, h.task s.cur.e = some t → t.st = .done → t.queue < (s.isle n).queues.length → t.status = none →
       ∃ u, exec .taskComplete s = .next u ∧ (∀ x ∈ (u.isle n).hb.tasks, x.no ≠ t.no) ∧
         ((u.isle n).queue t.queue).infl = ((s.isle n).queue t.queue).infl - 1) ∧
     (∀ t, h.task s.cur.e = some t → (∀ j ∈ h.edge, j.isQueue = true ∨ j.who ≠ t.no) →
       (t.st = .inv → ∃ u, exec .edgeInvActions s = .next u ∧ SameMemory s u ∧ ∀ x ∈ (u.isle n).hb.tasks, x.no = t.no → x.st = .ready) ∧
       (t.st = .ending → t.phase = 0 → ∃ u, exec .edgeEndActions s = .next u ∧ SameMemory s u ∧
         (u.isle n).hb.edge = h.edge ++ t.jobs 2 ∧ ∀ x ∈ (u.isle n).hb.tasks, x.no = t.no → x.phase = 1) ∧
       (t.st = .ending → t.phase ≠ 0 → ∃ u, exec .edgeEndActions s = .next u ∧ SameMemory s u ∧
         ∀ x ∈ (u.isle n).hb.tasks, x.no = t.no → x.st = .done)) ∧
     (∀ g, s.seg n k = some g →
       (∀ t, g.halt ≠ .saving → s.preemptFor n k = some t → (h.freeSlots 1).isSome = true → ∃ u, exec .preempt s = .next u ∧
         SameMemory s u ∧ u.seg n k = some { g with halt := .preempting, ousts := some t.no }) ∧
       (g.halt = .saving → g.saveReady = true → ((s.isle n).ring k).saved = [] → ∀ slot r, h.freeSlots 1 = some (slot :: r) →
         s.poisIn (s.slotPa n slot) g.ctxLen = false → ∃ u, exec .preempt s = .next u ∧
         (∀ a, a < s.slotPa n slot ∨ s.slotPa n slot + g.ctxLen ≤ a → u.byte a = s.byte a) ∧ u.seg n k = none ∧
         ((u.isle n).ring k).saved = [(g.lowered, slot)])) ∧
     (∀ x xs, ((s.isle n).ring k).saved = [x] → s.ringFree n k = true → (s.isle n).backPrio k = some (h.prioOf x.1.task) →
       (s.isle n).nextTask k 0 = none → s.seg n k = none →
       (s.extentsOf x.1.tenant n x.1.regions = .ok xs → s.ctxBad n k x.1 x.2 = false → ∃ u g, exec (.preemptRestore false) s = .next u ∧ SameMemory s u ∧
         u.seg n k = some g ∧ g.id = x.1.id ∧ g.live = x.1.live ∧ g.extents = xs ∧ g.halt = .none) ∧
       (∃ u, exec (.preemptRestore true) s = .next u ∧ SameMemory s u ∧ u.seg n k = none ∧
         ∀ t ∈ (u.isle n).hb.tasks, t.no = x.1.task → t.lost = true ∧ t.status ≠ none)) ∧
     (∀ x, ((s.isle n).ring k).scanned = [x] → x.1.id.toNat = s.cur.j → x.1.cmd = true → s.ringFree n k = true → s.seg n k = none →
       (s.isle n).backPrio k = some (h.prioOf x.1.task) → (s.isle n).nextTask k 0 = none →
       ∃ u g, exec (.scanoutRestore false) s = .next u ∧ SameMemory s u ∧ u.seg n k = some g ∧ g.id = x.1.id ∧ g.live = x.1.live ∧
         ((u.isle n).ring k).scanned = []) ∧
     (∀ v : BitVec 32, tb v 6 = true → h.relatch.act = none → h.relatch.pages ≠ 0 → ∃ u, exec (.relatchGo v) s = .next u ∧
       SameMemory s u ∧ (u.isle n).hb.relatch.act = some (sext48 h.relatch.va, h.relatch.pages, v.toNat % 64)) ∧
     (∀ x, h.relatch.act = some x → s.relatchThrough n = true → ∃ u, exec .relatchComplete s = .next u ∧
       (u.isle n).hb.relatch.act = none) ∧
     (∀ v : BitVec 32, k < h.promo.length → tb v 6 = true → (nth default h.promo k).state ≠ 1 →
       (let p := nth default h.promo k
        let t := v.toNat % 64
        let ends := fun (st : Nat) => ∃ u, exec (.promoteGo v) s = .next u ∧ SameMemory s u ∧ (nth default (u.isle n).hb.promo k).state = st
        (h.writeSet t (sext48 p.va) = true → ends 3) ∧
        (h.writeSet t (sext48 p.va) = false → s.promoLeaves n t (sext48 p.va) = none → ends 4) ∧
        (∀ ls, h.writeSet t (sext48 p.va) = false → s.promoLeaves n t (sext48 p.va) = some ls →
          (fld p.dst 21 2 ≠ k ∨ paStack (paOf n p.dst) = false → ends 5) ∧
          (fld p.dst 21 2 = k → paStack (paOf n p.dst) = true → ends 1)))) ∧
     (∀ ls base frame tenant, k < h.promo.length → (nth default h.promo k).state = 1 →
       (nth default h.promo k).job = some (base, frame, tenant) → h.relatch.act = none → s.promoLeaves n tenant base = some ls →
       ∃ u, exec .promoteComplete s = .next u ∧ (nth default (u.isle n).hb.promo k).state = 2 ∧
         (u.isle n).hb.relatch.act = some (base, 32, tenant)) ∧
     (∀ v : BitVec 32, (∀ c ∈ (s.isle n).ferry.hpc, c.marked = false) → ∃ u, exec (.hpcHeadWrite v) s = .next u ∧ SameMemory s u ∧
       (u.isle n).ferry.hpcHead = v.toNat % 2 ^ 16) ∧
     (∀ v : BitVec 64, ∃ u, exec (.hpcRelease v) s = .next u ∧ SameMemory s u ∧
       ∀ c ∈ (s.isle n).ferry.hpc, (c.page ≠ v.toNat / 2 ^ 21 → c ∈ (u.isle n).ferry.hpc) ∧
         (c.page = v.toNat / 2 ^ 21 → { c with count := 0, queued := false, marked := false } ∈ (u.isle n).ferry.hpc)))

/-- R72, R73, R163, R172, R173, R184: the element's own steps. The gate takes the marker of every gate-routed in-channel, writes it to
every routed out-channel and does its actions; the B stage takes a head; an MMA starts, reads its plane tile at the end of its
occupancy and folds into its accumulator tile. No byte of memory changes. -/
def Obligations.ElementEvents : Prop :=
  ∀ (s : State), s.HasTiles →
    (let g := s.segD s.cur.n s.cur.k
     let el := s.liveElem
     (∀ kind, g.gateReady s.cur.p s.cur.e = some kind → g.clockHeld = false → el.cyc.fired = [] → el.cyc.gate = false →
       g.selected s.cur.p s.cur.e = [] → (g.live.stripe s.cur.p).res = true →
       ∃ u, exec .markerGateFire s = .next u ∧ SameMemory s u ∧ u.liveElem.cyc.gate = true ∧
         (∀ k ∈ g.gateChans s.cur.p s.cur.e, k ∈ u.liveElem.cyc.taken) ∧
         (kind = .eoi → u.liveElem.ord = el.ord + 1 ∧ u.liveElem.erun = el.erun) ∧
         (kind = .fin → u.liveElem.ord = 0 ∧ u.liveElem.nextSeq = 0 ∧ u.liveElem.erun = el.erun + 1) ∧
         (∀ o, [0, 1, 2, 3].filter (fun k => g.routed s.view k) = [o] → routeKind (s.curElem.route o) ≠ 3 → kind = .fin →
           ∃ x y, MarkerSent s x y o .fin ∧ u = y.gateActs .fin)) ∧
     (∀ k t, s.view.intakeReady el = some (k, t) → s.clockOn = true → ∃ u x, exec .bStageIntake s = .next u ∧ SegOnly s u ∧
       u.liveElem.stage = el.stage ++ [x] ∧ x.tok.lanes = t.lanes ∧ x.tok.kind = t.kind ∧ x.tok.poison = t.pois ∧ x.tok.chkOk = true ∧
       x.grp = none ∧ k ∈ u.liveElem.cyc.taken ∧ (t.chkOk = false → k ∈ u.liveElem.cyc.badchk) ∧ u.liveElem.v = el.v) ∧
     (∀ m, el.startDue g.sck = some m → s.clockOn = true → ∃ u, exec .mmaStart s = .next u ∧ SegOnly s u ∧
       ({ m with start := some g.sck } : Mma) ∈ u.liveElem.mq ∧ (∀ x ∈ el.mq, x.id ≠ m.id → x ∈ u.liveElem.mq) ∧
       u.liveElem.planes = el.planes ∧ u.liveElem.acc = el.acc) ∧
     (∀ m, el.endDue g.sck = some m → m.plane < 16 → s.clockOn = true → ∃ u, exec .mmaOccupancyEnd s = .next u ∧ SegOnly s u ∧
       (∃ x ∈ u.liveElem.mq, x.id = m.id ∧ x.ended = true ∧ x.a = (el.plane m.plane).vals ∧
         x.pois = (m.pois || (el.plane m.plane).prow != 0)) ∧
       (u.liveElem.plane m.plane).busy = (el.plane m.plane).busy - 1 ∧ (u.liveElem.plane m.plane).vals = (el.plane m.plane).vals ∧
       (∀ x ∈ u.liveElem.stage, x.grp = some m.id → x.done = true) ∧ u.liveElem.acc = el.acc) ∧
     (∀ m, el.foldDue g.sck = some m → m.acc < 8 → s.clockOn = true → ∃ u, exec .mmaFoldLand s = .next u ∧ SegOnly s u ∧
       (u.liveElem.accT m.acc).vals = (m.results (el.accT m.acc).vals).map (fun r => BitVec.ofNat 32 r.1) ∧
       (u.liveElem.accT m.acc).pend = (el.accT m.acc).pend - 1 ∧ (∀ x ∈ u.liveElem.mq, x.id ≠ m.id) ∧
       (m.pois = true → (u.liveElem.accT m.acc).poison = true) ∧
       (∀ a, a ≠ m.acc → u.liveElem.accT a = el.accT a) ∧ u.liveElem.planes = el.planes ∧ u.liveElem.v = el.v))

/-- R79 to R83, R85, R410, R427, R434: scrolling and the configuration cache. An image enters its ring's cache and one whose digest
differs ends its task; the next pair is configured in the free stripe, has its state record put back, and becomes resident; a stateful
stripe saves its state; a stripe that END has passed leaves the window; and parked tokens go to their consumer. -/
def Obligations.ScrollEvents : Prop :=
  ∀ (s : State), s.HasSeg →
    (let n := s.cur.n
     let k := s.cur.k
     let p := s.cur.p
     let g := s.segD n k
     (∀ t, (s.isle n).hb.task s.cur.e = some t → s.cur.j < t.image.nstripe → ((s.isle n).ring k).cache.contains (t.no, s.cur.j) = false →
       s.heldEnd t.card.tenant n (t.image.entry + stripeOff s.cur.j + 0x40) 8192 = none →
       (let same := sha3 ((List.range 8192).map fun i => s.heldByte n t.card.tenant (t.image.entry + stripeOff s.cur.j + 0x40 + i)) =
          (nth default t.image.stripes s.cur.j).digest
        (same → ∃ u, exec .configCacheFill s = .next u ∧ (t.no, s.cur.j) ∈ ((u.isle n).ring k).cache ∧
          (((s.isle n).ring k).cacheBytes + 8192 ≤ 2 ^ 22 → SameMemory s u ∧ u.seg n k = s.seg n k)) ∧
        (¬same → ∃ u, exec .configCacheFill s = .next u ∧ (g.task = t.no → u.seg n k = none) ∧
          ∀ x ∈ (u.isle n).hb.tasks, x.no = t.no → x.dealt = true ∧ x.status ≠ none))) ∧
     (∀ q, g.stageAt = some q → q < g.live.stripes.length → g.scrolls = true → g.stopped = false → g.halt = .none → s.nextWanted n g = true →
       (g.live.stripe q).res = false → (∀ x ∈ g.live.stripes, x.stg = false) →
       ((s.isle n).ring k).cache.contains (g.task, g.nextVs) = true →
       ∃ u, exec .stagingConfigure s = .next u ∧ SameMemory s u ∧
         (let h := u.segD n k
          (h.live.stripe q).vs = g.nextVs ∧ (h.live.stripe q).run = g.nextRun ∧ (h.live.stripe q).stg = true ∧
          (h.live.stripe q).res = false ∧ (∀ x, x ≠ q → h.live.stripe x = g.live.stripe x) ∧
          (h.nextRun, h.nextVs) = nextPair g.image.nstripe g.nextRun g.nextVs)) ∧
     (∀ q, findIdx (fun (st : Stripe) => st.stg && !st.saved) g.live.stripes = some q →
       ((∀ x, g.recordBefore (g.live.stripe q).vs (g.live.stripe q).run = some x → s.recordBad n k g x = false) →
         ∃ u, exec (.stateRestore false) s = .next u ∧ SegOnly s u ∧ (u.segD n k).live.stripe q =
         { g.restored (g.live.stripe q) with saved := true, hold := 13 * ((g.live.stripe q).elems.filter (·.on)).length }) ∧
       (∃ u, exec (.stateRestore true) s = .next u ∧ u.seg n k = none ∧
         ((∀ st ∈ g.live.stripes, st.wharf.fly = [] ∧ st.wharf.atoms = [] ∧ st.wharf.wc = []) → SameMemory s u) ∧ ∀ t ∈ (u.isle n).hb.tasks, t.no = g.task → t.lost = true ∧ t.status ≠ none)) ∧
     (∀ q, findIdx (fun (st : Stripe) => st.stg) g.live.stripes = some q → g.clockHeld = false → (g.live.stripe q).saved = true →
       (g.live.stripe q).hold = 0 → (g.start.stripe (g.start.succ q)).res = false →
       ∃ u, exec .stripeResident s = .next u ∧ (u.segD n k).live.stripe q = { g.live.stripe q with stg := false, res := true, saved := false } ∧
         (∀ x, x ≠ q → (u.segD n k).live.stripe x = g.live.stripe x) ∧
         ((s.isle n).trace.takes 3 g.tenant = false → SameMemory s u)) ∧
     (∀ r, g.saveDue p = some r → p < g.live.stripes.length → g.clockHeld = false → (g.live.stripe p).saved = false →
       ∃ u, exec .statefulSave s = .next u ∧
         (∃ x ∈ (u.segD n k).srecs, x.vs = (g.live.stripe p).vs ∧ x.run = r ∧ x.elems = (g.live.stripe p).elems) ∧
         (((s.isle n).ring k).cacheBytes + 26624 * ((g.live.stripe p).elems.filter fun (e : Elem) => e.on).length ≤ 2 ^ 22 →
           SegOnly s u ∧ ∀ x ∈ g.srecs, x.vs ≠ (g.live.stripe p).vs ∨ x.run + 1 = r → x ∈ (u.segD n k).srecs) ∧
         ((u.segD n k).live.stripe p).saved = g.scrolls ∧
         ((u.segD n k).live.stripe p).hold = 13 * ((g.live.stripe p).elems.filter fun (e : Elem) => e.on).length ∧
         ((u.segD n k).live.stripe p).elems = (g.live.stripe p).elems) ∧
     (g.evictable p = true → ∃ u, exec .stripeEvict s = .next u ∧
       (u.segD n k).live.stripe p = { Stripe.vacant with vs := (g.live.stripe p).vs, run := (g.live.stripe p).run } ∧
       (∀ x, x ≠ p → (u.segD n k).live.stripe x = g.live.stripe x) ∧
       ((s.wharf p).wc = [] → (s.isle n).trace.takes 4 g.tenant = false → SameMemory s u)) ∧
     (∀ x q, g.clockHeld = false → g.live.parkd = [x] →
       findIdx (fun (t : Stripe) => t.res && t.vs == x.vs && t.run == x.src) g.start.stripes = some q → q < g.live.stripes.length →
       x.elem < (g.live.stripe q).elems.length → x.ch < (g.live.elem q x.elem).inq.length →
       (let was := nth [] (g.start.elem q x.elem).inq x.ch
        let now := nth [] (g.live.elem q x.elem).inq x.ch
        now.length ≤ was.length → now.length < 4 → ∃ u, exec .passBufferReplay s = .next u ∧ SegOnly s u ∧ (u.segD n k).live.parkd = [] ∧
          nth [] ((u.segD n k).live.elem q x.elem).inq x.ch = now ++ [x.slot])))

/-- R194, R199 to R206, R224, R227, R229 to R232, R236, R237, R266, R268: the wharf's own steps. A null request replies null and does
nothing; one whose access is not declared is held with its record; a load replies with the bytes of memory; a store writes its bytes at
their banks or in the buffer, and no other byte; a request that is not performed as it issues flies, and its lines are performed apart; STF sets its granules full and SETE empties them; a reply lands in its register; a parked LDS
wakes; a line of the buffer drains; a lane of an update is applied at its word and no other byte changes; and a repaired update is
issued again. -/
def Obligations.WharfEvents : Prop :=
  ∀ (s : State), s.HasWharf →
    (let n := s.cur.n
     let k := s.cur.k
     let p := s.cur.p
     let g := s.segD n k
     let w := s.wharf p
     (∀ q, s.issuable p s.cur.j = some q → s.behindRelatch n g q = false → q.null = true → ∃ u, exec .wharfRequestIssue s = .next u ∧
       SegOnly s u ∧ SameMemory s u ∧ OutOfChain u p q ∧ Answered s u p q.no fun t => t.kind = .null ∧ (t.seqv, t.seq) = (q.seqv, q.seq)) ∧
     (∀ q a c r, s.issuable p s.cur.j = some q → s.behindRelatch n g q = false → s.slotsOk q = true → q.null = false → q.apois = false →
       q.dpois = false → q.chain = s.cur.j → g.failing n q = (a, c) :: r → g.recs = [] → ∃ u x, exec .wharfRequestIssue s = .next u ∧ SegOnly s u ∧
       SameMemory s u ∧ (u.segD n k).recs = [x] ∧ x.kind = 1 ∧ x.cause = c ∧ x.elem = q.elem ∧ x.slot = q.slot ∧ x.addr = q.recAddr ∧
       (u.segD n k).frz.isSome = true ∧ ∃ y ∈ nth [] (u.wharf p).chains q.chain, y.no = q.no ∧ y.held = true) ∧
     (∀ q, s.IssuesWhole q → q.op = .ld ∨ q.op = .ldq ∨ q.op = .srd → w.wc = [] → ∃ u, exec .wharfRequestIssue s = .next u ∧ SameMemory s u ∧
       OutOfChain u p q ∧ Answered s u p q.no fun t => t.kind = .data ∧ s.LoadedLane q t.lanes ∧ (t.seqv, t.seq) = (q.seqv, q.seq) ∧
         ((∀ a ∈ s.reqBytes g n q, ∀ b, a = some b → s.isPois b = false) → t.poison = false)) ∧
     (∀ q, s.IssuesWhole q → q.op = .st ∨ q.op = .swr → s.Clean (s.storeCells g n q) →
       (let cells := s.storeCells g n q
        ((∀ c ∈ cells, paLagoon c.1 = true) → ∃ u, exec .wharfRequestIssue s = .next u ∧ Wrote s u cells ∧ OutOfChain u p q ∧
          u.full = s.full ∧ u.liveElem = s.liveElem) ∧
        ((∀ c ∈ cells, paLagoon c.1 = false) → cells.length < 64 → w.wc.length + cells.length ≤ 16 →
          (∀ l ∈ w.wc, ∀ c ∈ cells, l.pa ≠ c.1 / 64 * 64) → ∃ u, exec .wharfRequestIssue s = .next u ∧ SameMemory s u ∧
          OutOfChain u p q ∧ ∀ c ∈ cells, (u.wharf p).wcByte c.1 = lastAt c.1 cells))) ∧
     (∀ q, s.IssuesWhole q → q.op = .stf → s.Clean (s.storeCells g n q) → (∀ c ∈ s.storeCells g n q, paLagoon c.1 = true) → w.wc = [] →
       ∃ u, exec .wharfRequestIssue s = .next u ∧ Wrote s u (s.storeCells g n q) ∧ (∀ c ∈ s.storeCells g n q, u.isFull c.1 = true) ∧
         ∀ x, s.isFull x = true → u.isFull x = true) ∧
     (∀ q, s.Issues q → s.atOnce p q (s.issueLines g n q) = false → w.wc = [] → ∃ u f, exec .wharfRequestIssue s = .next u ∧ SegOnly s u ∧
       SameMemory s u ∧ OutOfChain u p q ∧ (u.wharf p).fly = w.fly ++ [f] ∧ f.req = { q with iss := g.wck, ahead := f.req.ahead } ∧
       f.lines = s.issueLines g n q ∧ f.left = f.lines ∧ f.got = []) ∧
     (∀ fl l, w.fly = [fl] → l ∈ fl.left → fl.issued g.wck l = true →
       (let cells := (s.storeCells g n fl.req).filter fun c => inLine l c.1
        let u := s.performLine p fl.req.no l
        (fl.req.op = .st ∨ fl.req.op = .swr → s.Clean cells → (∀ c ∈ cells, paLagoon c.1 = true) → Wrote s u cells ∧ u.full = s.full ∧
          ∀ x ∈ (u.wharf p).fly, x.req = fl.req ∧ x.left = fl.left.filter fun y => y != l) ∧
        (fl.req.op = .ld ∨ fl.req.op = .ldq ∨ fl.req.op = .srd → fl.got = [] → fl.left = [l] → s.reqLines g n fl.req = [l] → w.wc = [] →
          SameMemory s u ∧ (u.wharf p).fly = [] ∧
          Answered s u p fl.req.no fun t => t.kind = .data ∧ s.LoadedLane fl.req t.lanes ∧ (t.seqv, t.seq) = (fl.req.seqv, fl.req.seq)))) ∧
     (∀ q, s.Issues q → q.op = .sete → ∃ u, exec .wharfRequestIssue s = .next u ∧ (∀ x, u.byte x = s.byte x) ∧
       (∀ a, some a ∈ s.reqBytes g n q → paLagoon a = true → u.isFull a = false) ∧
       (∀ x, (∀ a, some a ∈ s.reqBytes g n q → granule a ≠ granule x) → u.isFull x = s.isFull x)) ∧
     (∀ q f, s.Issues q → q.op = .atom f → q.liveLanes ≠ 0 → ∃ u a, exec .wharfRequestIssue s = .next u ∧ SegOnly s u ∧ SameMemory s u ∧
       (u.wharf p).atoms = w.atoms ++ [a] ∧ a.req = { q with iss := g.wck, ahead := a.req.ahead } ∧ a.lmask = q.liveLanes ∧ OutOfChain u p q) ∧
     (∀ x t due d, w.pend.find? (fun x => x.no == s.cur.j) = some x → x.got = some (t, due) → t.kind.isMarker = false → due ≤ g.wck → g.clockHeld = false →
       (g.live.stripe p).res = true → (∀ y ∈ w.pend, y.elem = x.elem → y.dest = x.dest → y = x) → x.dest = .vreg d → d < 16 →
       x.elem = s.cur.e → ∃ u, exec .replyLand s = .next u ∧ SegOnly s u ∧ (∀ y ∈ (u.wharf p).pend, y.no ≠ x.no) ∧
         (t.kind = .data → u.liveElem.vreg d = ⟨t.lanes, true, t.poison, t.seqv, if t.seqv then t.seq else 0, true⟩) ∧
         (t.kind = .null → u.liveElem.vreg d = s.liveElem.vreg d) ∧ ∀ r, r ≠ d → u.liveElem.vreg r = s.liveElem.vreg r) ∧
     (∀ q, w.parked.find? (fun q => q.no == s.cur.j && q.op == .lds) = some q → s.ldsReady g n q = true → g.stopped = false → w.wc = [] →
       ∃ u, exec .ldsWake s = .next u ∧ SameMemory s u ∧ (∀ x ∈ (u.wharf p).parked, x.no ≠ q.no) ∧
         Answered s u p q.no fun t => t.kind = .data ∧ s.LoadedLane q t.lanes) ∧
     (∀ l r, g.drainsNow p = true → w.wc = l :: r → s.Clean (l.bytes.map fun b => (l.pa + b.1, b.2)) →
       ∃ u, exec .wcLineDrain s = .next u ∧ Wrote s u (l.bytes.map fun b => (l.pa + b.1, b.2)) ∧ (u.wharf p).wc = r) ∧
     (∀ a i f pa, w.atoms.find? (fun a => a.req.no == s.cur.j) = some a → i < 16 → a.lmask = BitVec.ofNat 16 (2 ^ i) → a.req.op = .atom f →
       (s.ownerCause n k a.req a.lmask).1 = 0 → g.lanePa n a.req i = some pa → g.ownerAt n pa = none → bitN s.cur.x i = true → w.fly = [] →
       s.laneCause n k a.req i = 0 → pa % 4 = 0 → Memory.wf s.mem = true →
       (let r := atomLane f false (BitVec.ofNat 32 (s.num pa 4)) (a.req.data.get i) (a.req.swap.get i)
        ∃ u, exec .atomicApply s = .next u ∧ (∀ y ∈ (u.wharf p).atoms, y.req.no ≠ a.req.no) ∧
          (∀ x, u.byte x = if r.2.1 = true ∧ pa ≤ x ∧ x < pa + 4 then BitVec.ofNat 8 (r.1.toNat / 256 ^ (x - pa)) else s.byte x) ∧
          (a.req.rpl = true → a.drop = 0 → i < a.old.length → tb a.req.liveLanes i = true →
            Answered s u p a.req.no fun t => t.kind = .data ∧ t.lanes.get i = BitVec.ofNat 32 (s.num pa 4)))) ∧
     (∀ e, nth none w.rq s.cur.j = some e → e.cause = 1 → (∀ i, i < 16 → tb e.lmask i = true → s.laneCause n k e.req i ≠ 1) →
       g.stopped = false → e.act ≠ 1 → g.failing n { e.req with held := true } = [] → e.lmask &&& e.req.liveLanes ≠ 0 →
       ∃ u a, exec .repairReentry s = .next u ∧ SegOnly s u ∧ (u.wharf p).atoms = w.atoms ++ [a] ∧ a.req.no = e.req.no ∧
         a.req.addr = e.req.addr ∧ a.req.data = e.req.data ∧ a.lmask = e.lmask &&& e.req.liveLanes ∧ a.old = e.old ∧
         nth none (u.wharf p).rq s.cur.j = none))

/-- R274, R277 to R279, R282: the life of a copy and of a wait for a barrier object. Bytes of a copy land at their destination, and no
other byte changes; a copy that meets a fault is suspended there and counted, resumes once its page is found, and ends where its request
is not answered or its port is not up; a forward asks again while its target stays in the view; a parked BWAIT wakes when its object
opens, and is held with its fault where the object is poisoned. -/
def Obligations.CopyEvents : Prop :=
  ∀ (s : State), s.HasIsle → (s.isle s.cur.n).ferry.waiting = [] →
    (let n := s.cur.n
     let f := (s.isle n).ferry
     (∀ c, f.copy s.cur.j = some c →
       (∀ off len, s.LandsPlainly c off len → Memory.wf s.mem = true →
         ∃ u, exec (.copyBytesLand off len) s = .next u ∧ Wrote s u (s.copyCells c off len) ∧
           (∀ x ∈ s.copyCells c off len, paLagoon x.1 = true → u.isFull x.1 = true) ∧
           (c.done + len ≠ c.bytes → ∃ d, (u.isle n).ferry.copy s.cur.j = some d ∧ d.landed = c.landed ++ [(off, len)] ∧ d.susp = c.susp) ∧
           (c.done + len = c.bytes → (u.isle n).ferry.copy s.cur.j = none)) ∧
       (∀ unit b cause side va, b = unit * c.unitSize →
         ((List.range c.unitSize).map (b + ·)).findSome? (fun x => s.copyFaultAt n c x) = some (cause, side, va) → c.susp = none →
         b < c.bytes → c.read = b →
         ∃ u d, exec (.copyFault unit) s = .next u ∧ (u.isle n).ferry.copy s.cur.j = some d ∧ d.susp = some (b, cause, side, va) ∧
           d.landed = c.landed ∧ d.got = c.got ∧ (u.isle n).ferry.faults = min (2 ^ 32 - 1) (f.faults + 1)) ∧
       (∀ b cause side va, c.susp = some (b, cause, side, va) → c.found = true → accessFault (s.fwalk n c.tenant va) (side == .dst) = 0 →
         c.obj = none →
         (let down := fun (x : Side × Nat) => ∃ a ∈ s.copyPa n c.tenant x.2 false, s.hostDown a = true
          ((∀ x ∈ s.nextReads n c, ¬down x) → ∃ u d, exec .copyResume s = .next u ∧ SameMemory s u ∧
            (u.isle n).ferry.copy s.cur.j = some d ∧ d.susp = none ∧ d.landed = c.landed ∧ d.got = c.got) ∧
          ((∃ x ∈ s.nextReads n c, down x) → ∃ u, exec .copyResume s = .next u ∧ (u.isle n).ferry.copy s.cur.j = none))) ∧
       (∀ x a, x ∈ s.copyAsks n c → s.copyPa n c.tenant x.2.1 (x.1 == .dst) = some a → (paPanel a = false ∨ paIsle a ≠ n) →
         f.ftout ≤ s.pt - x.2.2 → s.copyFrozen n c = false →
         (c.edge = none → ∃ u, exec .copyTimeout s = .next u ∧ (u.isle n).ferry.copy s.cur.j = none) ∧
         (c.edge ≠ none → (∀ y ∈ s.copyAsks n c, ∀ b, s.copyPa n c.tenant y.2.1 (y.1 == .dst) = some b →
             paPanel b = true ∧ ∃ m ∈ (s.isle n).pview.members, m.2 = paIsle b) →
           ∃ u e, exec .copyTimeout s = .next u ∧ SameMemory s u ∧ (u.isle n).ferry.copy s.cur.j = some e ∧
           e.sincePt = s.pt ∧ e.landed = c.landed))) ∧
     (∀ q pa, s.HasWharf → (s.wharf s.cur.p).parked.find? (fun q => q.no == s.cur.j && q.op == .bwait) = some q →
       (s.segD n s.cur.k).objPa n q = some pa → (s.segD n s.cur.k).stopped = false →
       (s.objPois pa = none → (s.bobj pa).pend = 0 → (s.bobj pa).fault = false →
         (∀ r, nth none (s.wharf s.cur.p).arr q.chain = some r → r.1 ≠ pa ∨ (s.bobj pa).phase ≠ r.2) →
         ∃ u, exec .bwaitWake s = .next u ∧ SegOnly s u ∧ (∀ x ∈ (u.wharf s.cur.p).parked, x.no ≠ q.no) ∧
           Answered s u s.cur.p q.no fun t => t.kind = .data ∧ t.lanes = (s.bobj pa).status (s.bobj pa).code) ∧
       (∀ a, s.objPois pa = some a → (s.segD n s.cur.k).recs = [] → q.chain < 4 → ∃ u, exec .bwaitWake s = .next u ∧ SegOnly s u ∧
         Detects s u 7 2 ∧ (∀ x ∈ (u.wharf s.cur.p).parked, x.no ≠ q.no) ∧
         ∃ y ∈ nth [] (u.wharf s.cur.p).chains q.chain, y.no = q.no ∧ y.held = true)))

/-- R289, R293, R296 to R300, R312: the steps of a collective operation. A contribution of the current view joins its operation, one
that disagrees ends it with MISMATCH, one of another view is dropped, one that is early waits; an abort and the time limit end it; the
last contribution writes the result, and no other byte; a parked CWAIT wakes with the status and frees the slot; and a communicator is
written. -/
def Obligations.CollectiveEvents : Prop :=
  ∀ (s : State), s.HasIsle →
    (let n := s.cur.n
     let j := s.cur.j
     let i := s.isle n
     let ends := fun (u : State) (slot code : Nat) (o : CollOp) =>
       (o.discard = false → ∃ st, (u.isle n).op slot = some { o with status := some st } ∧ st.code = code ∧ st.n = o.eff.length) ∧
       (o.discard = true → (u.isle n).op slot = none)
     (∀ f comm seq sig w data z, s.flitFor n j = some f → f.body = .collData comm seq sig w data z →
       (f.view ≠ (s.memb n f.sys).num → exec .collFlitReceive s = .next ((s.dropFlit j).sawView n f)) ∧
       (f.view = (s.memb n f.sys).num →
         (∀ slot o, i.opBySeq comm seq = some (slot, o) →
           (sig = o.sig → ∃ u o', exec .collFlitReceive s = .next u ∧ SameMemory s u ∧ (slot, o') ∈ (u.isle n).ops ∧
             (⟨f.src, sig, w, data⟩ : Contrib) ∈ o'.recv ∧ o'.eff = o.eff ∧ o'.status = none ∧ u.net = dropAt s.net j) ∧
           (sig ≠ o.sig → i.op slot = some o → ∃ u, exec .collFlitReceive s = .next u ∧ SameMemory s u ∧ ends u slot 6 o)) ∧
         (i.opBySeq comm seq = none →
           (seq < (i.comm comm).seq → exec .collFlitReceive s = .next ((s.dropFlit j).sawView n f)) ∧
           ((i.comm comm).seq ≤ seq → exec .collFlitReceive s = .next s)))) ∧
     (∀ f comm seq why slot o, s.flitFor n j = some f → f.body = .collAbort comm seq why → i.opBySeq comm seq = some (slot, o) →
       i.op slot = some o → ∃ u, exec .collAbortReceive s = .next u ∧ SameMemory s u ∧ ends u slot why o) ∧
     (∀ o, i.op j = some o → o.status = none →
       (s.collFrozen n o = false → s.opPaused n o = false → i.colTout ≤ s.pt - o.since → ∃ u, exec .coltoutExpire s = .next u ∧
         SameMemory s u ∧ ends u j 7 o ∧ ∀ m ∈ o.eff, m ≠ s.member n → ∃ f ∈ u.net, f.dst = m ∧ f.body = .collAbort o.comm o.seqNo 11) ∧
       (s.pt - o.since < i.colTout → exec .coltoutExpire s = .next s) ∧
       (o.complete = true → s.opPaused n o = false →
         (o.count = 0 → ∃ u, exec .collComplete s = .next u ∧ SameMemory s u ∧ ends u j (if o.ints = 0 then 0 else 1) o) ∧
         (∀ a bs fl, o.count ≠ 0 → o.result (s.member n) = ([(a, bs)], fl) →
           (let cells : List Host.Cell := (bs.zip (List.range bs.length)).filterMap fun x =>
              (o.leaf ((a + x.2) % 2 ^ 64)).map fun l => (l.pa, x.1)
            s.Clean cells → ∃ u, exec .collComplete s = .next u ∧ Wrote s u cells ∧ ends u j (if o.ints = 0 then 0 else 1) o)))) ∧
     (∀ q, s.HasWharf → (s.wharf s.cur.p).parked.find? (fun q => q.no == j && q.op == .cwait) = some q →
       (s.segD n s.cur.k).stopped = false →
       (∀ slot o st, s.opOfId n (s.segD n s.cur.k).id.toNat (q.data.get 0).toNat = some (slot, o) → o.status = some st →
         ∃ u, exec .cwaitWake s = .next u ∧ SameMemory s u ∧ (u.isle n).op slot = none ∧ (∀ x ∈ (u.wharf s.cur.p).parked, x.no ≠ q.no) ∧
           Answered s u s.cur.p q.no fun t => t.kind = .data ∧ t.lanes = st.lanes) ∧
       (s.opOfId n (s.segD n s.cur.k).id.toNat (q.data.get 0).toNat = none → ∃ u, exec .cwaitWake s = .next u ∧ SegOnly s u ∧
         Answered s u s.cur.p q.no fun t => t.kind = .data ∧ t.lanes.get 0 = 12)) ∧
     (∀ (off size : Nat) (v : BitVec 64),
       (let c := (off - 0x100) / 0x20
        let busy := i.ops.any fun o => o.2.comm == c && o.2.status.isNone
        ((off < 0x100 ∨ 16 ≤ c ∨ busy = true) → exec (.commWrite off size v) s = .next s) ∧
        (0x100 ≤ off → c < 16 → c < i.comms.length → busy = false →
          (off % 0x20 = 0 → size = 4 → ∃ u, exec (.commWrite off size v) s = .next u ∧ SameMemory s u ∧ ((u.isle n).comm c).en = tb v 0 ∧
            ((u.isle n).comm c).sys = tb v 1 ∧ ((u.isle n).comm c).tenant = v.toNat / 4 % 64 ∧
            ((u.isle n).comm c).seq = (if (i.comm c).en = false ∧ tb v 0 = true then 0 else (i.comm c).seq) ∧
            ((u.isle n).comm c).imask = (i.comm c).imask) ∧
          (off % 0x20 = 8 → size = 8 → ∃ u, exec (.commWrite off size v) s = .next u ∧ SameMemory s u ∧
            ((u.isle n).comm c).imask = v.toNat % 2 ^ 40 ∧ ((u.isle n).comm c).en = (i.comm c).en)))))

/-- R288, R302, R303, R307: the membership protocol. Heartbeats and joins go out; a silent or failing peer is suspected, and the leader
proposes a view without it; a proposal is acknowledged once; the acknowledged set is committed and installed, by a majority when the
timer runs out, and an engine without one is ISOLATED; a prepared engine whose timer runs out suspects its proposer. -/
def Obligations.MembershipEvents : Prop :=
  ∀ (s : State), s.HasIsle →
    (let n := s.cur.n
     let j := s.cur.j
     let me := s.member n
     let sent := fun (u : State) (to_ : Member) (b : Payload) => ∃ f ∈ u.net, f.src = me ∧ f.dst = to_ ∧ f.body = b
     let proposes := fun (u : State) (sys : Bool) (v : Nat) (set : List Member) =>
       (u.memb n sys).st = .proposing ∧ (u.memb n sys).prop = some (v, set, [me]) ∧ (u.memb n sys).vmax = v ∧
       ∀ x ∈ set, x ≠ me → sent u x (.propose v set)
     let without := fun (m : Memb) (x : Member) => ({ m with susp := insMember x m.susp } : Memb)
     let suspects := fun (u : State) (sys : Bool) (vmax : Nat) (x : Member) =>
       (let m := s.memb n sys
        ((m.st = .stable ∨ m.st = .proposing ∨ m.st = .prepared) → x ∈ (u.memb n sys).susp) ∧
        (m.st = .proposing ∨ m.st = .prepared → x ∈ (u.memb n sys).pending ∧ (u.memb n sys).st = m.st) ∧
        (m.st = .stable → (without m x).leader = some me → vmax + 1 < 2 ^ 32 →
          proposes u sys (vmax + 1) (m.members.filter fun y => !(without m x).susp.contains y)) ∧
        (∀ l, m.st = .stable → (without m x).leader = some l → l ≠ me → sent u l (.suspect x) ∧ (u.memb n sys).st = .stable))
     (let sys := s.curSys
      let m := s.memb n sys
      let due := m.sentHb = none ∨ ∃ t, m.sentHb = some t ∧ 500 ≤ s.pt - t
      ((s.isle n).up = true → due → m.st ≠ .joining → m.members ≠ [] → ∃ u, exec .heartbeatSend s = .next u ∧ SameMemory s u ∧
        (u.memb n sys).sentHb = some s.pt ∧ ∀ x ∈ m.beats sys me, sent u x .heartbeat) ∧
      (m.st = .joining → due → ∃ u, exec .joinSend s = .next u ∧ SameMemory s u ∧ (u.memb n sys).sentHb = some s.pt ∧
        ∀ x ∈ s.scopeIsles sys, x ≠ me → sent u x .join) ∧
      (∀ t, (s.isle n).up = true → m.members.contains (s.cur.p, s.cur.e) = true → m.susp.contains (s.cur.p, s.cur.e) = false →
        (m.beats sys (s.cur.p, s.cur.e)).contains me = true → m.heard.find? (fun h => h.1 == (s.cur.p, s.cur.e)) = some ((s.cur.p, s.cur.e), t) →
        (5000 ≤ s.pt - t → ∃ u, exec .suspectTimeout s = .next u ∧ SameMemory s u ∧ suspects u sys m.vmax (s.cur.p, s.cur.e)) ∧
        (s.pt - t < 5000 → exec .suspectTimeout s = .next s)) ∧
      (∀ v set acks, m.st = .proposing → m.prop = some (v, set, acks) → m.timer ≤ s.pt →
        (m.majority acks = true → ∃ u, exec .proposeTimerExpire s = .next u ∧ (u.memb n sys).num = v) ∧
        (m.majority acks = false → ∃ u, exec .proposeTimerExpire s = .next u ∧ SameMemory s u ∧ (u.memb n sys).st = .isolated ∧
          (u.memb n sys).num = m.num)) ∧
      (∀ v x, m.st = .prepared → m.prep = some (v, x) → m.timer ≤ s.pt → ∃ u, exec .preparedTimerExpire s = .next u ∧ SameMemory s u ∧
        x ∈ (u.memb n sys).susp ∧
        ((without m x).leader = some me → m.vmax + 1 < 2 ^ 32 → (u.memb n sys).st = .proposing) ∧
        (∀ l, (without m x).leader = some l → l ≠ me → sent u l (.suspect x) ∧ (u.memb n sys).st = .prepared ∧
          (u.memb n sys).timer = s.pt + 10000))) ∧
     (∀ f, s.flitFor n j = some f →
       (let m := s.memb n f.sys
        let seen := max m.vmax f.view
        (f.body = .heartbeat → ∃ u, exec .heartbeatReceive s = .next u ∧ SameMemory s u ∧ u.net = dropAt s.net j ∧
          (f.src, s.pt) ∈ (u.memb n f.sys).heard ∧ f.src ∉ (u.memb n f.sys).susp ∧ (u.memb n f.sys).vmax = seen) ∧
        (f.body = .fatal → m.members.contains f.src = true → ∃ u, exec .fatalReportReceive s = .next u ∧ SameMemory s u ∧
          suspects u f.sys seen f.src) ∧
        (∀ x, f.body = .suspect x → m.members.contains x = true → ((without m x).leader = some me ∨ m.st ≠ .stable) →
          ∃ u, exec .suspectReceive s = .next u ∧ SameMemory s u ∧ suspects u f.sys seen x) ∧
        (∀ v set, f.body = .propose v set →
          (m.acked < v → m.st = .stable ∨ m.st = .prepared → ∃ u, exec .proposeReceive s = .next u ∧ SameMemory s u ∧
            (u.memb n f.sys).st = .prepared ∧ (u.memb n f.sys).prep = some (v, f.src) ∧ (u.memb n f.sys).acked = v ∧ sent u f.src (.ack v)) ∧
          (v ≤ m.acked → m.st = .stable ∨ m.st = .prepared → ∃ u, exec .proposeReceive s = .next u ∧ (u.memb n f.sys).st = m.st ∧
            (u.memb n f.sys).acked = m.acked) ∧
          (∀ w set' acks, m.st = .proposing → m.prop = some (w, set', acks) → w < v → ∃ u, exec .proposeReceive s = .next u ∧
            (u.memb n f.sys).st = .prepared ∧ (u.memb n f.sys).prep = some (v, f.src) ∧ sent u f.src (.ack v))) ∧
        (∀ v set acks, f.body = .ack v → m.st = .proposing → m.prop = some (v, set, acks) → set.contains f.src = true →
          (let acks' := insMember f.src acks
           let all := set.all fun x => m.joiners.contains x || acks'.contains x
           ((all && m.majority acks') = true → ∃ u, exec .ackReceive s = .next u ∧ (u.memb n f.sys).num = v ∧
             ∀ x, x ∈ (u.memb n f.sys).members ↔ x ∈ acks' ∨ (x ∈ set ∧ x ∈ m.joiners)) ∧
           ((all && m.majority acks') = false → ∃ u, exec .ackReceive s = .next u ∧ (u.memb n f.sys).st = .proposing ∧
             (u.memb n f.sys).prop = some (v, set, acks') ∧ (u.memb n f.sys).num = m.num))) ∧
        (∀ v set, f.body = .commit v set → m.st ≠ .isolated →
          (set.contains me = true → (m.st = .joining ∨ m.num < v) → ∃ u, exec .commitReceive s = .next u ∧ (u.memb n f.sys).num = v ∧
            ∀ x, x ∈ (u.memb n f.sys).members ↔ x ∈ set) ∧
          (set.contains me = false → m.st ≠ .joining → m.num < v → ∃ u, exec .commitReceive s = .next u ∧
            (u.memb n f.sys).st = .isolated)) ∧
        (f.body = .join → m.st = .stable → m.leader = some me → seen + 1 < 2 ^ 32 →
          ∃ u, exec .joinReceive s = .next u ∧ SameMemory s u ∧ proposes u f.sys (seen + 1) (insMember f.src m.members) ∧
            (u.memb n f.sys).joiners = [f.src]))))

/-- R74, R199, R201, R210, R211, R428: stream ports. An input port delivers the data of its place in memory, an EOI after each
invocation and an END after its run; an output port writes its data to their place, and no other byte, and takes nulls and
markers without a write; an access that its region does not allow, and a poisoned token at an output port, are faults. -/
def Obligations.PortEvents : Prop :=
  ∀ (s : State), s.HasSeg → s.cur.j < (s.segD s.cur.n s.cur.k).ports.length →
    (let n := s.cur.n
     let k := s.cur.k
     let j := s.cur.j
     let g := s.segD n k
     let x := g.stream j
     let p := g.port j
     let off := g.argix p.run p.inv * x.stride + 64 * p.tok
     let now := fun (u : State) => (u.segD n k).port j
     (∀ at_ count, g.portDest j = some at_ → g.live.HasPlace at_ → g.portRun j = some count → x.kind = 0 → x.dir = 0 → g.portRuns j = true →
       (count ≤ p.inv → ∃ u t, exec .inputPortDeliver s = .next u ∧ Delivered s u at_ t ∧ t.kind = .fin ∧
         now u = ⟨p.run + 1, 0, 0, false⟩) ∧
       (p.inv < count → s.portTokens n g x ≤ p.tok → ∃ u t, exec .inputPortDeliver s = .next u ∧ Delivered s u at_ t ∧ t.kind = .eoi ∧
         now u = ⟨p.run, p.inv + 1, 0, false⟩) ∧
       (p.inv < count → p.tok < s.portTokens n g x → g.keptNext j = none → x.idx ≠ 0xFFFF →
         (g.portCheck x.idx off 0 ≠ 0 → g.recs = [] → ∃ u, exec .inputPortDeliver s = .next u ∧ SameMemory s u ∧
           Detects s u 1 (g.portCheck x.idx off 0) ∧ now u = p) ∧
         (∀ e, g.portCheck x.idx off 0 = 0 → g.extentOf x.idx off = some e → e.cmp = false → ∃ u t, exec .inputPortDeliver s = .next u ∧
           Delivered s u at_ t ∧ t.kind = .data ∧ t.chkOk = true ∧ now u = ⟨p.run, p.inv, p.tok + 1, true⟩ ∧
           (let pa := paOf n e.pbase + (off - e.roff)
            (∀ i, i < 16 → t.lanes.get i = BitVec.ofNat 32 (s.num (pa + 4 * i) 4)) ∧
            t.poison = s.anyPois pa 64 ∧
            ⟨p.run, p.inv, j, t, if t.poison then (((List.range 64).map (pa + ·)).find? s.isPois).elim 0 poisonUnit else 0⟩ ∈
              (u.segD n k).replay))) ∧
       (∀ t, p.inv < count → p.tok < s.portTokens n g x → g.keptNext j = some t → ∃ u, exec .inputPortDeliver s = .next u ∧
         Delivered s u at_ t.tok ∧ now u = ⟨p.run, p.inv, p.tok + 1, true⟩)) ∧
     (∀ at_ t, g.outHead j = some (at_, t) → g.live.HasPlace at_ → x.kind = 0 → x.dir = 1 → g.clockHeld = false →
       (t.kind = .eoi → ∃ u, exec .outputPortWrite s = .next u ∧ SegOnly s u ∧ TakenOut s u at_ ∧ (now u).run = p.run ∧
         (now u).inv = p.inv + 1 ∧ (now u).tok = 0) ∧
       (t.kind = .fin → ∃ u, exec .outputPortWrite s = .next u ∧ SegOnly s u ∧ TakenOut s u at_ ∧ (now u).run = p.run + 1 ∧
         (now u).inv = 0 ∧ (now u).tok = 0) ∧
       (t.kind = .data ∨ t.kind = .null → x.stride / 64 ≤ p.tok → g.recs = [] → ∃ u, exec .outputPortWrite s = .next u ∧ SegOnly s u ∧
         Detects s u 1 5) ∧
       (t.kind = .null → p.tok < x.stride / 64 → ∃ u, exec .outputPortWrite s = .next u ∧ SegOnly s u ∧ TakenOut s u at_ ∧
         (now u).tok = p.tok + 1 ∧ (now u).inv = p.inv) ∧
       (t.kind = .data → p.tok < x.stride / 64 → g.portCheck x.idx off 1 ≠ 0 → g.recs = [] → ∃ u, exec .outputPortWrite s = .next u ∧
         SegOnly s u ∧ Detects s u 1 (g.portCheck x.idx off 1)) ∧
       (t.kind = .data → p.tok < x.stride / 64 → g.portCheck x.idx off 1 = 0 → t.pois = true → g.recs = [] →
         ∃ u, exec .outputPortWrite s = .next u ∧ Detects s u 7 1 ∧ (t.chkOk = true → SameMemory s u)) ∧
       (t.kind = .data → p.tok < x.stride / 64 → g.portCheck x.idx off 1 = 0 → t.pois = false →
         (let cells : List Host.Cell := ((s.portBytes n g x.idx off).zip (laneBytes t.lanes)).filterMap fun y => y.1.map fun pa => (pa, y.2)
          s.Clean cells → ∃ u, exec .outputPortWrite s = .next u ∧ Wrote s u cells ∧ TakenOut s u at_ ∧ (now u).tok = p.tok + 1 ∧
            (now u).inv = p.inv))))

/-- R212, R373, R375 to R379, R381: the mailbox at work. A port that writes to a mailbox queues its message when it carries the next step of
the open episode, drops one of another episode and raises EPISODE for one out of order; a port that reads from a mailbox delivers its
observations, an EOI after each and an END when its binding is released; a next binding becomes current; an episode that overruns a
budget aborts; and abort records take their places among the observations. -/
def Obligations.MailboxEvents : Prop :=
  ∀ (s : State), s.HasIsle →
    (let n := s.cur.n
     let k := s.cur.k
     let j := s.cur.j
     let g := s.segD n k
     let x := g.stream j
     let box := (s.isle n).mailbox x.idx
     let now := fun (u : State) => (u.isle n).mailbox x.idx
     (∀ at_ t run, s.HasSeg → j < g.ports.length → g.outHead j = some (at_, t) → g.live.HasPlace at_ → x.kind = 1 → x.dir = 1 →
       g.clockHeld = false → x.idx < (s.isle n).mbx.length → box.cur = some (g.id.toNat, run) → g.released = false →
       (t.kind ≠ .data → ∃ u, exec .mbxActionWrite s = .next u ∧ SegOnly s u ∧ TakenOut s u at_) ∧
       (t.kind = .data → (32 ≤ box.act.length ∨ box.promoDue = true) → exec .mbxActionWrite s = .next s) ∧
       (t.kind = .data → box.promoDue = false → box.act.length < 32 → s.rtOver n x.idx = false → t.pois = false →
         (let epi := (t.lanes.get 0).toNat % 2 ^ 16
          let step := t.lanes.get 1
          (box.open_ = true → box.aborted = false → epi = box.epi.toNat → step = stepAfter box.astep →
            ∃ u l, exec .mbxActionWrite s = .next u ∧ SameMemory s u ∧ TakenOut s u at_ ∧ (now u).act = box.act ++ [l] ∧
              (now u).astep = step ∧ (now u).acted = box.acted + 1 ∧ (now u).obs = box.obs ∧ l.get 2 = box.ser ∧
              (l.get 0).toNat % 2 ^ 16 = epi ∧ (∀ i, i < 16 → i ≠ 0 → i ≠ 2 → l.get i = t.lanes.get i) ∧
              (tb (l.get 0) 19 = true ↔ ∃ o, box.lastSer = some o ∧ o ≠ box.ser)) ∧
          (epi ≠ box.epi.toNat → ∃ u, exec .mbxActionWrite s = .next u ∧ SameMemory s u ∧ TakenOut s u at_ ∧
            (now u).act = box.act ∧ (now u).stale = true) ∧
          (box.open_ = false ∨ box.aborted = true → ∃ u, exec .mbxActionWrite s = .next u ∧ SameMemory s u ∧ TakenOut s u at_ ∧
            (now u).act = box.act) ∧
          (box.open_ = true → box.aborted = false → epi = box.epi.toNat → step ≠ stepAfter box.astep → g.recs = [] →
            ∃ u, exec .mbxActionWrite s = .next u ∧ SegOnly s u ∧ Detects s u 9 0)))) ∧
     (∀ at_ count, s.HasSeg → j < g.ports.length → g.portDest j = some at_ → g.live.HasPlace at_ → g.portRun j = some count → x.kind = 1 →
       x.dir = 0 → g.portRuns j = true →
       ((g.port j).tok ≠ 0 → ∃ u t, exec .mbxObservationDeliver s = .next u ∧ Delivered s u at_ t ∧ t.kind = .eoi ∧
         ((u.segD n k).port j).inv = (g.port j).inv + 1 ∧ ((u.segD n k).port j).tok = 0) ∧
       ((g.port j).tok = 0 → g.released = true ∨ count ≤ (g.port j).inv → ∃ u t, exec .mbxObservationDeliver s = .next u ∧
         Delivered s u at_ t ∧ t.kind = .fin ∧ ((u.segD n k).port j).run = (g.port j).run + 1) ∧
       (∀ o r run, (g.port j).tok = 0 → g.released = false → (g.port j).inv < count → box.obs = o :: r → box.cur = some (g.id.toNat, run) →
         x.idx < (s.isle n).mbx.length →
         (box.promoDue = true → exec .mbxObservationDeliver s = .next s) ∧
         (box.promoDue = false → ∃ u t, exec .mbxObservationDeliver s = .next u ∧ Delivered s u at_ t ∧ t.kind = o.kind ∧
         t.lanes = o.lanes ∧ (now u).obs = r ∧ (now u).act = box.act ∧ ((u.segD n k).port j).tok = 1))) ∧
     (let m := (s.isle n).mailbox j
      (∀ id run, j < (s.isle n).mbx.length → m.next = some (id, run) → (m.cur = none ∨ m.open_ = false ∨ (m.follow = true ∧ m.handed = m.acted)) →
        ∃ u, exec .bindingPromote s = .next u ∧ SameMemory s u ∧ ((u.isle n).mailbox j).cur = some (id, run) ∧
          ((u.isle n).mailbox j).next = none ∧ ((u.isle n).mailbox j).ser = BitVec.ofNat 32 run ∧
          ((u.isle n).mailbox j).handed = 0 ∧ ((u.isle n).mailbox j).acted = 0) ∧
      (m.cur ≠ none → m.open_ = true → m.follow = false → exec .bindingPromote s = .next s) ∧
      (j < (s.isle n).mbx.length → ∃ u, exec .abortRecordQueue s = .next u ∧ SameMemory s u ∧
        ((u.isle n).mailbox j).obs = m.obs ++ m.abortDue.take (32 - m.obs.length) ∧
        ((u.isle n).mailbox j).abortDue = m.abortDue.drop (32 - m.obs.length)) ∧
      (∀ e, s.HasHart → s.h.epi = some e → e.mbx < (s.isle n).mbx.length →
        (let after := fun (u : State) (cause : W) =>
           (let b := (s.isle n).mailbox e.mbx
            let b' := (u.isle n).mailbox e.mbx
            b'.aborted = true ∧ (b.aborted = false → b'.act = [] ∧ ∃ t, b'.abortDue = b.abortDue ++ [t] ∧ t.lanes.get 4 = cause ∧
              (t.lanes.get 0).toNat % 2 ^ 16 = b.epi.toNat ∧ t.lanes.get 1 = stepAfter b.ostep))
         (e.cycRun = true → e.cyc ≠ 0 → e.cyc.toNat + 1 < e.cycCnt → ∃ u, exec .watchdogCycleExpire s = .next u ∧ SameMemory s u ∧
           after u 2 ∧ u.h.pc = s.h.pc ∧ ∃ e', u.h.epi = some e' ∧ e'.wd ≠ none ∧ e'.cycRun = false) ∧
         (∀ t0, e.mbx = j → ((s.isle n).mailbox j).hart = s.cur.e → ((s.isle n).mailbox j).rtStart = some t0 →
           ((s.isle n).mailbox j).open_ = true → e.rtt ≠ 0 → e.rtt + 1 < s.pt - t0 → ∃ u, exec .watchdogRoundtripExpire s = .next u ∧
           SameMemory s u ∧ after u 3 ∧ ((u.isle n).mailbox j).rtStart = none ∧ ∃ e', u.h.epi = some e' ∧ e'.wd ≠ none)))))

/-- R11, R88, R397 to R400, R420, R425, R427 to R432, R434 to R441: stops, containment, spares, arrays and the health monitor. A segment that stalls or
has detected a fault stops; one whose freeze holds only CONTAIN and that can be replayed starts again at the first invocation of its
oldest run; a spare moves, records a mismatch and its verdict, and replaces a faulty element; a second lasting fault takes a stripe out
of its ring; a corrected error count over its threshold raises the voltage; configuration latches are reloaded and lines scrubbed; errors of arrays are counted, and one that cannot be corrected poisons its line. -/
def Obligations.ContainmentEvents : Prop :=
  ∀ (s : State), s.HasSeg →
    (let n := s.cur.n
     let k := s.cur.k
     let p := s.cur.p
     let g := s.segD n k
     let r := (s.isle n).ring k
     let c := (s.isle n).cont
     let sp := fun (u : State) => ((u.isle n).ring k).spare p
     (∀ lim, lim = 2 ^ r.log2t → g.stallDue lim = true → ∃ u x, exec .stall s = .next u ∧ SegOnly s u ∧
       (u.segD n k).recs = g.recs ++ [x] ∧ x.kind = 5 ∧ x.d0 = lim ∧ (u.segD n k).frz.isSome = true) ∧
     (∀ d, g.frz = some d → d + 9 ≤ g.sck → g.stopped = false → g.commitAt = none →
       (s.contains n g = true → ∃ u, exec .freezeStop s = .next u ∧ (u.segD n k).stopped = true ∧ (u.segD n k).nrec = 0 ∧
         (u.segD n k).live = g.live ∧ ((s.isle n).trace.takes 6 g.tenant = false → SegOnly s u)) ∧
       (s.contains n g = false → ∃ u, exec .freezeStop s = .next u ∧
         ∀ h, u.seg n k = some h → h.stopped = true ∧ h.cmt = false ∧ h.nrec = (sortRecs g.recs).length ∧ h.live = g.live)) ∧
     (∀ d, g.frz = some d → (g.sck < d + 9 ∨ g.commitAt ≠ none) → exec .freezeStop s = .next s) ∧
     (∀ q a, g.stopped = false → g.commitAt = some q → g.commitDue q = some a → ∃ u, exec .commitStop s = .next u ∧
       (∀ h, u.seg n k = some h → h.stopped = true ∧ h.cmt = true ∧ (h.live.stripe q).arm = none) ∧
       (a.cause = 2 → a.bp < (s.isle n).bps.length → (nth default (u.isle n).bps a.bp).hit = true)) ∧
     (g.stopped = true → (g.cmd = true ∨ (g.nrec = 0 ∧ g.recs ≠ [] ∧ s.contains n g = true)) →
       (g.settled = false → exec .containmentSequence s = .next s) ∧
       (g.settled = true → s.recordsBad n k (g.rollback r.stripes) = false → ∃ u h, exec .containmentSequence s = .next u ∧ u.seg n k = some h ∧ h.stopped = false ∧ h.recs = [] ∧
         h.replaying = g.replay.filter (fun t => t.run == g.oldest) ∧ h.live = h.start ∧
         (∀ i, i < min g.image.nstripe (r.stripes - 1) → (h.live.stripe i).vs = i ∧ (h.live.stripe i).run = g.oldest ∧
           (h.live.stripe i).res = true) ∧
         h.attempts = (if g.cmd then g.attempts else g.attempts + 1))) ∧
     (p < r.spares.length →
       (∀ m x, (g.live.stripe p).res = true → g.clockHeld = false → s.shadows n k p = true →
         (let e := (r.spare p).at_
          x ∈ [SparePlace.out m, SparePlace.request m] → ∃ u, exec (.spareMismatch x) s = .next u ∧
            (sp u).mism = (r.spare p).mism ++ [(e, s.pt)] ∧
            (let v := ({ r.spare p with mism := (r.spare p).mism ++ [(e, s.pt)] } : Spare).verdict s.pt c.swin
             (v = 0 → (sp u).due = (r.spare p).due ∧ (sp u).off = (r.spare p).off) ∧ (v = 1 → (sp u).due = some e) ∧
             (v = 2 → (sp u).off = true)))) ∧
       (∀ e, s.shadows n k p = true → (r.spare p).spent = none → (r.spare p).due = none → 2 ≤ (g.usedElems p).length →
         c.spareInt ≤ (r.spare p).eois → g.clockHeld = false →
         e = ((g.usedElems p).find? fun y => decide ((r.spare p).at_ < y)).getD (nth 0 (g.usedElems p) 0) →
         ∃ u, exec .spareMove s = .next u ∧ SameMemory s u ∧ (sp u).at_ = e ∧ (sp u).eois = 0 ∧
           ((u.segD n k).live.elem p e).hold = 14) ∧
       (∀ e, (r.spare p).due = some e → (r.spare p).spent = none → 0 < (r.spare p).eois → g.clockHeld = false →
         ∃ u, exec .spareReplace s = .next u ∧ SameMemory s u ∧ (sp u).spent = some e ∧ (sp u).due = none ∧
           ((u.isle n).ring k).spared = r.spared + 1) ∧
       ((r.spare p).spent.isSome = true → (r.spare p).due.isSome = true →
         (24 < r.stripes → g.stopped = false → g.recs = [] → ∃ u, exec .stripeDisable s = .next u ∧ SameMemory s u ∧
           ((u.isle n).ring k).stripes = r.stripes - 1 ∧ ((u.isle n).ring k).disabled = r.disabled + 1 ∧ Detects s u 7 7) ∧
         (0 < r.stripes → r.stripes ≤ 24 → ∃ u, exec .stripeDisable s = .next u ∧ ((u.isle n).ring k).stripes = 0 ∧ u.seg n k = none ∧
           ((∀ st ∈ g.live.stripes, st.wharf.fly = [] ∧ st.wharf.atoms = [] ∧ st.wharf.wc = []) → SameMemory s u)))) ∧
     (nth 0 c.thr k ≠ 0 → nth 0 c.thr k < c.ceCount s.pt k → nth true c.crossed k = false → ∃ u, exec .healthThresholdCross s = .next u ∧
       SameMemory s u ∧ (u.isle n).cont.steps = min 15 (c.steps + 1) ∧ nth true (u.isle n).cont.crossed k = true ∧
       (u.isle n).cont.holdUntil = some (s.pt + c.vhold)) ∧
     ((nth 0 c.thr k = 0 ∨ c.ceCount s.pt k ≤ nth 0 c.thr k) → exec .healthThresholdCross s = .next s) ∧
     (∀ t, c.holdUntil = some t → (t ≤ s.pt → ∃ u, exec .vholdExpire s = .next u ∧ SameMemory s u ∧ (u.isle n).cont.holdUntil = none) ∧
       (s.pt < t → exec .vholdExpire s = .next s)) ∧
     (∀ a b : Bool, (g.live.stripe p).res = true → g.clockHeld = false → (g.live.elem p s.cur.e).cyc.fired = [] → 5 < c.ue.length →
       (a = true ∨ b = true → ∃ u, exec (.cfgerrReload a b) s = .next u ∧
         u.segD n k = g.onElem p s.cur.e (fun el => { el with cyc := { el.cyc with noRules := true } }) ∧
         (s.HasElem → (u.segD n k).selected p s.cur.e = []) ∧
         nth 0 (u.isle n).cont.ue 5 = min (2 ^ 32 - 1) (nth 0 c.ue 5 + 1)) ∧
       (a = false → b = false → ∃ u, exec (.cfgerrReload a b) s = .next u ∧ u.seg n k = none ∧
         ∀ t ∈ (u.isle n).hb.tasks, t.no = g.task → t.dealt = true ∧ t.status ≠ none)) ∧
     (let pa := paOf n (64 * s.cur.j)
      paStack pa = true →
        exec (.scrubLine .clean) s = .next s ∧
        (10 < c.ce.length → ∃ u, exec (.scrubLine .corrected) s = .next u ∧ SameMemory s u ∧
          nth [] (u.isle n).cont.ce 10 = nth [] c.ce 10 ++ [s.pt]) ∧
        (10 < c.ue.length → ∃ u, exec (.scrubLine .uncorrectable) s = .next u ∧ u.isPois pa = true ∧
          nth 0 (u.isle n).cont.ue 10 = min (2 ^ 32 - 1) (nth 0 c.ue 10 + 1))) ∧
     (∀ x : ArrayPlace, (s.isle n).up = true →
       (x.cls < c.ce.length → SameMemory s (s.arrayError x true) ∧
         nth [] ((s.arrayError x true).isle n).cont.ce x.cls = nth [] c.ce x.cls ++ [s.pt]) ∧
       (x.cls < c.ue.length → nth 0 ((s.arrayError x false).isle n).cont.ue x.cls = min (2 ^ 32 - 1) (nth 0 c.ue x.cls + 1))) ∧
     (∀ pa, (s.isle n).up = true → paExists pa = true → paIsle pa = n → (s.arrayError (.memory pa) false).isPois pa = true))

/-- R240, R366, R379 (log 7): the memory instructions of a hart. A load gives the bytes that the isle's harts see, and changes none; a
store changes its bytes and no other; a store-conditional stores only under its reservation; an AMO gives the old value; the block
instructions write a line back or drop it; a misaligned access and one outside the windows of the episode take their exceptions. -/
def Obligations.HartMemory : Prop :=
  ∀ (s : State), s.HartReady → (∀ l ∈ (s.isle s.cur.n).sk, l.data.length = 64) →
    (let n := s.cur.n
     let x' := fun (r : Nat) (v : W64) => if r = 0 then s.h.x else upd (fun _ => v) s.h.x r
     let sx := fun (len v : Nat) => BitVec.ofInt 64 (sextN (8 * len) v)
     let sees := fun (u : State) (pa len v : Nat) =>
       (∀ k, k < len → u.skByte n (pa + k) = BitVec.ofNat 8 (v / 256 ^ k)) ∧
       ∀ a, a < pa ∨ pa + len ≤ a → u.skByte n a = s.skByte n a
     (∀ rd va len sg pa, len ∈ [1, 2, 4, 8] → s.Readable va len pa → ∃ u, exec (.hartLoadStore (.load rd va len sg)) s = .next u ∧
       SameMemory s u ∧ u.h.pc = s.h.pc + 4 ∧
       (rd < 32 → u.h.x = x' rd (if sg then sx len (s.skNum n pa len) else BitVec.ofNat 64 (s.skNum n pa len)) ∧ u.h.f = s.h.f) ∧
       (32 ≤ rd → u.h.x = s.h.x ∧ u.h.f = upd (fun _ =>
         BitVec.ofNat 64 (if len = 8 then s.skNum n pa 8 else 2 ^ 64 - 2 ^ (8 * len) + s.skNum n pa len)) s.h.f (rd - 32))) ∧
     (∀ va len v pa, len ∈ [1, 2, 4, 8] → s.Writable va len pa → ∃ u, exec (.hartLoadStore (.store va len v)) s = .next u ∧
       SameMemory s u ∧ sees u pa len v.toNat ∧ u.h.pc = s.h.pc + 4 ∧ u.h.x = s.h.x) ∧
     (∀ rd va len pa, len ∈ [4, 8] → rd < 32 → s.Readable va len pa → ∃ u, exec (.hartLoadStore (.lr rd va len)) s = .next u ∧
       SameMemory s u ∧ u.h.resv = some (pa / 64 * 64) ∧ u.h.x = x' rd (sx len (s.skNum n pa len)) ∧ u.h.pc = s.h.pc + 4) ∧
     (∀ rd va len v pa, len ∈ [4, 8] → rd < 32 → s.Writable va len pa →
       (s.h.resv = some (pa / 64 * 64) → ∃ u, exec (.hartLoadStore (.sc rd va len v)) s = .next u ∧ SameMemory s u ∧
         sees u pa len v.toNat ∧ u.h.x = x' rd 0 ∧ u.h.resv = none ∧ u.h.pc = s.h.pc + 4) ∧
       (s.h.resv ≠ some (pa / 64 * 64) → ∃ u, exec (.hartLoadStore (.sc rd va len v)) s = .next u ∧ SameMemory s u ∧
         (∀ a, u.skByte n a = s.skByte n a) ∧ u.h.x = x' rd 1 ∧ u.h.resv = none ∧ u.h.pc = s.h.pc + 4)) ∧
     (∀ rd va len k v pa, len ∈ [4, 8] → rd < 32 → s.Reaches va len 3 15 7 pa → s.hartPois n pa = false →
       ∃ u, exec (.hartLoadStore (.amo rd va len k v)) s = .next u ∧ SameMemory s u ∧
         sees u pa len (amoVal k len (s.skNum n pa len) v.toNat) ∧ u.h.x = x' rd (sx len (s.skNum n pa len)) ∧ u.h.pc = s.h.pc + 4) ∧
     (∀ va a, s.reachOk va 1 1 15 7 = .pa a →
       (∃ u, exec (.hartLoadStore (.cboInval va)) s = .next u ∧ SameMemory s u ∧ (u.isle n).skFind a = none ∧ u.h.pc = s.h.pc + 4) ∧
       (∀ l, (s.isle n).skFind a = some l → l.dirty = true → s.Clean (cellsAt l.pa l.data) →
         (∃ u, exec (.hartLoadStore (.cboFlush va)) s = .next u ∧ Wrote s u (cellsAt l.pa l.data) ∧ (u.isle n).skFind a = none) ∧
         (∃ u, exec (.hartLoadStore (.cboClean va)) s = .next u ∧ Wrote s u (cellsAt l.pa l.data) ∧
           (u.isle n).skFind a = some { l with dirty := false }))) ∧
     (∀ rd va len sg, s.h.dataTrig 1 va = none → va % len ≠ 0 → ∃ u, exec (.hartLoadStore (.load rd va len sg)) s = .next u ∧ Traps s u 4 (BitVec.ofNat 64 va)) ∧
     (∀ va len v, s.h.dataTrig 2 va = none → va % len ≠ 0 → ∃ u, exec (.hartLoadStore (.store va len v)) s = .next u ∧ Traps s u 6 (BitVec.ofNat 64 va)) ∧
     (∀ va len acc, s.h.enclosed va len (AccessKind.need acc) = true → exec (.enclosureAbort va len acc) s = .next s) ∧
     (∀ va len acc e, s.h.enclosed va len (AccessKind.need acc) = false → s.h.epi = some e → ∃ u,
       exec (.enclosureAbort va len acc) s = .next u ∧ SameMemory s u ∧
       Traps (s.onMbx n e.mbx fun m => m.abort 1) u 24 (BitVec.ofNat 64 va)) ∧
     (∀ w : BitVec 32, ∃ u, exec (.skerryIllegalInstruction w) s = .next u ∧ Traps s u 2 (BitVec.ofNat 64 w.toNat)))

/-- R368, R371, R372, R380, R407: traps and returns of a hart. A user-level trap saves the pc, its cause and value and turns interrupts
off; writing UFSTATUS.RET returns to UFEPC; a FUTLD that waited completes when its granule is full; SRET and MRET restore what a trap
saved; a hardware error is counted and taken; a CSR that the mode may not access is an illegal instruction, and one that it may is read
into the register; an interrupt that is pending and enabled is taken. -/
def Obligations.TrapsAndReturns : Prop :=
  (∀ (h : Hart) (c t : Nat), h.mode = .m ∨ tb h.medeleg c = false →
    (let u := h.trap c t
     u.mepc = h.pc ∧ u.mcause = BitVec.ofNat 64 c ∧ u.mtval = BitVec.ofNat 64 t ∧ u.mpp = h.mode ∧ u.mpie = h.mie ∧ u.mie = false ∧
     u.mode = .m ∧ u.pc.toNat = h.mtvec.toNat / 4 * 4 ∧ u.x = h.x ∧ u.mret.pc = h.pc ∧ u.mret.mode = h.mode ∧ u.mret.mie = h.mie)) ∧
  (∀ (h : Hart) (c t : Nat), h.mode ≠ .m → tb h.medeleg c = true →
    (let u := h.trap c t
     u.sepc = h.pc ∧ u.scause = BitVec.ofNat 64 c ∧ u.stval = BitVec.ofNat 64 t ∧ u.spp = h.mode ∧ u.spie = h.sie ∧ u.sie = false ∧
     u.mode = .s ∧ u.pc.toNat = h.stvec.toNat / 4 * 4 ∧ u.x = h.x ∧ u.sret.pc = h.pc ∧ u.sret.mode = h.mode ∧ u.sret.sie = h.sie)) ∧
  (∀ s : State, s.HasHart →
    (s.trapDue = true → s.hartUp = true → s.futEmptyNext = false → ∃ u, exec .userTrap s = .next u ∧ SameMemory s u ∧
      u.h.ufepc = s.h.pc ∧ u.h.ufcause = 0 ∧ u.h.pie = s.h.ie ∧ u.h.ie = false ∧ u.h.pc = s.h.uftvec ∧ u.h.mode = s.h.mode ∧
      u.h.x = s.h.x) ∧
    (s.trapDue = false → exec .userTrap s = .next s) ∧
    (∀ rd va pa, s.h.futld = some (rd, va) → rd < 32 → (s.onH fun h => { h with futld := none }).HartReady →
      s.Reaches va 8 1 13 5 pa → paLagoon pa = true →
      (s.isFull pa = true → s.isPois pa = false → ∃ u, exec .futldWake s = .next u ∧ SameMemory s u ∧ u.h.pc = s.h.pc + 4 ∧
        u.h.futld = none ∧ u.h.x = (if rd = 0 then s.h.x else upd (fun _ => BitVec.ofNat 64 (s.num pa 8)) s.h.x rd)) ∧
      (s.isFull pa = false → s.h.raisesEmpty = false → exec .futldWake s = .next s)) ∧
    (∀ pa : Nat, 11 < (s.isle s.cur.n).cont.ue.length → ∃ u, exec (.handlerHwerr pa) s = .next u ∧ u.h = s.h.trap 19 pa ∧
      nth 0 (u.isle s.cur.n).cont.ue 11 = min (2 ^ 32 - 1) (nth 0 (s.isle s.cur.n).cont.ue 11 + 1))) ∧
  (∀ s : State, s.HartReady →
    (∀ v : BitVec 64, ∃ u, exec (.ufstatusRet v) s = .next u ∧ SameMemory s u ∧ u.h.x = s.h.x ∧
      (tb v 3 = true → u.h.pc = s.h.ufepc ∧ u.h.ie = tb v 1 ∧ u.h.pie = false) ∧
      (tb v 3 = false → u.h.pc = s.h.pc + 4 ∧ u.h.ie = tb v 0 ∧ u.h.pie = tb v 1)) ∧
    (∀ word num op v rd, s.h.csrOk num (op != .read) = false → Traps s (s.csrInstr word num op v rd) 2 (BitVec.ofNat 64 word)) ∧
    (∀ num wr, s.h.mode.code < num / 2 ^ 8 % 4 → s.h.csrOk num wr = false) ∧
    (∀ word num old v rd, s.h.csrOk num false = true → s.csrRead num = some old → rd < 32 →
      (let u := s.csrInstr word num .read v rd
       SameMemory s u ∧ u.h.pc = s.h.pc + 4 ∧ u.h.x = (if rd = 0 then s.h.x else upd (fun _ => BitVec.ofNat 64 old) s.h.x rd))) ∧
    (∀ word v, (let u := s.csrInstr word 0x803 .write v 0
                u.h.ufepc = v ∧ u.h.x = s.h.x ∧ u.h.pc = s.h.pc + 4)) ∧
    (∀ word v, s.h.mode = .m → (let u := s.csrInstr word 0x340 .write v 0
                u.h.mscratch = v ∧ u.h.x = s.h.x ∧ u.h.pc = s.h.pc + 4)) ∧
    (∀ c, s.irqDue s.cur.n s.cur.e = some c → s.h.stepSt = 0 →
      (let u := s.interrupt
       SameMemory s u ∧ u.h.x = s.h.x ∧
       (s.h.mode ≠ .m → tb s.h.mideleg c = true → u.h.sepc = s.h.pc ∧ u.h.scause = BitVec.ofNat 64 (2 ^ 63 + c) ∧ u.h.spp = s.h.mode ∧
         u.h.spie = s.h.sie ∧ u.h.sie = false ∧ u.h.mode = .s) ∧
       (s.h.mode = .m ∨ tb s.h.mideleg c = false → u.h.mepc = s.h.pc ∧ u.h.mcause = BitVec.ofNat 64 (2 ^ 63 + c) ∧ u.h.mpp = s.h.mode ∧
         u.h.mpie = s.h.mie ∧ u.h.mie = false ∧ u.h.mode = .m))))

/-- R369, R371, R394: GO installs a handler whose ranges pass, refuses one whose layout or pages fail, and removes one of length 0; a held
record goes to the ring's slot at TAIL when it has room, and TAIL moves on. -/
def Obligations.HandlerEvents : Prop :=
  ∀ (s : State), s.HasIsle → s.cur.k < (s.isle s.cur.n).handlers.length →
    (let n := s.cur.n
     let t := s.cur.k
     let h := (s.isle n).handler t
     let after := fun (u : State) => (u.isle n).handler t
     (∀ v : BitVec 32,
       (tb v 4 = false → ∃ u, exec (.handlerInstall v) s = .next u ∧ SameMemory s u ∧ after u = { h with wcore := v.toNat % 16 }) ∧
       (tb v 4 = true →
         (h.wclen = 0 → ∃ u, exec (.handlerInstall v) s = .next u ∧ SameMemory s u ∧ (after u).en = false ∧ (after u).result = 0) ∧
         (h.wclen ≠ 0 → h.badLayout = true → ∃ u, exec (.handlerInstall v) s = .next u ∧ SameMemory s u ∧ (after u).en = false ∧
           (after u).result = 3) ∧
         (h.wclen ≠ 0 → h.badLayout = false →
           (let ok := s.rangeOk t n h.wcode h.wclen Leaf.x && s.rangeOk t n h.wdata h.wdlen (fun l => l.r && l.w && l.d)
            ∃ u, exec (.handlerInstall v) s = .next u ∧ SameMemory s u ∧ (after u).en = ok ∧ (after u).result = (if ok then 1 else 2) ∧
              (ok = true → (after u).code = h.wcode ∧ (after u).clen = h.wclen ∧ (after u).data = h.wdata ∧ (after u).dlen = h.wdlen ∧
                (after u).core = v.toNat % 16))))) ∧
     (h.held = [] → exec .handlerRecordWrite s = .next s) ∧
     (∀ r seq fck rest b, h.held = (r, seq, fck) :: rest → h.en = true → s.ringRoom n t (r.blocks seq fck).length = true →
       r.cont = false → r.kind ≠ 0 → s.ringPa n t = some b → b % 4096 = 0 → paStack b = true → h.tail < 63 → (s.isle n).sk = [] →
       s.isPois b = false → s.isPois (b + 0x40 + 64 * h.tail) = false → Memory.wf s.mem = true →
       ∃ u, exec .handlerRecordWrite s = .next u ∧ (after u).held = rest ∧ (after u).tail = (h.tail + 1) % 63 ∧
         (∀ i, i < 64 → u.byte (b + 0x40 + 64 * h.tail + i) = nth 0 (r.bytes seq fck) i) ∧ u.num (b + 4) 4 = (h.tail + 1) % 63 ∧
         ∀ a, (a < b + 4 ∨ b + 8 ≤ a) → (a < b + 0x40 + 64 * h.tail ∨ b + 0x80 + 64 * h.tail ≤ a) → u.byte a = s.byte a))

/-- R445, R447, R451 to R455: trace control and samples, and the life of a cut. DUMP_GO starts a cut unless one runs on an isle of its
mask, and asks the other isles; a segment of its tenant records and its clock stops; each isle writes its sections within its region,
and no other byte; and when every isle has written, the state says so and the segments run again where they are to resume. -/
def Obligations.DebugEvents : Prop :=
  ∀ (s : State), s.HasIsle →
    (let n := s.cur.n
     let k := s.cur.k
     let i := s.isle n
     let tr := i.trace
     (∀ v : BitVec 32, ∃ u, exec (.tctlWrite v) s = .next u ∧ SameMemory s u ∧
       (let t := (u.isle n).trace
        t.en = tb v 0 ∧ t.wrap = tb v 1 ∧ t.tenant = v.toNat / 4 % 64 ∧ t.anyt = tb v 8 ∧ t.kmask = v.toNat / 2 ^ 9 % 128 ∧
        t.dthr = v.toNat / 2 ^ 16 ∧ t.log.lost = (if tb v 0 = true ∧ tr.en = false then 0 else tr.log.lost) ∧
        t.log.tail = tr.log.tail ∧ t.log.head = tr.log.head)) ∧
     (tr.en = true → tr.tsamp ≠ 0 →
       (tr.lastSample + tr.tsamp ≤ s.pt → ∃ u, exec .traceSample s = .next u ∧ (u.isle n).trace.lastSample = s.pt ∧
         (tb (BitVec.ofNat 7 tr.kmask) 6 = false → SameMemory s u)) ∧
       (s.pt < tr.lastSample + tr.tsamp → exec .traceSample s = .next s)) ∧
     (∀ v : BitVec 32,
       (tb v 0 = false → ∃ u, exec (.dumpGo v) s = .next u ∧ SameMemory s u ∧ (u.isle n).dump = { i.dump with
         resume := tb v 1, tenant := v.toNat / 4 % 64, stack := tb v 8, mem := tb v 9 }) ∧
       (tb v 0 = true → s.cutBusy i.dump.mask = true → ∃ u, exec (.dumpGo v) s = .next u ∧ SameMemory s u ∧ (u.isle n).dump.state = 4 ∧
         (u.isle n).dump.cut = i.dump.cut ∧ u.net = s.net) ∧
       (tb v 0 = true → s.cutBusy i.dump.mask = false →
         (let num := (i.dump.cut + 1) % 2 ^ 32
          let ten := v.toNat / 4 % 64
          ∃ u, exec (.dumpGo v) s = .next u ∧ SameMemory s u ∧ (u.isle n).dump.state = 1 ∧ (u.isle n).dump.cut = num ∧
            (u.isle n).dump.job = some ⟨tb v 1, tb v 8, tb v 9, i.dump.mask, i.dump.base, i.dump.len⟩ ∧
            (n < 40 → bitN i.dump.mask n = true → (u.isle n).dump.coord = some (n, num, ten)) ∧
            ∀ m, m < 40 → m ≠ n → bitN i.dump.mask m = true → s.inView n m = true → ∃ f ∈ u.net, f.dst = s.member m ∧
              f.body = .cut ten num true))) ∧
     (∀ f ten num g, s.flitFor n s.cur.j = some f → f.body = .cut ten num true → k < i.rings.length → s.seg n k = some g → g.tenant = ten →
       g.cutNo ≠ num → ∃ u, exec .cutRecord s = .next u ∧ SameMemory s u ∧ u.net = dropAt s.net s.cur.j ∧
         (u.isle n).dump.coord = some (f.src.2, num, ten) ∧
         (g.stopped = false → g.halt ≠ .saving → g.frz = none → g.live = g.start → u.seg n k = some { g with cutNo := num, halt := .cut, stopPt := s.pt }) ∧
         (g.stopped = true → u.seg n k = some { g with cutNo := num }) ∧
         (g.stopped = false → g.halt ≠ .saving → (g.frz ≠ none ∨ g.live ≠ g.start) → u.seg n k = some g)) ∧
     (∀ c num ten, i.dump.coord = some (c, num, ten) → c < s.isles.length → i.dump.written = false → s.allRecorded c num ten = true →
       bitN (s.isle c).dump.cut_.mask n = true → s.pois = [] → ∃ u, exec .dumpWrite s = .next u ∧ (u.isle n).dump.written = true ∧
         (u.isle c).dump.state = 2 ∧
         (let d := (s.isle c).dump.cut_
          d.stack = true → ∀ a, (a < paOf n d.base ∨ paOf n d.base + 4096 * d.len ≤ a) → u.byte a = s.byte a)) ∧
     (let d := i.dump
      let here := d.isles.filter fun m => m == n || s.inView n m
      d.busy = true → (∀ m ∈ here, (s.isle m).dump.written = true ∧ ∃ x y, (s.isle m).dump.coord = some (n, x, y)) →
        ∃ u, exec .dumpFinish s = .next u ∧ (d.cut_.resume = true → SameMemory s u) ∧ (u.isle n).dump.busy = false ∧
          (here.length < d.isles.length → (u.isle n).dump.state = 6) ∧
          (here.length = d.isles.length → (∃ m ∈ here, (s.isle m).dump.small = true) → (u.isle n).dump.state = 5) ∧
          (here.length = d.isles.length → (∀ m ∈ here, (s.isle m).dump.small = false) → (u.isle n).dump.state = 3) ∧
          ∀ m num ten, m < 40 → m < s.isles.length → (s.isle m).dump.coord = some (n, num, ten) → (u.isle m).dump.coord = none ∧
            (d.cut_.resume = true → ∀ r g, r < 6 → r < (s.isle m).rings.length → s.seg m r = some g → g.cutNo = num → g.tenant = ten →
              g.halt = .cut → u.seg m r = some { g with halt := .none, start := g.live, stall := 0, cutNo := 0 })))

/-- R13, R288, R302, R480 to R482, R488, R495, R497, R499: boot, reset, power, temperature and links. Boot releases the isles that pass,
gives them their rings and the first view, and leaves panel memory empty; a reset of one isle leaves the others and clears its own; power
loss loses the panel's memory; an isle that trips is held in reset and its peers hear of it; a port trains on twelve lanes or more; and
a flit whose check is right enters, one whose check is wrong does not. -/
def Obligations.SystemEvents : Prop :=
  ∀ (s : State),
    (let n := s.cur.n
     let k := s.cur.k
     (∀ b : BootInfo, b.powered = true →
       (s.powered = true → exec (.boot b) s = .next s) ∧
       (s.powered = false → ∃ u, exec (.boot b) s = .next u ∧ u.powered = true ∧ u.panel = b.panel % 64 ∧ u.roots = b.roots ∧
         u.isles.length = 40 ∧ (∀ a, paSpace a = 0 → u.byte a = 0) ∧ (∀ a, paSpace a ≠ 0 → u.byte a = s.byte a) ∧
         ∀ m, m < 40 →
           (let x := nth IsleBoot.failed b.isles m
            (u.isle m).up = (x.passes && x.imageOk) ∧
            ((u.isle m).up = true → (u.isle m).pview.num = 1 ∧ (u.isle m).pview.st = .stable ∧
              (∀ o, o < 40 → ((b.panel % 64, o) ∈ (u.isle m).pview.members ↔ (u.isle o).up = true)) ∧
              ∀ r, r < 6 → ((u.isle m).ring r).stripes = (if nth 0 x.stripes r < 24 then 0 else min 32 (nth 0 x.stripes r)) ∧
                u.seg m r = none)))) ∧
     (∀ b : IsleBoot, s.powered = true → s.HasIsle → ∃ u, exec (.isleReset b) s = .next u ∧ (u.isle n).up = (b.passes && b.imageOk) ∧
       (u.isle n).pview.st = .isolated ∧ (u.isle n).sview.st = .isolated ∧ (∀ r, u.seg n r = none) ∧
       ((s.isle n).tested = true → ∀ r, r < 6 → ((u.isle n).ring r).stripes ≤ ((s.isle n).ring r).stripes) ∧
       (∀ a, paPanel a = true → paIsle a = n → u.byte a = 0) ∧ ∀ a, ¬(paPanel a = true ∧ paIsle a = n) → u.byte a = s.byte a) ∧
     (∃ u, exec .powerLoss s = .next u ∧ u.powered = false ∧ (∀ m, (u.isle m).up = false) ∧ (∀ a, paSpace a = 0 → u.byte a = 0) ∧
       ∀ a, paSpace a ≠ 0 → u.byte a = s.byte a) ∧
     (s.HasIsle →
       ((s.isle n).up = true → ∃ u, exec .thermalThrottle s = .next u ∧ SameMemory s u ∧ (u.isle n).throt = true ∧
         (u.isle n).rings = (s.isle n).rings) ∧
       ((s.isle n).up = false → exec .thermalThrottle s = .next s) ∧
       (∃ u, exec .throtClear s = .next u ∧ SameMemory s u ∧ (u.isle n).throt = false) ∧
       ((s.isle n).up = true → ∃ u, exec .thermalTrip s = .next u ∧ u.isle n = { Isle.reset n with
           tested := (s.isle n).tested
           rings := (List.range 6).map fun r => { Ring.reset with stripes := ((s.isle n).ring r).stripes } } ∧
         (∀ m ∈ (s.isle n).pview.members, m ≠ s.member n → ∃ f ∈ u.net, f.src = s.member n ∧ f.dst = m ∧ f.body = .fatal) ∧
         ∀ a, ¬(paPanel a = true ∧ paIsle a = n) → u.byte a = s.byte a)) ∧
     (k < s.ports.length →
       (∀ lanes br peer, s.powered = true →
         (12 ≤ lanes → lanes ≤ 16 → ∃ u, exec (.linkPortUp lanes br peer) s = .next u ∧ SameMemory s u ∧ (u.port k).up = true ∧
           (u.port k).lanes = lanes ∧ (u.port k).peer = peer % 64 ∧ ((u.port k).bridge = true ↔ br = true ∧ k < 4)) ∧
         (lanes < 12 → exec (.linkPortUp lanes br peer) s = .next s)) ∧
       ((s.port k).up = false → exec .linkPortDown s = .next s) ∧
       ((s.port k).up = true → ∃ u, exec .linkPortDown s = .next u ∧ (u.port k).up = false ∧ (u.port k).bridge = (s.port k).bridge ∧
         (u.port k).retry = (s.port k).retry ∧ ∀ p, p ≠ k → u.port p = s.port p) ∧
       (∀ ok f, (s.port k).up = true →
         (ok = true → f.dst.1 = s.panel → f.src.1 ≠ s.panel → ∃ u, exec (.flitReceive ok f) s = .next u ∧ u.net = s.net ++ [f] ∧
           SameMemory s u) ∧
         (ok = false → ∃ u, exec (.flitReceive ok f) s = .next u ∧ u.net = s.net ∧ SameMemory s u ∧
           (f.src.1 = s.panel → (u.port k).retry.toNat = min (2 ^ 32 - 1) ((s.port k).retry.toNat + 1))))))

/-- R423, R441, R483, R487, R489, R500: what the host and firmware reach. The host reads and writes panel memory through a bridge, byte for
byte, and gets Unsupported Request from an isle held in reset and from a page of a tenant that refuses it; the debug module halts and
resumes a hart; a write to the control window changes its register, a U-mode hart's none; and M-mode extends MR3, MR6 and MR7 only. -/
def Obligations.HostEvents : Prop :=
  ∀ (s : State),
    (let n := s.cur.n
     (∀ h : HostReq, (s.bridgeUp h.bridge = false ∨ 4 ≤ h.bridge) → exec (.hostAccess h) s = .next s) ∧
     (∀ h : HostReq, s.bridgeUp h.bridge = true → h.bridge < 4 → h.fn = 0 → h.bar ≠ 0 → h.off + h.size ≤ 2 ^ 46 →
       (let pas := (List.range h.size).map fun i => h.off + i
        ((∀ a ∈ pas, paExists a = true ∧ (s.isle (paIsle a)).up = true) →
          (h.wr = none → ∃ u, exec (.hostAccess h) s = .next u ∧ SameMemory s u ∧
            u.rsp = some (.data (s.bytes h.off h.size) (s.anyPois h.off h.size))) ∧
          (∀ bs, h.wr = some bs → bs.length = h.size → s.Clean (pas.zip bs) → ∃ u, exec (.hostAccess h) s = .next u ∧
            Wrote s u (pas.zip bs) ∧ u.rsp = some .done)) ∧
        ((∃ a ∈ pas, paExists a = true ∧ (s.isle (paIsle a)).up = false) → ∃ u, exec (.hostAccess h) s = .next u ∧ SameMemory s u ∧
          u.rsp = some .unsupported))) ∧
     (∀ h : HostReq, s.bridgeUp h.bridge = true → h.bridge < 4 → h.fn ≠ 0 → h.bar ≠ 0 → s.hostPas (h.fn - 1) h.off h.size h.wr.isSome = none →
       ∃ u, exec (.hostAccess h) s = .next u ∧ u.rsp = some .unsupported) ∧
     (s.HasIsle →
       (∀ v : BitVec 32, tb v 0 = true → (s.isle n).dmi.length = 128 → s.cur.j = 0x10 →
         (let hart := v.toNat / 2 ^ 16 % 2 ^ 10 + v.toNat / 2 ^ 6 % 2 ^ 10 * 2 ^ 10
          hart < (s.isle n).harts.length →
          (tb v 31 = true → ∃ u, exec (.dmiAccess true v) s = .next u ∧ SameMemory s u ∧ ((u.isle n).hart hart).halted = true ∧
            ∀ e, e ≠ hart → (u.isle n).hart e = (s.isle n).hart e) ∧
          (tb v 31 = false → tb v 30 = true → ∃ u, exec (.dmiAccess true v) s = .next u ∧ SameMemory s u ∧
            ((u.isle n).hart hart).halted = false))) ∧
       (∀ v : BitVec 32, ∃ u, exec (.dmiAccess false v) s = .next u ∧ u.isles = s.isles ∧ SameMemory s u ∧
         u.rsp = some (.data (leBytes 4 ((s.isle n).dmiRead s.cur.j)) false)) ∧
       ((s.isle n).mr.length = 8 →
         (((s.isle n).hart s.cur.e).mode = .m → s.cur.k = 3 ∨ s.cur.k = 6 ∨ s.cur.k = 7 → ∃ u, exec .mrExtend s = .next u ∧ SameMemory s u ∧
           nth [] (u.isle n).mr s.cur.k = sha3 (nth [] (s.isle n).mr s.cur.k ++ (s.isle n).mrext) ∧
           (u.isle n).mrext = List.replicate 32 0 ∧ ∀ x, x ≠ s.cur.k → nth [] (u.isle n).mr x = nth [] (s.isle n).mr x) ∧
         (((s.isle n).hart s.cur.e).mode = .m → s.cur.k ≠ 3 → s.cur.k ≠ 6 → s.cur.k ≠ 7 → ∃ u, exec .mrExtend s = .next u ∧
           (u.isle n).mr = (s.isle n).mr) ∧
         (((s.isle n).hart s.cur.e).mode ≠ .m → exec .mrExtend s = .next s)) ∧
       (∀ e off size (v : BitVec 64), ((s.isle n).hart e).mode = .u → exec (.registerWrite (.hart e) off size v) s = .next s) ∧
       (∀ src off size (v : BitVec 64), s.srcOk src n = true →
         ((s.isle n).up = false → exec (.registerWrite src off size v) s = .next s) ∧
         ((s.isle n).up = true →
           (off < 0x1000 → size = 4 → off % 4 = 0 → exec (.registerWrite src off size v) s = .next s) ∧
           (off = 0x6000 → size = 4 → ∃ u, exec (.registerWrite src off size v) s = .next u ∧ SameMemory s u ∧
             (u.isle n).cont = { (s.isle n).cont with replayTry := v.toNat % 16 }) ∧
           (off = 0x4004 → size = 4 → ∃ u, exec (.registerWrite src off size v) s = .next u ∧ SameMemory s u ∧
             (u.isle n).ferry.ftout = max 1000 (v.toNat % 2 ^ 32)) ∧
           (∀ i, i < (s.isle n).hb.sem.length → i < 256 → off = 0x2000 + 8 * i →
             (size = 8 → ∃ u, exec (.registerWrite src off size v) s = .next u ∧ SameMemory s u ∧ nth 0 (u.isle n).hb.sem i = v) ∧
             (size ≠ 8 → exec (.registerWrite src off size v) s = .next s))))))

/-- R490 to R493: the attestation responder and the accounting counters. Each request answers on its connection once the panel has booted;
the version, the capabilities and the algorithms come in their order; GET_MEASUREMENTS gives the registers of each isle that is not
held; at most four sessions stand, opened, completed and ended; ACCRESET needs a complete session of a listed root and a time far
enough ahead, and clears the counters of its tenants when that time has come. -/
def Obligations.AttestationEvents : Prop :=
  ∀ (s : State), s.powered = true → s.cur.k < 4 → s.spdm.length = 4 →
    (let c := s.conn
     let x := s.cur.j
     let answers := fun (i : Instr) (r : SpdmRsp) (c' : Spdm) => ∃ u, exec i s = .next u ∧ u.spdmOut = some r ∧ u.conn = c' ∧
       u.isles = s.isles ∧ SameMemory s u
     answers .getVersion .version ⟨true, false, false, []⟩ ∧
     (c.version = true → answers .getCapabilities .capabilities { c with caps := true }) ∧
     (c.version = false → answers .getCapabilities (.error 4) c) ∧
     (∀ ok, (c.caps = true → answers (.negotiateAlgorithms ok) (.algorithms ok) { c with algs := ok }) ∧
       (c.caps = false → answers (.negotiateAlgorithms ok) (.error 4) c)) ∧
     (∀ code, answers (.spdmUnsupportedRequest code) (.error 7) c) ∧
     (c.algs = false → ∀ i ∈ [Instr.getDigests, .getCertificate 0 0 0, .challenge, .getMeasurements, .keyExchange, .finish true true 0,
       .endSession], answers i (.error 4) c) ∧
     (c.algs = true →
       (∃ d, answers .getDigests (.digests d) c) ∧
       (∀ slot off len, (slot = 0 → ∃ d, answers (.getCertificate slot off len) (.certificate d) c ∧ d.length ≤ len) ∧
         (slot ≠ 0 → answers (.getCertificate slot off len) (.error 1) c)) ∧
       (∃ d, answers .challenge (.challengeAuth d) c) ∧
       (∃ bs d, answers .getMeasurements (.measurements (bs ++ [(41, d)])) c ∧ d = sha3 (bs.flatMap (·.2)) ∧
         bs = (s.isles.filter (·.up)).map fun i => (i.no + 1, i.mr.flatMap id)) ∧
       (∀ y, s.freeSession = some y → ∃ d, answers .keyExchange (.keyExchange y d) { c with sess := c.sess ++ [(y, false, none)] }) ∧
       (s.freeSession = none → answers .keyExchange (.error 5) c) ∧
       (∀ r both root, c.session x = some (false, r) →
         answers (.finish true both root) .finish { c with sess := insertN x (true, if both then some root else none) c.sess } ∧
         answers (.finish false both root) (.error 6) (c.close x)) ∧
       (∀ sig both root, c.session x = none → answers (.finish sig both root) (.error 4) c) ∧
       (∀ r, c.session x = some (true, r) → answers .endSession .endSession (c.close x)) ∧
       (c.session x = none → answers .endSession (.error 4) c)) ∧
     (∀ (mask : BitVec 64) (t : Nat),
       (s.pt + 100000 ≤ t → (∃ r, c.session x = some (true, some r) ∧ r ∈ s.roots) → ∃ u, exec (.accreset mask t) s = .next u ∧
         u.accReset = s.accReset ++ [(mask.toNat, t, s.cur.k)] ∧ u.isles = s.isles) ∧
       (t < s.pt + 100000 → answers (.accreset mask t) (.error 1) c)) ∧
     (∀ mask t conn, s.accReset = [(mask, t, conn)] →
       (s.pt < t → ∃ u, exec .accountingClear s = .next u ∧ u.isles = s.isles ∧ u.accReset = s.accReset) ∧
       (t ≤ s.pt → ∃ u, exec .accountingClear s = .next u ∧ u.accReset = [] ∧ SameMemory s u ∧ u.spdmOut = some .accResetDone ∧
         ∀ n y, n < s.isles.length → y < (s.isle n).acct.length →
           nth [] (u.isle n).acct y = if bitN mask y then (nth [] (s.isle n).acct y).map (fun _ => 0) else nth [] (s.isle n).acct y)))
end

