-- ==== Sys2Proof/Laws/State.lean ====
section
/-! SUPPORT. What each update of the state leaves alone, field by field, and what a list read after an update gives. -/

namespace Sys2Proof.Laws

open Sys2Proof.Machine

/-! ## Lists read and updated in place -/

@[simp] theorem length_upd {α : Type} (f : α → α) (l : List α) (i : Nat) : (upd f l i).length = l.length := by
  induction l generalizing i with
  | nil => rfl
  | cons x xs ih => cases i with
    | zero => rfl
    | succ i => simp [upd, ih]

theorem nth_upd_same {α : Type} (d : α) (f : α → α) (l : List α) (i : Nat) (h : i < l.length) :
    nth d (upd f l i) i = f (nth d l i) := by
  induction l generalizing i with
  | nil => simp at h
  | cons x xs ih => cases i with
    | zero => rfl
    | succ i => simp only [List.length_cons] at h; simpa [upd, nth] using ih i (by omega)

theorem nth_upd_ne {α : Type} (d : α) (f : α → α) (l : List α) (i j : Nat) (h : i ≠ j) :
    nth d (upd f l i) j = nth d l j := by
  induction l generalizing i j with
  | nil => rfl
  | cons x xs ih => cases i with
    | zero => cases j with
      | zero => exact absurd rfl h
      | succ j => rfl
    | succ i => cases j with
      | zero => rfl
      | succ j => simpa [upd, nth] using ih i j (by omega)

theorem nth_of_length_le {α : Type} (d : α) (l : List α) (i : Nat) (h : l.length ≤ i) : nth d l i = d := by
  induction l generalizing i with
  | nil => rfl
  | cons x xs ih => cases i with
    | zero => simp at h
    | succ i => simp only [List.length_cons] at h; exact ih i (by omega)

theorem upd_upd {α : Type} (f g : α → α) (l : List α) (i : Nat) : upd f (upd g l i) i = upd (fun x => f (g x)) l i := by
  induction l generalizing i with
  | nil => rfl
  | cons x xs ih => cases i with
    | zero => rfl
    | succ i => simp [upd, ih]

theorem upd_id {α : Type} (l : List α) (i : Nat) : upd (fun x => x) l i = l := by
  induction l generalizing i with
  | nil => rfl
  | cons x xs ih => cases i with
    | zero => rfl
    | succ i => simp [upd, ih]

/-- Lane `k` of a token given lane by lane. -/
theorem lanes_get_ofFn (f : Nat → W) (k : Nat) (h : k < 16) : (Lanes.ofFn f).get k = f k := by
  have : k = 0 ∨ k = 1 ∨ k = 2 ∨ k = 3 ∨ k = 4 ∨ k = 5 ∨ k = 6 ∨ k = 7 ∨ k = 8 ∨ k = 9 ∨ k = 10 ∨ k = 11 ∨ k = 12 ∨ k = 13 ∨
      k = 14 ∨ k = 15 := by omega
  rcases this with rfl | rfl | rfl | rfl | rfl | rfl | rfl | rfl | rfl | rfl | rfl | rfl | rfl | rfl | rfl | rfl <;> rfl

theorem lanes_get_rep (x : W) (k : Nat) (h : k < 16) : (Lanes.rep x).get k = x := lanes_get_ofFn _ k h

/-! ## State: one field, one update -/

@[simp] theorem onIsle_mem (s : State) (n : Nat) (f : Isle → Isle) : (s.onIsle n f).mem = s.mem := rfl
@[simp] theorem onIsle_full (s : State) (n : Nat) (f : Isle → Isle) : (s.onIsle n f).full = s.full := rfl
@[simp] theorem onIsle_pois (s : State) (n : Nat) (f : Isle → Isle) : (s.onIsle n f).pois = s.pois := rfl
@[simp] theorem onIsle_sc (s : State) (n : Nat) (f : Isle → Isle) : (s.onIsle n f).sc = s.sc := rfl
@[simp] theorem onIsle_cb (s : State) (n : Nat) (f : Isle → Isle) : (s.onIsle n f).cb = s.cb := rfl
@[simp] theorem onIsle_ptRoot (s : State) (n : Nat) (f : Isle → Isle) : (s.onIsle n f).ptRoot = s.ptRoot := rfl
@[simp] theorem onIsle_net (s : State) (n : Nat) (f : Isle → Isle) : (s.onIsle n f).net = s.net := rfl
@[simp] theorem onIsle_pt (s : State) (n : Nat) (f : Isle → Isle) : (s.onIsle n f).pt = s.pt := rfl
@[simp] theorem onIsle_powered (s : State) (n : Nat) (f : Isle → Isle) : (s.onIsle n f).powered = s.powered := rfl
@[simp] theorem onIsle_panel (s : State) (n : Nat) (f : Isle → Isle) : (s.onIsle n f).panel = s.panel := rfl
@[simp] theorem onIsle_ports (s : State) (n : Nat) (f : Isle → Isle) : (s.onIsle n f).ports = s.ports := rfl
@[simp] theorem onIsle_ldBridge (s : State) (n : Nat) (f : Isle → Isle) : (s.onIsle n f).ldBridge = s.ldBridge := rfl
@[simp] theorem onIsle_ldBase (s : State) (n : Nat) (f : Isle → Isle) : (s.onIsle n f).ldBase = s.ldBase := rfl
@[simp] theorem onIsle_ldLen (s : State) (n : Nat) (f : Isle → Isle) : (s.onIsle n f).ldLen = s.ldLen := rfl
@[simp] theorem onIsle_roots (s : State) (n : Nat) (f : Isle → Isle) : (s.onIsle n f).roots = s.roots := rfl
@[simp] theorem onIsle_spdm (s : State) (n : Nat) (f : Isle → Isle) : (s.onIsle n f).spdm = s.spdm := rfl
@[simp] theorem onIsle_spdmOut (s : State) (n : Nat) (f : Isle → Isle) : (s.onIsle n f).spdmOut = s.spdmOut := rfl
@[simp] theorem onIsle_accReset (s : State) (n : Nat) (f : Isle → Isle) : (s.onIsle n f).accReset = s.accReset := rfl
@[simp] theorem onIsle_irqs (s : State) (n : Nat) (f : Isle → Isle) : (s.onIsle n f).irqs = s.irqs := rfl
@[simp] theorem onIsle_rsp (s : State) (n : Nat) (f : Isle → Isle) : (s.onIsle n f).rsp = s.rsp := rfl
@[simp] theorem onIsle_free (s : State) (n : Nat) (f : Isle → Isle) : (s.onIsle n f).free = s.free := rfl
@[simp] theorem onIsle_cur (s : State) (n : Nat) (f : Isle → Isle) : (s.onIsle n f).cur = s.cur := rfl
@[simp] theorem onIsle_agenda (s : State) (n : Nat) (f : Isle → Isle) : (s.onIsle n f).agenda = s.agenda := rfl

@[simp] theorem onRing_mem (s : State) (n k : Nat) (f : Ring → Ring) : (s.onRing n k f).mem = s.mem := rfl
@[simp] theorem onRing_full (s : State) (n k : Nat) (f : Ring → Ring) : (s.onRing n k f).full = s.full := rfl
@[simp] theorem onRing_pois (s : State) (n k : Nat) (f : Ring → Ring) : (s.onRing n k f).pois = s.pois := rfl
@[simp] theorem onRing_sc (s : State) (n k : Nat) (f : Ring → Ring) : (s.onRing n k f).sc = s.sc := rfl
@[simp] theorem onRing_cb (s : State) (n k : Nat) (f : Ring → Ring) : (s.onRing n k f).cb = s.cb := rfl
@[simp] theorem onRing_ptRoot (s : State) (n k : Nat) (f : Ring → Ring) : (s.onRing n k f).ptRoot = s.ptRoot := rfl
@[simp] theorem onRing_net (s : State) (n k : Nat) (f : Ring → Ring) : (s.onRing n k f).net = s.net := rfl
@[simp] theorem onRing_pt (s : State) (n k : Nat) (f : Ring → Ring) : (s.onRing n k f).pt = s.pt := rfl
@[simp] theorem onRing_powered (s : State) (n k : Nat) (f : Ring → Ring) : (s.onRing n k f).powered = s.powered := rfl
@[simp] theorem onRing_panel (s : State) (n k : Nat) (f : Ring → Ring) : (s.onRing n k f).panel = s.panel := rfl
@[simp] theorem onRing_ports (s : State) (n k : Nat) (f : Ring → Ring) : (s.onRing n k f).ports = s.ports := rfl
@[simp] theorem onRing_ldBridge (s : State) (n k : Nat) (f : Ring → Ring) : (s.onRing n k f).ldBridge = s.ldBridge := rfl
@[simp] theorem onRing_ldBase (s : State) (n k : Nat) (f : Ring → Ring) : (s.onRing n k f).ldBase = s.ldBase := rfl
@[simp] theorem onRing_ldLen (s : State) (n k : Nat) (f : Ring → Ring) : (s.onRing n k f).ldLen = s.ldLen := rfl
@[simp] theorem onRing_roots (s : State) (n k : Nat) (f : Ring → Ring) : (s.onRing n k f).roots = s.roots := rfl
@[simp] theorem onRing_spdm (s : State) (n k : Nat) (f : Ring → Ring) : (s.onRing n k f).spdm = s.spdm := rfl
@[simp] theorem onRing_spdmOut (s : State) (n k : Nat) (f : Ring → Ring) : (s.onRing n k f).spdmOut = s.spdmOut := rfl
@[simp] theorem onRing_accReset (s : State) (n k : Nat) (f : Ring → Ring) : (s.onRing n k f).accReset = s.accReset := rfl
@[simp] theorem onRing_irqs (s : State) (n k : Nat) (f : Ring → Ring) : (s.onRing n k f).irqs = s.irqs := rfl
@[simp] theorem onRing_rsp (s : State) (n k : Nat) (f : Ring → Ring) : (s.onRing n k f).rsp = s.rsp := rfl
@[simp] theorem onRing_free (s : State) (n k : Nat) (f : Ring → Ring) : (s.onRing n k f).free = s.free := rfl
@[simp] theorem onRing_cur (s : State) (n k : Nat) (f : Ring → Ring) : (s.onRing n k f).cur = s.cur := rfl
@[simp] theorem onRing_agenda (s : State) (n k : Nat) (f : Ring → Ring) : (s.onRing n k f).agenda = s.agenda := rfl

@[simp] theorem onSeg_mem (s : State) (n k : Nat) (f : Seg → Seg) : (s.onSeg n k f).mem = s.mem := rfl
@[simp] theorem onSeg_full (s : State) (n k : Nat) (f : Seg → Seg) : (s.onSeg n k f).full = s.full := rfl
@[simp] theorem onSeg_pois (s : State) (n k : Nat) (f : Seg → Seg) : (s.onSeg n k f).pois = s.pois := rfl
@[simp] theorem onSeg_sc (s : State) (n k : Nat) (f : Seg → Seg) : (s.onSeg n k f).sc = s.sc := rfl
@[simp] theorem onSeg_cb (s : State) (n k : Nat) (f : Seg → Seg) : (s.onSeg n k f).cb = s.cb := rfl
@[simp] theorem onSeg_ptRoot (s : State) (n k : Nat) (f : Seg → Seg) : (s.onSeg n k f).ptRoot = s.ptRoot := rfl
@[simp] theorem onSeg_net (s : State) (n k : Nat) (f : Seg → Seg) : (s.onSeg n k f).net = s.net := rfl
@[simp] theorem onSeg_pt (s : State) (n k : Nat) (f : Seg → Seg) : (s.onSeg n k f).pt = s.pt := rfl
@[simp] theorem onSeg_powered (s : State) (n k : Nat) (f : Seg → Seg) : (s.onSeg n k f).powered = s.powered := rfl
@[simp] theorem onSeg_panel (s : State) (n k : Nat) (f : Seg → Seg) : (s.onSeg n k f).panel = s.panel := rfl
@[simp] theorem onSeg_ports (s : State) (n k : Nat) (f : Seg → Seg) : (s.onSeg n k f).ports = s.ports := rfl
@[simp] theorem onSeg_ldBridge (s : State) (n k : Nat) (f : Seg → Seg) : (s.onSeg n k f).ldBridge = s.ldBridge := rfl
@[simp] theorem onSeg_ldBase (s : State) (n k : Nat) (f : Seg → Seg) : (s.onSeg n k f).ldBase = s.ldBase := rfl
@[simp] theorem onSeg_ldLen (s : State) (n k : Nat) (f : Seg → Seg) : (s.onSeg n k f).ldLen = s.ldLen := rfl
@[simp] theorem onSeg_roots (s : State) (n k : Nat) (f : Seg → Seg) : (s.onSeg n k f).roots = s.roots := rfl
@[simp] theorem onSeg_spdm (s : State) (n k : Nat) (f : Seg → Seg) : (s.onSeg n k f).spdm = s.spdm := rfl
@[simp] theorem onSeg_spdmOut (s : State) (n k : Nat) (f : Seg → Seg) : (s.onSeg n k f).spdmOut = s.spdmOut := rfl
@[simp] theorem onSeg_accReset (s : State) (n k : Nat) (f : Seg → Seg) : (s.onSeg n k f).accReset = s.accReset := rfl
@[simp] theorem onSeg_irqs (s : State) (n k : Nat) (f : Seg → Seg) : (s.onSeg n k f).irqs = s.irqs := rfl
@[simp] theorem onSeg_rsp (s : State) (n k : Nat) (f : Seg → Seg) : (s.onSeg n k f).rsp = s.rsp := rfl
@[simp] theorem onSeg_free (s : State) (n k : Nat) (f : Seg → Seg) : (s.onSeg n k f).free = s.free := rfl
@[simp] theorem onSeg_cur (s : State) (n k : Nat) (f : Seg → Seg) : (s.onSeg n k f).cur = s.cur := rfl
@[simp] theorem onSeg_agenda (s : State) (n k : Nat) (f : Seg → Seg) : (s.onSeg n k f).agenda = s.agenda := rfl

@[simp] theorem onHarbour_mem (s : State) (n : Nat) (f : Harbour → Harbour) : (s.onHarbour n f).mem = s.mem := rfl
@[simp] theorem onHarbour_full (s : State) (n : Nat) (f : Harbour → Harbour) : (s.onHarbour n f).full = s.full := rfl
@[simp] theorem onHarbour_pois (s : State) (n : Nat) (f : Harbour → Harbour) : (s.onHarbour n f).pois = s.pois := rfl
@[simp] theorem onHarbour_sc (s : State) (n : Nat) (f : Harbour → Harbour) : (s.onHarbour n f).sc = s.sc := rfl
@[simp] theorem onHarbour_cb (s : State) (n : Nat) (f : Harbour → Harbour) : (s.onHarbour n f).cb = s.cb := rfl
@[simp] theorem onHarbour_ptRoot (s : State) (n : Nat) (f : Harbour → Harbour) : (s.onHarbour n f).ptRoot = s.ptRoot := rfl
@[simp] theorem onHarbour_net (s : State) (n : Nat) (f : Harbour → Harbour) : (s.onHarbour n f).net = s.net := rfl
@[simp] theorem onHarbour_pt (s : State) (n : Nat) (f : Harbour → Harbour) : (s.onHarbour n f).pt = s.pt := rfl
@[simp] theorem onHarbour_powered (s : State) (n : Nat) (f : Harbour → Harbour) : (s.onHarbour n f).powered = s.powered := rfl
@[simp] theorem onHarbour_panel (s : State) (n : Nat) (f : Harbour → Harbour) : (s.onHarbour n f).panel = s.panel := rfl
@[simp] theorem onHarbour_ports (s : State) (n : Nat) (f : Harbour → Harbour) : (s.onHarbour n f).ports = s.ports := rfl
@[simp] theorem onHarbour_ldBridge (s : State) (n : Nat) (f : Harbour → Harbour) : (s.onHarbour n f).ldBridge = s.ldBridge := rfl
@[simp] theorem onHarbour_ldBase (s : State) (n : Nat) (f : Harbour → Harbour) : (s.onHarbour n f).ldBase = s.ldBase := rfl
@[simp] theorem onHarbour_ldLen (s : State) (n : Nat) (f : Harbour → Harbour) : (s.onHarbour n f).ldLen = s.ldLen := rfl
@[simp] theorem onHarbour_roots (s : State) (n : Nat) (f : Harbour → Harbour) : (s.onHarbour n f).roots = s.roots := rfl
@[simp] theorem onHarbour_spdm (s : State) (n : Nat) (f : Harbour → Harbour) : (s.onHarbour n f).spdm = s.spdm := rfl
@[simp] theorem onHarbour_spdmOut (s : State) (n : Nat) (f : Harbour → Harbour) : (s.onHarbour n f).spdmOut = s.spdmOut := rfl
@[simp] theorem onHarbour_accReset (s : State) (n : Nat) (f : Harbour → Harbour) : (s.onHarbour n f).accReset = s.accReset := rfl
@[simp] theorem onHarbour_irqs (s : State) (n : Nat) (f : Harbour → Harbour) : (s.onHarbour n f).irqs = s.irqs := rfl
@[simp] theorem onHarbour_rsp (s : State) (n : Nat) (f : Harbour → Harbour) : (s.onHarbour n f).rsp = s.rsp := rfl
@[simp] theorem onHarbour_free (s : State) (n : Nat) (f : Harbour → Harbour) : (s.onHarbour n f).free = s.free := rfl
@[simp] theorem onHarbour_cur (s : State) (n : Nat) (f : Harbour → Harbour) : (s.onHarbour n f).cur = s.cur := rfl
@[simp] theorem onHarbour_agenda (s : State) (n : Nat) (f : Harbour → Harbour) : (s.onHarbour n f).agenda = s.agenda := rfl

@[simp] theorem onQueue_mem (s : State) (n q : Nat) (f : Queue → Queue) : (s.onQueue n q f).mem = s.mem := rfl
@[simp] theorem onQueue_full (s : State) (n q : Nat) (f : Queue → Queue) : (s.onQueue n q f).full = s.full := rfl
@[simp] theorem onQueue_pois (s : State) (n q : Nat) (f : Queue → Queue) : (s.onQueue n q f).pois = s.pois := rfl
@[simp] theorem onQueue_sc (s : State) (n q : Nat) (f : Queue → Queue) : (s.onQueue n q f).sc = s.sc := rfl
@[simp] theorem onQueue_cb (s : State) (n q : Nat) (f : Queue → Queue) : (s.onQueue n q f).cb = s.cb := rfl
@[simp] theorem onQueue_ptRoot (s : State) (n q : Nat) (f : Queue → Queue) : (s.onQueue n q f).ptRoot = s.ptRoot := rfl
@[simp] theorem onQueue_net (s : State) (n q : Nat) (f : Queue → Queue) : (s.onQueue n q f).net = s.net := rfl
@[simp] theorem onQueue_pt (s : State) (n q : Nat) (f : Queue → Queue) : (s.onQueue n q f).pt = s.pt := rfl
@[simp] theorem onQueue_powered (s : State) (n q : Nat) (f : Queue → Queue) : (s.onQueue n q f).powered = s.powered := rfl
@[simp] theorem onQueue_panel (s : State) (n q : Nat) (f : Queue → Queue) : (s.onQueue n q f).panel = s.panel := rfl
@[simp] theorem onQueue_ports (s : State) (n q : Nat) (f : Queue → Queue) : (s.onQueue n q f).ports = s.ports := rfl
@[simp] theorem onQueue_ldBridge (s : State) (n q : Nat) (f : Queue → Queue) : (s.onQueue n q f).ldBridge = s.ldBridge := rfl
@[simp] theorem onQueue_ldBase (s : State) (n q : Nat) (f : Queue → Queue) : (s.onQueue n q f).ldBase = s.ldBase := rfl
@[simp] theorem onQueue_ldLen (s : State) (n q : Nat) (f : Queue → Queue) : (s.onQueue n q f).ldLen = s.ldLen := rfl
@[simp] theorem onQueue_roots (s : State) (n q : Nat) (f : Queue → Queue) : (s.onQueue n q f).roots = s.roots := rfl
@[simp] theorem onQueue_spdm (s : State) (n q : Nat) (f : Queue → Queue) : (s.onQueue n q f).spdm = s.spdm := rfl
@[simp] theorem onQueue_spdmOut (s : State) (n q : Nat) (f : Queue → Queue) : (s.onQueue n q f).spdmOut = s.spdmOut := rfl
@[simp] theorem onQueue_accReset (s : State) (n q : Nat) (f : Queue → Queue) : (s.onQueue n q f).accReset = s.accReset := rfl
@[simp] theorem onQueue_irqs (s : State) (n q : Nat) (f : Queue → Queue) : (s.onQueue n q f).irqs = s.irqs := rfl
@[simp] theorem onQueue_rsp (s : State) (n q : Nat) (f : Queue → Queue) : (s.onQueue n q f).rsp = s.rsp := rfl
@[simp] theorem onQueue_free (s : State) (n q : Nat) (f : Queue → Queue) : (s.onQueue n q f).free = s.free := rfl
@[simp] theorem onQueue_cur (s : State) (n q : Nat) (f : Queue → Queue) : (s.onQueue n q f).cur = s.cur := rfl
@[simp] theorem onQueue_agenda (s : State) (n q : Nat) (f : Queue → Queue) : (s.onQueue n q f).agenda = s.agenda := rfl

@[simp] theorem onFerry_mem (s : State) (n : Nat) (f : Ferry → Ferry) : (s.onFerry n f).mem = s.mem := rfl
@[simp] theorem onFerry_full (s : State) (n : Nat) (f : Ferry → Ferry) : (s.onFerry n f).full = s.full := rfl
@[simp] theorem onFerry_pois (s : State) (n : Nat) (f : Ferry → Ferry) : (s.onFerry n f).pois = s.pois := rfl
@[simp] theorem onFerry_sc (s : State) (n : Nat) (f : Ferry → Ferry) : (s.onFerry n f).sc = s.sc := rfl
@[simp] theorem onFerry_cb (s : State) (n : Nat) (f : Ferry → Ferry) : (s.onFerry n f).cb = s.cb := rfl
@[simp] theorem onFerry_ptRoot (s : State) (n : Nat) (f : Ferry → Ferry) : (s.onFerry n f).ptRoot = s.ptRoot := rfl
@[simp] theorem onFerry_net (s : State) (n : Nat) (f : Ferry → Ferry) : (s.onFerry n f).net = s.net := rfl
@[simp] theorem onFerry_pt (s : State) (n : Nat) (f : Ferry → Ferry) : (s.onFerry n f).pt = s.pt := rfl
@[simp] theorem onFerry_powered (s : State) (n : Nat) (f : Ferry → Ferry) : (s.onFerry n f).powered = s.powered := rfl
@[simp] theorem onFerry_panel (s : State) (n : Nat) (f : Ferry → Ferry) : (s.onFerry n f).panel = s.panel := rfl
@[simp] theorem onFerry_ports (s : State) (n : Nat) (f : Ferry → Ferry) : (s.onFerry n f).ports = s.ports := rfl
@[simp] theorem onFerry_ldBridge (s : State) (n : Nat) (f : Ferry → Ferry) : (s.onFerry n f).ldBridge = s.ldBridge := rfl
@[simp] theorem onFerry_ldBase (s : State) (n : Nat) (f : Ferry → Ferry) : (s.onFerry n f).ldBase = s.ldBase := rfl
@[simp] theorem onFerry_ldLen (s : State) (n : Nat) (f : Ferry → Ferry) : (s.onFerry n f).ldLen = s.ldLen := rfl
@[simp] theorem onFerry_roots (s : State) (n : Nat) (f : Ferry → Ferry) : (s.onFerry n f).roots = s.roots := rfl
@[simp] theorem onFerry_spdm (s : State) (n : Nat) (f : Ferry → Ferry) : (s.onFerry n f).spdm = s.spdm := rfl
@[simp] theorem onFerry_spdmOut (s : State) (n : Nat) (f : Ferry → Ferry) : (s.onFerry n f).spdmOut = s.spdmOut := rfl
@[simp] theorem onFerry_accReset (s : State) (n : Nat) (f : Ferry → Ferry) : (s.onFerry n f).accReset = s.accReset := rfl
@[simp] theorem onFerry_irqs (s : State) (n : Nat) (f : Ferry → Ferry) : (s.onFerry n f).irqs = s.irqs := rfl
@[simp] theorem onFerry_rsp (s : State) (n : Nat) (f : Ferry → Ferry) : (s.onFerry n f).rsp = s.rsp := rfl
@[simp] theorem onFerry_free (s : State) (n : Nat) (f : Ferry → Ferry) : (s.onFerry n f).free = s.free := rfl
@[simp] theorem onFerry_cur (s : State) (n : Nat) (f : Ferry → Ferry) : (s.onFerry n f).cur = s.cur := rfl
@[simp] theorem onFerry_agenda (s : State) (n : Nat) (f : Ferry → Ferry) : (s.onFerry n f).agenda = s.agenda := rfl

@[simp] theorem onHart_mem (s : State) (n h : Nat) (f : Hart → Hart) : (s.onHart n h f).mem = s.mem := rfl
@[simp] theorem onHart_full (s : State) (n h : Nat) (f : Hart → Hart) : (s.onHart n h f).full = s.full := rfl
@[simp] theorem onHart_pois (s : State) (n h : Nat) (f : Hart → Hart) : (s.onHart n h f).pois = s.pois := rfl
@[simp] theorem onHart_sc (s : State) (n h : Nat) (f : Hart → Hart) : (s.onHart n h f).sc = s.sc := rfl
@[simp] theorem onHart_cb (s : State) (n h : Nat) (f : Hart → Hart) : (s.onHart n h f).cb = s.cb := rfl
@[simp] theorem onHart_ptRoot (s : State) (n h : Nat) (f : Hart → Hart) : (s.onHart n h f).ptRoot = s.ptRoot := rfl
@[simp] theorem onHart_net (s : State) (n h : Nat) (f : Hart → Hart) : (s.onHart n h f).net = s.net := rfl
@[simp] theorem onHart_pt (s : State) (n h : Nat) (f : Hart → Hart) : (s.onHart n h f).pt = s.pt := rfl
@[simp] theorem onHart_powered (s : State) (n h : Nat) (f : Hart → Hart) : (s.onHart n h f).powered = s.powered := rfl
@[simp] theorem onHart_panel (s : State) (n h : Nat) (f : Hart → Hart) : (s.onHart n h f).panel = s.panel := rfl
@[simp] theorem onHart_ports (s : State) (n h : Nat) (f : Hart → Hart) : (s.onHart n h f).ports = s.ports := rfl
@[simp] theorem onHart_ldBridge (s : State) (n h : Nat) (f : Hart → Hart) : (s.onHart n h f).ldBridge = s.ldBridge := rfl
@[simp] theorem onHart_ldBase (s : State) (n h : Nat) (f : Hart → Hart) : (s.onHart n h f).ldBase = s.ldBase := rfl
@[simp] theorem onHart_ldLen (s : State) (n h : Nat) (f : Hart → Hart) : (s.onHart n h f).ldLen = s.ldLen := rfl
@[simp] theorem onHart_roots (s : State) (n h : Nat) (f : Hart → Hart) : (s.onHart n h f).roots = s.roots := rfl
@[simp] theorem onHart_spdm (s : State) (n h : Nat) (f : Hart → Hart) : (s.onHart n h f).spdm = s.spdm := rfl
@[simp] theorem onHart_spdmOut (s : State) (n h : Nat) (f : Hart → Hart) : (s.onHart n h f).spdmOut = s.spdmOut := rfl
@[simp] theorem onHart_accReset (s : State) (n h : Nat) (f : Hart → Hart) : (s.onHart n h f).accReset = s.accReset := rfl
@[simp] theorem onHart_irqs (s : State) (n h : Nat) (f : Hart → Hart) : (s.onHart n h f).irqs = s.irqs := rfl
@[simp] theorem onHart_rsp (s : State) (n h : Nat) (f : Hart → Hart) : (s.onHart n h f).rsp = s.rsp := rfl
@[simp] theorem onHart_free (s : State) (n h : Nat) (f : Hart → Hart) : (s.onHart n h f).free = s.free := rfl
@[simp] theorem onHart_cur (s : State) (n h : Nat) (f : Hart → Hart) : (s.onHart n h f).cur = s.cur := rfl
@[simp] theorem onHart_agenda (s : State) (n h : Nat) (f : Hart → Hart) : (s.onHart n h f).agenda = s.agenda := rfl

@[simp] theorem onMbx_mem (s : State) (n b : Nat) (f : Mbx → Mbx) : (s.onMbx n b f).mem = s.mem := rfl
@[simp] theorem onMbx_full (s : State) (n b : Nat) (f : Mbx → Mbx) : (s.onMbx n b f).full = s.full := rfl
@[simp] theorem onMbx_pois (s : State) (n b : Nat) (f : Mbx → Mbx) : (s.onMbx n b f).pois = s.pois := rfl
@[simp] theorem onMbx_sc (s : State) (n b : Nat) (f : Mbx → Mbx) : (s.onMbx n b f).sc = s.sc := rfl
@[simp] theorem onMbx_cb (s : State) (n b : Nat) (f : Mbx → Mbx) : (s.onMbx n b f).cb = s.cb := rfl
@[simp] theorem onMbx_ptRoot (s : State) (n b : Nat) (f : Mbx → Mbx) : (s.onMbx n b f).ptRoot = s.ptRoot := rfl
@[simp] theorem onMbx_net (s : State) (n b : Nat) (f : Mbx → Mbx) : (s.onMbx n b f).net = s.net := rfl
@[simp] theorem onMbx_pt (s : State) (n b : Nat) (f : Mbx → Mbx) : (s.onMbx n b f).pt = s.pt := rfl
@[simp] theorem onMbx_powered (s : State) (n b : Nat) (f : Mbx → Mbx) : (s.onMbx n b f).powered = s.powered := rfl
@[simp] theorem onMbx_panel (s : State) (n b : Nat) (f : Mbx → Mbx) : (s.onMbx n b f).panel = s.panel := rfl
@[simp] theorem onMbx_ports (s : State) (n b : Nat) (f : Mbx → Mbx) : (s.onMbx n b f).ports = s.ports := rfl
@[simp] theorem onMbx_ldBridge (s : State) (n b : Nat) (f : Mbx → Mbx) : (s.onMbx n b f).ldBridge = s.ldBridge := rfl
@[simp] theorem onMbx_ldBase (s : State) (n b : Nat) (f : Mbx → Mbx) : (s.onMbx n b f).ldBase = s.ldBase := rfl
@[simp] theorem onMbx_ldLen (s : State) (n b : Nat) (f : Mbx → Mbx) : (s.onMbx n b f).ldLen = s.ldLen := rfl
@[simp] theorem onMbx_roots (s : State) (n b : Nat) (f : Mbx → Mbx) : (s.onMbx n b f).roots = s.roots := rfl
@[simp] theorem onMbx_spdm (s : State) (n b : Nat) (f : Mbx → Mbx) : (s.onMbx n b f).spdm = s.spdm := rfl
@[simp] theorem onMbx_spdmOut (s : State) (n b : Nat) (f : Mbx → Mbx) : (s.onMbx n b f).spdmOut = s.spdmOut := rfl
@[simp] theorem onMbx_accReset (s : State) (n b : Nat) (f : Mbx → Mbx) : (s.onMbx n b f).accReset = s.accReset := rfl
@[simp] theorem onMbx_irqs (s : State) (n b : Nat) (f : Mbx → Mbx) : (s.onMbx n b f).irqs = s.irqs := rfl
@[simp] theorem onMbx_rsp (s : State) (n b : Nat) (f : Mbx → Mbx) : (s.onMbx n b f).rsp = s.rsp := rfl
@[simp] theorem onMbx_free (s : State) (n b : Nat) (f : Mbx → Mbx) : (s.onMbx n b f).free = s.free := rfl
@[simp] theorem onMbx_cur (s : State) (n b : Nat) (f : Mbx → Mbx) : (s.onMbx n b f).cur = s.cur := rfl
@[simp] theorem onMbx_agenda (s : State) (n b : Nat) (f : Mbx → Mbx) : (s.onMbx n b f).agenda = s.agenda := rfl

@[simp] theorem onHandler_mem (s : State) (n t : Nat) (f : Handler → Handler) : (s.onHandler n t f).mem = s.mem := rfl
@[simp] theorem onHandler_full (s : State) (n t : Nat) (f : Handler → Handler) : (s.onHandler n t f).full = s.full := rfl
@[simp] theorem onHandler_pois (s : State) (n t : Nat) (f : Handler → Handler) : (s.onHandler n t f).pois = s.pois := rfl
@[simp] theorem onHandler_sc (s : State) (n t : Nat) (f : Handler → Handler) : (s.onHandler n t f).sc = s.sc := rfl
@[simp] theorem onHandler_cb (s : State) (n t : Nat) (f : Handler → Handler) : (s.onHandler n t f).cb = s.cb := rfl
@[simp] theorem onHandler_ptRoot (s : State) (n t : Nat) (f : Handler → Handler) : (s.onHandler n t f).ptRoot = s.ptRoot := rfl
@[simp] theorem onHandler_net (s : State) (n t : Nat) (f : Handler → Handler) : (s.onHandler n t f).net = s.net := rfl
@[simp] theorem onHandler_pt (s : State) (n t : Nat) (f : Handler → Handler) : (s.onHandler n t f).pt = s.pt := rfl
@[simp] theorem onHandler_powered (s : State) (n t : Nat) (f : Handler → Handler) : (s.onHandler n t f).powered = s.powered := rfl
@[simp] theorem onHandler_panel (s : State) (n t : Nat) (f : Handler → Handler) : (s.onHandler n t f).panel = s.panel := rfl
@[simp] theorem onHandler_ports (s : State) (n t : Nat) (f : Handler → Handler) : (s.onHandler n t f).ports = s.ports := rfl
@[simp] theorem onHandler_ldBridge (s : State) (n t : Nat) (f : Handler → Handler) : (s.onHandler n t f).ldBridge = s.ldBridge := rfl
@[simp] theorem onHandler_ldBase (s : State) (n t : Nat) (f : Handler → Handler) : (s.onHandler n t f).ldBase = s.ldBase := rfl
@[simp] theorem onHandler_ldLen (s : State) (n t : Nat) (f : Handler → Handler) : (s.onHandler n t f).ldLen = s.ldLen := rfl
@[simp] theorem onHandler_roots (s : State) (n t : Nat) (f : Handler → Handler) : (s.onHandler n t f).roots = s.roots := rfl
@[simp] theorem onHandler_spdm (s : State) (n t : Nat) (f : Handler → Handler) : (s.onHandler n t f).spdm = s.spdm := rfl
@[simp] theorem onHandler_spdmOut (s : State) (n t : Nat) (f : Handler → Handler) : (s.onHandler n t f).spdmOut = s.spdmOut := rfl
@[simp] theorem onHandler_accReset (s : State) (n t : Nat) (f : Handler → Handler) : (s.onHandler n t f).accReset = s.accReset := rfl
@[simp] theorem onHandler_irqs (s : State) (n t : Nat) (f : Handler → Handler) : (s.onHandler n t f).irqs = s.irqs := rfl
@[simp] theorem onHandler_rsp (s : State) (n t : Nat) (f : Handler → Handler) : (s.onHandler n t f).rsp = s.rsp := rfl
@[simp] theorem onHandler_free (s : State) (n t : Nat) (f : Handler → Handler) : (s.onHandler n t f).free = s.free := rfl
@[simp] theorem onHandler_cur (s : State) (n t : Nat) (f : Handler → Handler) : (s.onHandler n t f).cur = s.cur := rfl
@[simp] theorem onHandler_agenda (s : State) (n t : Nat) (f : Handler → Handler) : (s.onHandler n t f).agenda = s.agenda := rfl

@[simp] theorem onContain_mem (s : State) (n : Nat) (f : Contain → Contain) : (s.onContain n f).mem = s.mem := rfl
@[simp] theorem onContain_full (s : State) (n : Nat) (f : Contain → Contain) : (s.onContain n f).full = s.full := rfl
@[simp] theorem onContain_pois (s : State) (n : Nat) (f : Contain → Contain) : (s.onContain n f).pois = s.pois := rfl
@[simp] theorem onContain_sc (s : State) (n : Nat) (f : Contain → Contain) : (s.onContain n f).sc = s.sc := rfl
@[simp] theorem onContain_cb (s : State) (n : Nat) (f : Contain → Contain) : (s.onContain n f).cb = s.cb := rfl
@[simp] theorem onContain_ptRoot (s : State) (n : Nat) (f : Contain → Contain) : (s.onContain n f).ptRoot = s.ptRoot := rfl
@[simp] theorem onContain_net (s : State) (n : Nat) (f : Contain → Contain) : (s.onContain n f).net = s.net := rfl
@[simp] theorem onContain_pt (s : State) (n : Nat) (f : Contain → Contain) : (s.onContain n f).pt = s.pt := rfl
@[simp] theorem onContain_powered (s : State) (n : Nat) (f : Contain → Contain) : (s.onContain n f).powered = s.powered := rfl
@[simp] theorem onContain_panel (s : State) (n : Nat) (f : Contain → Contain) : (s.onContain n f).panel = s.panel := rfl
@[simp] theorem onContain_ports (s : State) (n : Nat) (f : Contain → Contain) : (s.onContain n f).ports = s.ports := rfl
@[simp] theorem onContain_ldBridge (s : State) (n : Nat) (f : Contain → Contain) : (s.onContain n f).ldBridge = s.ldBridge := rfl
@[simp] theorem onContain_ldBase (s : State) (n : Nat) (f : Contain → Contain) : (s.onContain n f).ldBase = s.ldBase := rfl
@[simp] theorem onContain_ldLen (s : State) (n : Nat) (f : Contain → Contain) : (s.onContain n f).ldLen = s.ldLen := rfl
@[simp] theorem onContain_roots (s : State) (n : Nat) (f : Contain → Contain) : (s.onContain n f).roots = s.roots := rfl
@[simp] theorem onContain_spdm (s : State) (n : Nat) (f : Contain → Contain) : (s.onContain n f).spdm = s.spdm := rfl
@[simp] theorem onContain_spdmOut (s : State) (n : Nat) (f : Contain → Contain) : (s.onContain n f).spdmOut = s.spdmOut := rfl
@[simp] theorem onContain_accReset (s : State) (n : Nat) (f : Contain → Contain) : (s.onContain n f).accReset = s.accReset := rfl
@[simp] theorem onContain_irqs (s : State) (n : Nat) (f : Contain → Contain) : (s.onContain n f).irqs = s.irqs := rfl
@[simp] theorem onContain_rsp (s : State) (n : Nat) (f : Contain → Contain) : (s.onContain n f).rsp = s.rsp := rfl
@[simp] theorem onContain_free (s : State) (n : Nat) (f : Contain → Contain) : (s.onContain n f).free = s.free := rfl
@[simp] theorem onContain_cur (s : State) (n : Nat) (f : Contain → Contain) : (s.onContain n f).cur = s.cur := rfl
@[simp] theorem onContain_agenda (s : State) (n : Nat) (f : Contain → Contain) : (s.onContain n f).agenda = s.agenda := rfl

@[simp] theorem onCurSeg_mem (s : State) (f : Seg → Seg) : (s.onCurSeg f).mem = s.mem := rfl
@[simp] theorem onCurSeg_full (s : State) (f : Seg → Seg) : (s.onCurSeg f).full = s.full := rfl
@[simp] theorem onCurSeg_pois (s : State) (f : Seg → Seg) : (s.onCurSeg f).pois = s.pois := rfl
@[simp] theorem onCurSeg_sc (s : State) (f : Seg → Seg) : (s.onCurSeg f).sc = s.sc := rfl
@[simp] theorem onCurSeg_cb (s : State) (f : Seg → Seg) : (s.onCurSeg f).cb = s.cb := rfl
@[simp] theorem onCurSeg_ptRoot (s : State) (f : Seg → Seg) : (s.onCurSeg f).ptRoot = s.ptRoot := rfl
@[simp] theorem onCurSeg_net (s : State) (f : Seg → Seg) : (s.onCurSeg f).net = s.net := rfl
@[simp] theorem onCurSeg_pt (s : State) (f : Seg → Seg) : (s.onCurSeg f).pt = s.pt := rfl
@[simp] theorem onCurSeg_powered (s : State) (f : Seg → Seg) : (s.onCurSeg f).powered = s.powered := rfl
@[simp] theorem onCurSeg_panel (s : State) (f : Seg → Seg) : (s.onCurSeg f).panel = s.panel := rfl
@[simp] theorem onCurSeg_ports (s : State) (f : Seg → Seg) : (s.onCurSeg f).ports = s.ports := rfl
@[simp] theorem onCurSeg_ldBridge (s : State) (f : Seg → Seg) : (s.onCurSeg f).ldBridge = s.ldBridge := rfl
@[simp] theorem onCurSeg_ldBase (s : State) (f : Seg → Seg) : (s.onCurSeg f).ldBase = s.ldBase := rfl
@[simp] theorem onCurSeg_ldLen (s : State) (f : Seg → Seg) : (s.onCurSeg f).ldLen = s.ldLen := rfl
@[simp] theorem onCurSeg_roots (s : State) (f : Seg → Seg) : (s.onCurSeg f).roots = s.roots := rfl
@[simp] theorem onCurSeg_spdm (s : State) (f : Seg → Seg) : (s.onCurSeg f).spdm = s.spdm := rfl
@[simp] theorem onCurSeg_spdmOut (s : State) (f : Seg → Seg) : (s.onCurSeg f).spdmOut = s.spdmOut := rfl
@[simp] theorem onCurSeg_accReset (s : State) (f : Seg → Seg) : (s.onCurSeg f).accReset = s.accReset := rfl
@[simp] theorem onCurSeg_irqs (s : State) (f : Seg → Seg) : (s.onCurSeg f).irqs = s.irqs := rfl
@[simp] theorem onCurSeg_rsp (s : State) (f : Seg → Seg) : (s.onCurSeg f).rsp = s.rsp := rfl
@[simp] theorem onCurSeg_free (s : State) (f : Seg → Seg) : (s.onCurSeg f).free = s.free := rfl
@[simp] theorem onCurSeg_cur (s : State) (f : Seg → Seg) : (s.onCurSeg f).cur = s.cur := rfl
@[simp] theorem onCurSeg_agenda (s : State) (f : Seg → Seg) : (s.onCurSeg f).agenda = s.agenda := rfl

@[simp] theorem onCurElem_mem (s : State) (f : Elem → Elem) : (s.onCurElem f).mem = s.mem := rfl
@[simp] theorem onCurElem_full (s : State) (f : Elem → Elem) : (s.onCurElem f).full = s.full := rfl
@[simp] theorem onCurElem_pois (s : State) (f : Elem → Elem) : (s.onCurElem f).pois = s.pois := rfl
@[simp] theorem onCurElem_sc (s : State) (f : Elem → Elem) : (s.onCurElem f).sc = s.sc := rfl
@[simp] theorem onCurElem_cb (s : State) (f : Elem → Elem) : (s.onCurElem f).cb = s.cb := rfl
@[simp] theorem onCurElem_ptRoot (s : State) (f : Elem → Elem) : (s.onCurElem f).ptRoot = s.ptRoot := rfl
@[simp] theorem onCurElem_net (s : State) (f : Elem → Elem) : (s.onCurElem f).net = s.net := rfl
@[simp] theorem onCurElem_pt (s : State) (f : Elem → Elem) : (s.onCurElem f).pt = s.pt := rfl
@[simp] theorem onCurElem_powered (s : State) (f : Elem → Elem) : (s.onCurElem f).powered = s.powered := rfl
@[simp] theorem onCurElem_panel (s : State) (f : Elem → Elem) : (s.onCurElem f).panel = s.panel := rfl
@[simp] theorem onCurElem_ports (s : State) (f : Elem → Elem) : (s.onCurElem f).ports = s.ports := rfl
@[simp] theorem onCurElem_ldBridge (s : State) (f : Elem → Elem) : (s.onCurElem f).ldBridge = s.ldBridge := rfl
@[simp] theorem onCurElem_ldBase (s : State) (f : Elem → Elem) : (s.onCurElem f).ldBase = s.ldBase := rfl
@[simp] theorem onCurElem_ldLen (s : State) (f : Elem → Elem) : (s.onCurElem f).ldLen = s.ldLen := rfl
@[simp] theorem onCurElem_roots (s : State) (f : Elem → Elem) : (s.onCurElem f).roots = s.roots := rfl
@[simp] theorem onCurElem_spdm (s : State) (f : Elem → Elem) : (s.onCurElem f).spdm = s.spdm := rfl
@[simp] theorem onCurElem_spdmOut (s : State) (f : Elem → Elem) : (s.onCurElem f).spdmOut = s.spdmOut := rfl
@[simp] theorem onCurElem_accReset (s : State) (f : Elem → Elem) : (s.onCurElem f).accReset = s.accReset := rfl
@[simp] theorem onCurElem_irqs (s : State) (f : Elem → Elem) : (s.onCurElem f).irqs = s.irqs := rfl
@[simp] theorem onCurElem_rsp (s : State) (f : Elem → Elem) : (s.onCurElem f).rsp = s.rsp := rfl
@[simp] theorem onCurElem_free (s : State) (f : Elem → Elem) : (s.onCurElem f).free = s.free := rfl
@[simp] theorem onCurElem_cur (s : State) (f : Elem → Elem) : (s.onCurElem f).cur = s.cur := rfl
@[simp] theorem onCurElem_agenda (s : State) (f : Elem → Elem) : (s.onCurElem f).agenda = s.agenda := rfl

@[simp] theorem takeFree_mem (s : State) : (s.takeFree).mem = s.mem := rfl
@[simp] theorem takeFree_full (s : State) : (s.takeFree).full = s.full := rfl
@[simp] theorem takeFree_pois (s : State) : (s.takeFree).pois = s.pois := rfl
@[simp] theorem takeFree_sc (s : State) : (s.takeFree).sc = s.sc := rfl
@[simp] theorem takeFree_cb (s : State) : (s.takeFree).cb = s.cb := rfl
@[simp] theorem takeFree_ptRoot (s : State) : (s.takeFree).ptRoot = s.ptRoot := rfl
@[simp] theorem takeFree_isles (s : State) : (s.takeFree).isles = s.isles := rfl
@[simp] theorem takeFree_net (s : State) : (s.takeFree).net = s.net := rfl
@[simp] theorem takeFree_pt (s : State) : (s.takeFree).pt = s.pt := rfl
@[simp] theorem takeFree_powered (s : State) : (s.takeFree).powered = s.powered := rfl
@[simp] theorem takeFree_panel (s : State) : (s.takeFree).panel = s.panel := rfl
@[simp] theorem takeFree_ports (s : State) : (s.takeFree).ports = s.ports := rfl
@[simp] theorem takeFree_ldBridge (s : State) : (s.takeFree).ldBridge = s.ldBridge := rfl
@[simp] theorem takeFree_ldBase (s : State) : (s.takeFree).ldBase = s.ldBase := rfl
@[simp] theorem takeFree_ldLen (s : State) : (s.takeFree).ldLen = s.ldLen := rfl
@[simp] theorem takeFree_roots (s : State) : (s.takeFree).roots = s.roots := rfl
@[simp] theorem takeFree_spdm (s : State) : (s.takeFree).spdm = s.spdm := rfl
@[simp] theorem takeFree_spdmOut (s : State) : (s.takeFree).spdmOut = s.spdmOut := rfl
@[simp] theorem takeFree_accReset (s : State) : (s.takeFree).accReset = s.accReset := rfl
@[simp] theorem takeFree_irqs (s : State) : (s.takeFree).irqs = s.irqs := rfl
@[simp] theorem takeFree_rsp (s : State) : (s.takeFree).rsp = s.rsp := rfl
@[simp] theorem takeFree_cur (s : State) : (s.takeFree).cur = s.cur := rfl
@[simp] theorem takeFree_agenda (s : State) : (s.takeFree).agenda = s.agenda := rfl

@[simp] theorem setByte_full (s : State) (a : Nat) (v : Byte) : (s.setByte a v).full = s.full := rfl
@[simp] theorem setByte_pois (s : State) (a : Nat) (v : Byte) : (s.setByte a v).pois = s.pois := rfl
@[simp] theorem setByte_sc (s : State) (a : Nat) (v : Byte) : (s.setByte a v).sc = s.sc := rfl
@[simp] theorem setByte_cb (s : State) (a : Nat) (v : Byte) : (s.setByte a v).cb = s.cb := rfl
@[simp] theorem setByte_ptRoot (s : State) (a : Nat) (v : Byte) : (s.setByte a v).ptRoot = s.ptRoot := rfl
@[simp] theorem setByte_isles (s : State) (a : Nat) (v : Byte) : (s.setByte a v).isles = s.isles := rfl
@[simp] theorem setByte_net (s : State) (a : Nat) (v : Byte) : (s.setByte a v).net = s.net := rfl
@[simp] theorem setByte_pt (s : State) (a : Nat) (v : Byte) : (s.setByte a v).pt = s.pt := rfl
@[simp] theorem setByte_powered (s : State) (a : Nat) (v : Byte) : (s.setByte a v).powered = s.powered := rfl
@[simp] theorem setByte_panel (s : State) (a : Nat) (v : Byte) : (s.setByte a v).panel = s.panel := rfl
@[simp] theorem setByte_ports (s : State) (a : Nat) (v : Byte) : (s.setByte a v).ports = s.ports := rfl
@[simp] theorem setByte_ldBridge (s : State) (a : Nat) (v : Byte) : (s.setByte a v).ldBridge = s.ldBridge := rfl
@[simp] theorem setByte_ldBase (s : State) (a : Nat) (v : Byte) : (s.setByte a v).ldBase = s.ldBase := rfl
@[simp] theorem setByte_ldLen (s : State) (a : Nat) (v : Byte) : (s.setByte a v).ldLen = s.ldLen := rfl
@[simp] theorem setByte_roots (s : State) (a : Nat) (v : Byte) : (s.setByte a v).roots = s.roots := rfl
@[simp] theorem setByte_spdm (s : State) (a : Nat) (v : Byte) : (s.setByte a v).spdm = s.spdm := rfl
@[simp] theorem setByte_spdmOut (s : State) (a : Nat) (v : Byte) : (s.setByte a v).spdmOut = s.spdmOut := rfl
@[simp] theorem setByte_accReset (s : State) (a : Nat) (v : Byte) : (s.setByte a v).accReset = s.accReset := rfl
@[simp] theorem setByte_irqs (s : State) (a : Nat) (v : Byte) : (s.setByte a v).irqs = s.irqs := rfl
@[simp] theorem setByte_rsp (s : State) (a : Nat) (v : Byte) : (s.setByte a v).rsp = s.rsp := rfl
@[simp] theorem setByte_free (s : State) (a : Nat) (v : Byte) : (s.setByte a v).free = s.free := rfl
@[simp] theorem setByte_cur (s : State) (a : Nat) (v : Byte) : (s.setByte a v).cur = s.cur := rfl
@[simp] theorem setByte_agenda (s : State) (a : Nat) (v : Byte) : (s.setByte a v).agenda = s.agenda := rfl

@[simp] theorem setFull_mem (s : State) (g : Nat) : (s.setFull g).mem = s.mem := rfl
@[simp] theorem setFull_pois (s : State) (g : Nat) : (s.setFull g).pois = s.pois := rfl
@[simp] theorem setFull_sc (s : State) (g : Nat) : (s.setFull g).sc = s.sc := rfl
@[simp] theorem setFull_cb (s : State) (g : Nat) : (s.setFull g).cb = s.cb := rfl
@[simp] theorem setFull_ptRoot (s : State) (g : Nat) : (s.setFull g).ptRoot = s.ptRoot := rfl
@[simp] theorem setFull_isles (s : State) (g : Nat) : (s.setFull g).isles = s.isles := rfl
@[simp] theorem setFull_net (s : State) (g : Nat) : (s.setFull g).net = s.net := rfl
@[simp] theorem setFull_pt (s : State) (g : Nat) : (s.setFull g).pt = s.pt := rfl
@[simp] theorem setFull_powered (s : State) (g : Nat) : (s.setFull g).powered = s.powered := rfl
@[simp] theorem setFull_panel (s : State) (g : Nat) : (s.setFull g).panel = s.panel := rfl
@[simp] theorem setFull_ports (s : State) (g : Nat) : (s.setFull g).ports = s.ports := rfl
@[simp] theorem setFull_ldBridge (s : State) (g : Nat) : (s.setFull g).ldBridge = s.ldBridge := rfl
@[simp] theorem setFull_ldBase (s : State) (g : Nat) : (s.setFull g).ldBase = s.ldBase := rfl
@[simp] theorem setFull_ldLen (s : State) (g : Nat) : (s.setFull g).ldLen = s.ldLen := rfl
@[simp] theorem setFull_roots (s : State) (g : Nat) : (s.setFull g).roots = s.roots := rfl
@[simp] theorem setFull_spdm (s : State) (g : Nat) : (s.setFull g).spdm = s.spdm := rfl
@[simp] theorem setFull_spdmOut (s : State) (g : Nat) : (s.setFull g).spdmOut = s.spdmOut := rfl
@[simp] theorem setFull_accReset (s : State) (g : Nat) : (s.setFull g).accReset = s.accReset := rfl
@[simp] theorem setFull_irqs (s : State) (g : Nat) : (s.setFull g).irqs = s.irqs := rfl
@[simp] theorem setFull_rsp (s : State) (g : Nat) : (s.setFull g).rsp = s.rsp := rfl
@[simp] theorem setFull_free (s : State) (g : Nat) : (s.setFull g).free = s.free := rfl
@[simp] theorem setFull_cur (s : State) (g : Nat) : (s.setFull g).cur = s.cur := rfl
@[simp] theorem setFull_agenda (s : State) (g : Nat) : (s.setFull g).agenda = s.agenda := rfl

@[simp] theorem setEmpty_mem (s : State) (g : Nat) : (s.setEmpty g).mem = s.mem := rfl
@[simp] theorem setEmpty_pois (s : State) (g : Nat) : (s.setEmpty g).pois = s.pois := rfl
@[simp] theorem setEmpty_sc (s : State) (g : Nat) : (s.setEmpty g).sc = s.sc := rfl
@[simp] theorem setEmpty_cb (s : State) (g : Nat) : (s.setEmpty g).cb = s.cb := rfl
@[simp] theorem setEmpty_ptRoot (s : State) (g : Nat) : (s.setEmpty g).ptRoot = s.ptRoot := rfl
@[simp] theorem setEmpty_isles (s : State) (g : Nat) : (s.setEmpty g).isles = s.isles := rfl
@[simp] theorem setEmpty_net (s : State) (g : Nat) : (s.setEmpty g).net = s.net := rfl
@[simp] theorem setEmpty_pt (s : State) (g : Nat) : (s.setEmpty g).pt = s.pt := rfl
@[simp] theorem setEmpty_powered (s : State) (g : Nat) : (s.setEmpty g).powered = s.powered := rfl
@[simp] theorem setEmpty_panel (s : State) (g : Nat) : (s.setEmpty g).panel = s.panel := rfl
@[simp] theorem setEmpty_ports (s : State) (g : Nat) : (s.setEmpty g).ports = s.ports := rfl
@[simp] theorem setEmpty_ldBridge (s : State) (g : Nat) : (s.setEmpty g).ldBridge = s.ldBridge := rfl
@[simp] theorem setEmpty_ldBase (s : State) (g : Nat) : (s.setEmpty g).ldBase = s.ldBase := rfl
@[simp] theorem setEmpty_ldLen (s : State) (g : Nat) : (s.setEmpty g).ldLen = s.ldLen := rfl
@[simp] theorem setEmpty_roots (s : State) (g : Nat) : (s.setEmpty g).roots = s.roots := rfl
@[simp] theorem setEmpty_spdm (s : State) (g : Nat) : (s.setEmpty g).spdm = s.spdm := rfl
@[simp] theorem setEmpty_spdmOut (s : State) (g : Nat) : (s.setEmpty g).spdmOut = s.spdmOut := rfl
@[simp] theorem setEmpty_accReset (s : State) (g : Nat) : (s.setEmpty g).accReset = s.accReset := rfl
@[simp] theorem setEmpty_irqs (s : State) (g : Nat) : (s.setEmpty g).irqs = s.irqs := rfl
@[simp] theorem setEmpty_rsp (s : State) (g : Nat) : (s.setEmpty g).rsp = s.rsp := rfl
@[simp] theorem setEmpty_free (s : State) (g : Nat) : (s.setEmpty g).free = s.free := rfl
@[simp] theorem setEmpty_cur (s : State) (g : Nat) : (s.setEmpty g).cur = s.cur := rfl
@[simp] theorem setEmpty_agenda (s : State) (g : Nat) : (s.setEmpty g).agenda = s.agenda := rfl

@[simp] theorem charge_mem (s : State) (n t i x : Nat) : (s.charge n t i x).mem = s.mem := rfl
@[simp] theorem charge_full (s : State) (n t i x : Nat) : (s.charge n t i x).full = s.full := rfl
@[simp] theorem charge_pois (s : State) (n t i x : Nat) : (s.charge n t i x).pois = s.pois := rfl
@[simp] theorem charge_sc (s : State) (n t i x : Nat) : (s.charge n t i x).sc = s.sc := rfl
@[simp] theorem charge_cb (s : State) (n t i x : Nat) : (s.charge n t i x).cb = s.cb := rfl
@[simp] theorem charge_ptRoot (s : State) (n t i x : Nat) : (s.charge n t i x).ptRoot = s.ptRoot := rfl
@[simp] theorem charge_net (s : State) (n t i x : Nat) : (s.charge n t i x).net = s.net := rfl
@[simp] theorem charge_pt (s : State) (n t i x : Nat) : (s.charge n t i x).pt = s.pt := rfl
@[simp] theorem charge_powered (s : State) (n t i x : Nat) : (s.charge n t i x).powered = s.powered := rfl
@[simp] theorem charge_panel (s : State) (n t i x : Nat) : (s.charge n t i x).panel = s.panel := rfl
@[simp] theorem charge_ports (s : State) (n t i x : Nat) : (s.charge n t i x).ports = s.ports := rfl
@[simp] theorem charge_ldBridge (s : State) (n t i x : Nat) : (s.charge n t i x).ldBridge = s.ldBridge := rfl
@[simp] theorem charge_ldBase (s : State) (n t i x : Nat) : (s.charge n t i x).ldBase = s.ldBase := rfl
@[simp] theorem charge_ldLen (s : State) (n t i x : Nat) : (s.charge n t i x).ldLen = s.ldLen := rfl
@[simp] theorem charge_roots (s : State) (n t i x : Nat) : (s.charge n t i x).roots = s.roots := rfl
@[simp] theorem charge_spdm (s : State) (n t i x : Nat) : (s.charge n t i x).spdm = s.spdm := rfl
@[simp] theorem charge_spdmOut (s : State) (n t i x : Nat) : (s.charge n t i x).spdmOut = s.spdmOut := rfl
@[simp] theorem charge_accReset (s : State) (n t i x : Nat) : (s.charge n t i x).accReset = s.accReset := rfl
@[simp] theorem charge_irqs (s : State) (n t i x : Nat) : (s.charge n t i x).irqs = s.irqs := rfl
@[simp] theorem charge_rsp (s : State) (n t i x : Nat) : (s.charge n t i x).rsp = s.rsp := rfl
@[simp] theorem charge_free (s : State) (n t i x : Nat) : (s.charge n t i x).free = s.free := rfl
@[simp] theorem charge_cur (s : State) (n t i x : Nat) : (s.charge n t i x).cur = s.cur := rfl
@[simp] theorem charge_agenda (s : State) (n t i x : Nat) : (s.charge n t i x).agenda = s.agenda := rfl

/-! ## Isle: one field, one update -/

@[simp] theorem isle_onRing_no (i : Isle) (k : Nat) (f : Ring → Ring) : (i.onRing k f).no = i.no := rfl
@[simp] theorem isle_onRing_up (i : Isle) (k : Nat) (f : Ring → Ring) : (i.onRing k f).up = i.up := rfl
@[simp] theorem isle_onRing_queues (i : Isle) (k : Nat) (f : Ring → Ring) : (i.onRing k f).queues = i.queues := rfl
@[simp] theorem isle_onRing_hb (i : Isle) (k : Nat) (f : Ring → Ring) : (i.onRing k f).hb = i.hb := rfl
@[simp] theorem isle_onRing_ferry (i : Isle) (k : Nat) (f : Ring → Ring) : (i.onRing k f).ferry = i.ferry := rfl
@[simp] theorem isle_onRing_ops (i : Isle) (k : Nat) (f : Ring → Ring) : (i.onRing k f).ops = i.ops := rfl
@[simp] theorem isle_onRing_opGens (i : Isle) (k : Nat) (f : Ring → Ring) : (i.onRing k f).opGens = i.opGens := rfl
@[simp] theorem isle_onRing_comms (i : Isle) (k : Nat) (f : Ring → Ring) : (i.onRing k f).comms = i.comms := rfl
@[simp] theorem isle_onRing_colTout (i : Isle) (k : Nat) (f : Ring → Ring) : (i.onRing k f).colTout = i.colTout := rfl
@[simp] theorem isle_onRing_vchg (i : Isle) (k : Nat) (f : Ring → Ring) : (i.onRing k f).vchg = i.vchg := rfl
@[simp] theorem isle_onRing_pview (i : Isle) (k : Nat) (f : Ring → Ring) : (i.onRing k f).pview = i.pview := rfl
@[simp] theorem isle_onRing_sview (i : Isle) (k : Nat) (f : Ring → Ring) : (i.onRing k f).sview = i.sview := rfl
@[simp] theorem isle_onRing_harts (i : Isle) (k : Nat) (f : Ring → Ring) : (i.onRing k f).harts = i.harts := rfl
@[simp] theorem isle_onRing_sk (i : Isle) (k : Nat) (f : Ring → Ring) : (i.onRing k f).sk = i.sk := rfl
@[simp] theorem isle_onRing_mbx (i : Isle) (k : Nat) (f : Ring → Ring) : (i.onRing k f).mbx = i.mbx := rfl
@[simp] theorem isle_onRing_handlers (i : Isle) (k : Nat) (f : Ring → Ring) : (i.onRing k f).handlers = i.handlers := rfl
@[simp] theorem isle_onRing_cont (i : Isle) (k : Nat) (f : Ring → Ring) : (i.onRing k f).cont = i.cont := rfl
@[simp] theorem isle_onRing_trace (i : Isle) (k : Nat) (f : Ring → Ring) : (i.onRing k f).trace = i.trace := rfl
@[simp] theorem isle_onRing_bps (i : Isle) (k : Nat) (f : Ring → Ring) : (i.onRing k f).bps = i.bps := rfl
@[simp] theorem isle_onRing_dump (i : Isle) (k : Nat) (f : Ring → Ring) : (i.onRing k f).dump = i.dump := rfl
@[simp] theorem isle_onRing_err (i : Isle) (k : Nat) (f : Ring → Ring) : (i.onRing k f).err = i.err := rfl
@[simp] theorem isle_onRing_mr (i : Isle) (k : Nat) (f : Ring → Ring) : (i.onRing k f).mr = i.mr := rfl
@[simp] theorem isle_onRing_mrext (i : Isle) (k : Nat) (f : Ring → Ring) : (i.onRing k f).mrext = i.mrext := rfl
@[simp] theorem isle_onRing_acct (i : Isle) (k : Nat) (f : Ring → Ring) : (i.onRing k f).acct = i.acct := rfl
@[simp] theorem isle_onRing_throt (i : Isle) (k : Nat) (f : Ring → Ring) : (i.onRing k f).throt = i.throt := rfl
@[simp] theorem isle_onRing_throtCnt (i : Isle) (k : Nat) (f : Ring → Ring) : (i.onRing k f).throtCnt = i.throtCnt := rfl
@[simp] theorem isle_onRing_mon (i : Isle) (k : Nat) (f : Ring → Ring) : (i.onRing k f).mon = i.mon := rfl
@[simp] theorem isle_onRing_tested (i : Isle) (k : Nat) (f : Ring → Ring) : (i.onRing k f).tested = i.tested := rfl
@[simp] theorem isle_onRing_dmi (i : Isle) (k : Nat) (f : Ring → Ring) : (i.onRing k f).dmi = i.dmi := rfl

@[simp] theorem isle_onHarbour_no (i : Isle) (f : Harbour → Harbour) : (i.onHarbour f).no = i.no := rfl
@[simp] theorem isle_onHarbour_up (i : Isle) (f : Harbour → Harbour) : (i.onHarbour f).up = i.up := rfl
@[simp] theorem isle_onHarbour_rings (i : Isle) (f : Harbour → Harbour) : (i.onHarbour f).rings = i.rings := rfl
@[simp] theorem isle_onHarbour_queues (i : Isle) (f : Harbour → Harbour) : (i.onHarbour f).queues = i.queues := rfl
@[simp] theorem isle_onHarbour_ferry (i : Isle) (f : Harbour → Harbour) : (i.onHarbour f).ferry = i.ferry := rfl
@[simp] theorem isle_onHarbour_ops (i : Isle) (f : Harbour → Harbour) : (i.onHarbour f).ops = i.ops := rfl
@[simp] theorem isle_onHarbour_opGens (i : Isle) (f : Harbour → Harbour) : (i.onHarbour f).opGens = i.opGens := rfl
@[simp] theorem isle_onHarbour_comms (i : Isle) (f : Harbour → Harbour) : (i.onHarbour f).comms = i.comms := rfl
@[simp] theorem isle_onHarbour_colTout (i : Isle) (f : Harbour → Harbour) : (i.onHarbour f).colTout = i.colTout := rfl
@[simp] theorem isle_onHarbour_vchg (i : Isle) (f : Harbour → Harbour) : (i.onHarbour f).vchg = i.vchg := rfl
@[simp] theorem isle_onHarbour_pview (i : Isle) (f : Harbour → Harbour) : (i.onHarbour f).pview = i.pview := rfl
@[simp] theorem isle_onHarbour_sview (i : Isle) (f : Harbour → Harbour) : (i.onHarbour f).sview = i.sview := rfl
@[simp] theorem isle_onHarbour_harts (i : Isle) (f : Harbour → Harbour) : (i.onHarbour f).harts = i.harts := rfl
@[simp] theorem isle_onHarbour_sk (i : Isle) (f : Harbour → Harbour) : (i.onHarbour f).sk = i.sk := rfl
@[simp] theorem isle_onHarbour_mbx (i : Isle) (f : Harbour → Harbour) : (i.onHarbour f).mbx = i.mbx := rfl
@[simp] theorem isle_onHarbour_handlers (i : Isle) (f : Harbour → Harbour) : (i.onHarbour f).handlers = i.handlers := rfl
@[simp] theorem isle_onHarbour_cont (i : Isle) (f : Harbour → Harbour) : (i.onHarbour f).cont = i.cont := rfl
@[simp] theorem isle_onHarbour_trace (i : Isle) (f : Harbour → Harbour) : (i.onHarbour f).trace = i.trace := rfl
@[simp] theorem isle_onHarbour_bps (i : Isle) (f : Harbour → Harbour) : (i.onHarbour f).bps = i.bps := rfl
@[simp] theorem isle_onHarbour_dump (i : Isle) (f : Harbour → Harbour) : (i.onHarbour f).dump = i.dump := rfl
@[simp] theorem isle_onHarbour_err (i : Isle) (f : Harbour → Harbour) : (i.onHarbour f).err = i.err := rfl
@[simp] theorem isle_onHarbour_mr (i : Isle) (f : Harbour → Harbour) : (i.onHarbour f).mr = i.mr := rfl
@[simp] theorem isle_onHarbour_mrext (i : Isle) (f : Harbour → Harbour) : (i.onHarbour f).mrext = i.mrext := rfl
@[simp] theorem isle_onHarbour_acct (i : Isle) (f : Harbour → Harbour) : (i.onHarbour f).acct = i.acct := rfl
@[simp] theorem isle_onHarbour_throt (i : Isle) (f : Harbour → Harbour) : (i.onHarbour f).throt = i.throt := rfl
@[simp] theorem isle_onHarbour_throtCnt (i : Isle) (f : Harbour → Harbour) : (i.onHarbour f).throtCnt = i.throtCnt := rfl
@[simp] theorem isle_onHarbour_mon (i : Isle) (f : Harbour → Harbour) : (i.onHarbour f).mon = i.mon := rfl
@[simp] theorem isle_onHarbour_tested (i : Isle) (f : Harbour → Harbour) : (i.onHarbour f).tested = i.tested := rfl
@[simp] theorem isle_onHarbour_dmi (i : Isle) (f : Harbour → Harbour) : (i.onHarbour f).dmi = i.dmi := rfl

@[simp] theorem seg_onLive_id (g : Seg) (f : Core → Core) : (g.onLive f).id = g.id := rfl
@[simp] theorem seg_onLive_task (g : Seg) (f : Core → Core) : (g.onLive f).task = g.task := rfl
@[simp] theorem seg_onLive_tenant (g : Seg) (f : Core → Core) : (g.onLive f).tenant = g.tenant := rfl
@[simp] theorem seg_onLive_image (g : Seg) (f : Core → Core) : (g.onLive f).image = g.image := rfl
@[simp] theorem seg_onLive_regions (g : Seg) (f : Core → Core) : (g.onLive f).regions = g.regions := rfl
@[simp] theorem seg_onLive_extents (g : Seg) (f : Core → Core) : (g.onLive f).extents = g.extents := rfl
@[simp] theorem seg_onLive_start (g : Seg) (f : Core → Core) : (g.onLive f).start = g.start := rfl
@[simp] theorem seg_onLive_nextVs (g : Seg) (f : Core → Core) : (g.onLive f).nextVs = g.nextVs := rfl
@[simp] theorem seg_onLive_nextRun (g : Seg) (f : Core → Core) : (g.onLive f).nextRun = g.nextRun := rfl
@[simp] theorem seg_onLive_sck (g : Seg) (f : Core → Core) : (g.onLive f).sck = g.sck := rfl
@[simp] theorem seg_onLive_wck (g : Seg) (f : Core → Core) : (g.onLive f).wck = g.wck := rfl
@[simp] theorem seg_onLive_stall (g : Seg) (f : Core → Core) : (g.onLive f).stall = g.stall := rfl
@[simp] theorem seg_onLive_no (g : Seg) (f : Core → Core) : (g.onLive f).no = g.no := rfl
@[simp] theorem seg_onLive_runs (g : Seg) (f : Core → Core) : (g.onLive f).runs = g.runs := rfl
@[simp] theorem seg_onLive_runsDealt (g : Seg) (f : Core → Core) : (g.onLive f).runsDealt = g.runsDealt := rfl
@[simp] theorem seg_onLive_ports (g : Seg) (f : Core → Core) : (g.onLive f).ports = g.ports := rfl
@[simp] theorem seg_onLive_noMore (g : Seg) (f : Core → Core) : (g.onLive f).noMore = g.noMore := rfl
@[simp] theorem seg_onLive_dealtAll (g : Seg) (f : Core → Core) : (g.onLive f).dealtAll = g.dealtAll := rfl
@[simp] theorem seg_onLive_joined (g : Seg) (f : Core → Core) : (g.onLive f).joined = g.joined := rfl
@[simp] theorem seg_onLive_frz (g : Seg) (f : Core → Core) : (g.onLive f).frz = g.frz := rfl
@[simp] theorem seg_onLive_recs (g : Seg) (f : Core → Core) : (g.onLive f).recs = g.recs := rfl
@[simp] theorem seg_onLive_stopped (g : Seg) (f : Core → Core) : (g.onLive f).stopped = g.stopped := rfl
@[simp] theorem seg_onLive_cmt (g : Seg) (f : Core → Core) : (g.onLive f).cmt = g.cmt := rfl
@[simp] theorem seg_onLive_sopend (g : Seg) (f : Core → Core) : (g.onLive f).sopend = g.sopend := rfl
@[simp] theorem seg_onLive_halted (g : Seg) (f : Core → Core) : (g.onLive f).halted = g.halted := rfl
@[simp] theorem seg_onLive_cmd (g : Seg) (f : Core → Core) : (g.onLive f).cmd = g.cmd := rfl
@[simp] theorem seg_onLive_kind (g : Seg) (f : Core → Core) : (g.onLive f).kind = g.kind := rfl
@[simp] theorem seg_onLive_fck (g : Seg) (f : Core → Core) : (g.onLive f).fck = g.fck := rfl
@[simp] theorem seg_onLive_dck (g : Seg) (f : Core → Core) : (g.onLive f).dck = g.dck := rfl
@[simp] theorem seg_onLive_nrec (g : Seg) (f : Core → Core) : (g.onLive f).nrec = g.nrec := rfl
@[simp] theorem seg_onLive_first (g : Seg) (f : Core → Core) : (g.onLive f).first = g.first := rfl
@[simp] theorem seg_onLive_ackP (g : Seg) (f : Core → Core) : (g.onLive f).ackP = g.ackP := rfl
@[simp] theorem seg_onLive_ackS (g : Seg) (f : Core → Core) : (g.onLive f).ackS = g.ackS := rfl
@[simp] theorem seg_onLive_subP (g : Seg) (f : Core → Core) : (g.onLive f).subP = g.subP := rfl
@[simp] theorem seg_onLive_subS (g : Seg) (f : Core → Core) : (g.onLive f).subS = g.subS := rfl
@[simp] theorem seg_onLive_origin (g : Seg) (f : Core → Core) : (g.onLive f).origin = g.origin := rfl
@[simp] theorem seg_onLive_attempts (g : Seg) (f : Core → Core) : (g.onLive f).attempts = g.attempts := rfl
@[simp] theorem seg_onLive_attemptRun (g : Seg) (f : Core → Core) : (g.onLive f).attemptRun = g.attemptRun := rfl
@[simp] theorem seg_onLive_tainted (g : Seg) (f : Core → Core) : (g.onLive f).tainted = g.tainted := rfl
@[simp] theorem seg_onLive_replay (g : Seg) (f : Core → Core) : (g.onLive f).replay = g.replay := rfl
@[simp] theorem seg_onLive_replaying (g : Seg) (f : Core → Core) : (g.onLive f).replaying = g.replaying := rfl
@[simp] theorem seg_onLive_srecs (g : Seg) (f : Core → Core) : (g.onLive f).srecs = g.srecs := rfl
@[simp] theorem seg_onLive_placedPt (g : Seg) (f : Core → Core) : (g.onLive f).placedPt = g.placedPt := rfl
@[simp] theorem seg_onLive_relatchAt (g : Seg) (f : Core → Core) : (g.onLive f).relatchAt = g.relatchAt := rfl
@[simp] theorem seg_onLive_released (g : Seg) (f : Core → Core) : (g.onLive f).released = g.released := rfl
@[simp] theorem seg_onLive_halt (g : Seg) (f : Core → Core) : (g.onLive f).halt = g.halt := rfl
@[simp] theorem seg_onLive_cutNo (g : Seg) (f : Core → Core) : (g.onLive f).cutNo = g.cutNo := rfl
@[simp] theorem seg_onLive_stopPt (g : Seg) (f : Core → Core) : (g.onLive f).stopPt = g.stopPt := rfl

@[simp] theorem seg_onElem_id (g : Seg) (p e : Nat) (f : Elem → Elem) : (g.onElem p e f).id = g.id := rfl
@[simp] theorem seg_onElem_task (g : Seg) (p e : Nat) (f : Elem → Elem) : (g.onElem p e f).task = g.task := rfl
@[simp] theorem seg_onElem_tenant (g : Seg) (p e : Nat) (f : Elem → Elem) : (g.onElem p e f).tenant = g.tenant := rfl
@[simp] theorem seg_onElem_image (g : Seg) (p e : Nat) (f : Elem → Elem) : (g.onElem p e f).image = g.image := rfl
@[simp] theorem seg_onElem_regions (g : Seg) (p e : Nat) (f : Elem → Elem) : (g.onElem p e f).regions = g.regions := rfl
@[simp] theorem seg_onElem_extents (g : Seg) (p e : Nat) (f : Elem → Elem) : (g.onElem p e f).extents = g.extents := rfl
@[simp] theorem seg_onElem_start (g : Seg) (p e : Nat) (f : Elem → Elem) : (g.onElem p e f).start = g.start := rfl
@[simp] theorem seg_onElem_nextVs (g : Seg) (p e : Nat) (f : Elem → Elem) : (g.onElem p e f).nextVs = g.nextVs := rfl
@[simp] theorem seg_onElem_nextRun (g : Seg) (p e : Nat) (f : Elem → Elem) : (g.onElem p e f).nextRun = g.nextRun := rfl
@[simp] theorem seg_onElem_sck (g : Seg) (p e : Nat) (f : Elem → Elem) : (g.onElem p e f).sck = g.sck := rfl
@[simp] theorem seg_onElem_wck (g : Seg) (p e : Nat) (f : Elem → Elem) : (g.onElem p e f).wck = g.wck := rfl
@[simp] theorem seg_onElem_stall (g : Seg) (p e : Nat) (f : Elem → Elem) : (g.onElem p e f).stall = g.stall := rfl
@[simp] theorem seg_onElem_no (g : Seg) (p e : Nat) (f : Elem → Elem) : (g.onElem p e f).no = g.no := rfl
@[simp] theorem seg_onElem_runs (g : Seg) (p e : Nat) (f : Elem → Elem) : (g.onElem p e f).runs = g.runs := rfl
@[simp] theorem seg_onElem_runsDealt (g : Seg) (p e : Nat) (f : Elem → Elem) : (g.onElem p e f).runsDealt = g.runsDealt := rfl
@[simp] theorem seg_onElem_ports (g : Seg) (p e : Nat) (f : Elem → Elem) : (g.onElem p e f).ports = g.ports := rfl
@[simp] theorem seg_onElem_noMore (g : Seg) (p e : Nat) (f : Elem → Elem) : (g.onElem p e f).noMore = g.noMore := rfl
@[simp] theorem seg_onElem_dealtAll (g : Seg) (p e : Nat) (f : Elem → Elem) : (g.onElem p e f).dealtAll = g.dealtAll := rfl
@[simp] theorem seg_onElem_joined (g : Seg) (p e : Nat) (f : Elem → Elem) : (g.onElem p e f).joined = g.joined := rfl
@[simp] theorem seg_onElem_frz (g : Seg) (p e : Nat) (f : Elem → Elem) : (g.onElem p e f).frz = g.frz := rfl
@[simp] theorem seg_onElem_recs (g : Seg) (p e : Nat) (f : Elem → Elem) : (g.onElem p e f).recs = g.recs := rfl
@[simp] theorem seg_onElem_stopped (g : Seg) (p e : Nat) (f : Elem → Elem) : (g.onElem p e f).stopped = g.stopped := rfl
@[simp] theorem seg_onElem_cmt (g : Seg) (p e : Nat) (f : Elem → Elem) : (g.onElem p e f).cmt = g.cmt := rfl
@[simp] theorem seg_onElem_sopend (g : Seg) (p e : Nat) (f : Elem → Elem) : (g.onElem p e f).sopend = g.sopend := rfl
@[simp] theorem seg_onElem_halted (g : Seg) (p e : Nat) (f : Elem → Elem) : (g.onElem p e f).halted = g.halted := rfl
@[simp] theorem seg_onElem_cmd (g : Seg) (p e : Nat) (f : Elem → Elem) : (g.onElem p e f).cmd = g.cmd := rfl
@[simp] theorem seg_onElem_kind (g : Seg) (p e : Nat) (f : Elem → Elem) : (g.onElem p e f).kind = g.kind := rfl
@[simp] theorem seg_onElem_fck (g : Seg) (p e : Nat) (f : Elem → Elem) : (g.onElem p e f).fck = g.fck := rfl
@[simp] theorem seg_onElem_dck (g : Seg) (p e : Nat) (f : Elem → Elem) : (g.onElem p e f).dck = g.dck := rfl
@[simp] theorem seg_onElem_nrec (g : Seg) (p e : Nat) (f : Elem → Elem) : (g.onElem p e f).nrec = g.nrec := rfl
@[simp] theorem seg_onElem_first (g : Seg) (p e : Nat) (f : Elem → Elem) : (g.onElem p e f).first = g.first := rfl
@[simp] theorem seg_onElem_ackP (g : Seg) (p e : Nat) (f : Elem → Elem) : (g.onElem p e f).ackP = g.ackP := rfl
@[simp] theorem seg_onElem_ackS (g : Seg) (p e : Nat) (f : Elem → Elem) : (g.onElem p e f).ackS = g.ackS := rfl
@[simp] theorem seg_onElem_subP (g : Seg) (p e : Nat) (f : Elem → Elem) : (g.onElem p e f).subP = g.subP := rfl
@[simp] theorem seg_onElem_subS (g : Seg) (p e : Nat) (f : Elem → Elem) : (g.onElem p e f).subS = g.subS := rfl
@[simp] theorem seg_onElem_origin (g : Seg) (p e : Nat) (f : Elem → Elem) : (g.onElem p e f).origin = g.origin := rfl
@[simp] theorem seg_onElem_attempts (g : Seg) (p e : Nat) (f : Elem → Elem) : (g.onElem p e f).attempts = g.attempts := rfl
@[simp] theorem seg_onElem_attemptRun (g : Seg) (p e : Nat) (f : Elem → Elem) : (g.onElem p e f).attemptRun = g.attemptRun := rfl
@[simp] theorem seg_onElem_tainted (g : Seg) (p e : Nat) (f : Elem → Elem) : (g.onElem p e f).tainted = g.tainted := rfl
@[simp] theorem seg_onElem_replay (g : Seg) (p e : Nat) (f : Elem → Elem) : (g.onElem p e f).replay = g.replay := rfl
@[simp] theorem seg_onElem_replaying (g : Seg) (p e : Nat) (f : Elem → Elem) : (g.onElem p e f).replaying = g.replaying := rfl
@[simp] theorem seg_onElem_srecs (g : Seg) (p e : Nat) (f : Elem → Elem) : (g.onElem p e f).srecs = g.srecs := rfl
@[simp] theorem seg_onElem_placedPt (g : Seg) (p e : Nat) (f : Elem → Elem) : (g.onElem p e f).placedPt = g.placedPt := rfl
@[simp] theorem seg_onElem_relatchAt (g : Seg) (p e : Nat) (f : Elem → Elem) : (g.onElem p e f).relatchAt = g.relatchAt := rfl
@[simp] theorem seg_onElem_released (g : Seg) (p e : Nat) (f : Elem → Elem) : (g.onElem p e f).released = g.released := rfl
@[simp] theorem seg_onElem_halt (g : Seg) (p e : Nat) (f : Elem → Elem) : (g.onElem p e f).halt = g.halt := rfl
@[simp] theorem seg_onElem_cutNo (g : Seg) (p e : Nat) (f : Elem → Elem) : (g.onElem p e f).cutNo = g.cutNo := rfl
@[simp] theorem seg_onElem_stopPt (g : Seg) (p e : Nat) (f : Elem → Elem) : (g.onElem p e f).stopPt = g.stopPt := rfl

@[simp] theorem seg_onWharf_id (g : Seg) (p : Nat) (f : Wharf → Wharf) : (g.onWharf p f).id = g.id := rfl
@[simp] theorem seg_onWharf_task (g : Seg) (p : Nat) (f : Wharf → Wharf) : (g.onWharf p f).task = g.task := rfl
@[simp] theorem seg_onWharf_tenant (g : Seg) (p : Nat) (f : Wharf → Wharf) : (g.onWharf p f).tenant = g.tenant := rfl
@[simp] theorem seg_onWharf_image (g : Seg) (p : Nat) (f : Wharf → Wharf) : (g.onWharf p f).image = g.image := rfl
@[simp] theorem seg_onWharf_regions (g : Seg) (p : Nat) (f : Wharf → Wharf) : (g.onWharf p f).regions = g.regions := rfl
@[simp] theorem seg_onWharf_extents (g : Seg) (p : Nat) (f : Wharf → Wharf) : (g.onWharf p f).extents = g.extents := rfl
@[simp] theorem seg_onWharf_start (g : Seg) (p : Nat) (f : Wharf → Wharf) : (g.onWharf p f).start = g.start := rfl
@[simp] theorem seg_onWharf_nextVs (g : Seg) (p : Nat) (f : Wharf → Wharf) : (g.onWharf p f).nextVs = g.nextVs := rfl
@[simp] theorem seg_onWharf_nextRun (g : Seg) (p : Nat) (f : Wharf → Wharf) : (g.onWharf p f).nextRun = g.nextRun := rfl
@[simp] theorem seg_onWharf_sck (g : Seg) (p : Nat) (f : Wharf → Wharf) : (g.onWharf p f).sck = g.sck := rfl
@[simp] theorem seg_onWharf_wck (g : Seg) (p : Nat) (f : Wharf → Wharf) : (g.onWharf p f).wck = g.wck := rfl
@[simp] theorem seg_onWharf_stall (g : Seg) (p : Nat) (f : Wharf → Wharf) : (g.onWharf p f).stall = g.stall := rfl
@[simp] theorem seg_onWharf_no (g : Seg) (p : Nat) (f : Wharf → Wharf) : (g.onWharf p f).no = g.no := rfl
@[simp] theorem seg_onWharf_runs (g : Seg) (p : Nat) (f : Wharf → Wharf) : (g.onWharf p f).runs = g.runs := rfl
@[simp] theorem seg_onWharf_runsDealt (g : Seg) (p : Nat) (f : Wharf → Wharf) : (g.onWharf p f).runsDealt = g.runsDealt := rfl
@[simp] theorem seg_onWharf_ports (g : Seg) (p : Nat) (f : Wharf → Wharf) : (g.onWharf p f).ports = g.ports := rfl
@[simp] theorem seg_onWharf_noMore (g : Seg) (p : Nat) (f : Wharf → Wharf) : (g.onWharf p f).noMore = g.noMore := rfl
@[simp] theorem seg_onWharf_dealtAll (g : Seg) (p : Nat) (f : Wharf → Wharf) : (g.onWharf p f).dealtAll = g.dealtAll := rfl
@[simp] theorem seg_onWharf_joined (g : Seg) (p : Nat) (f : Wharf → Wharf) : (g.onWharf p f).joined = g.joined := rfl
@[simp] theorem seg_onWharf_frz (g : Seg) (p : Nat) (f : Wharf → Wharf) : (g.onWharf p f).frz = g.frz := rfl
@[simp] theorem seg_onWharf_recs (g : Seg) (p : Nat) (f : Wharf → Wharf) : (g.onWharf p f).recs = g.recs := rfl
@[simp] theorem seg_onWharf_stopped (g : Seg) (p : Nat) (f : Wharf → Wharf) : (g.onWharf p f).stopped = g.stopped := rfl
@[simp] theorem seg_onWharf_cmt (g : Seg) (p : Nat) (f : Wharf → Wharf) : (g.onWharf p f).cmt = g.cmt := rfl
@[simp] theorem seg_onWharf_sopend (g : Seg) (p : Nat) (f : Wharf → Wharf) : (g.onWharf p f).sopend = g.sopend := rfl
@[simp] theorem seg_onWharf_halted (g : Seg) (p : Nat) (f : Wharf → Wharf) : (g.onWharf p f).halted = g.halted := rfl
@[simp] theorem seg_onWharf_cmd (g : Seg) (p : Nat) (f : Wharf → Wharf) : (g.onWharf p f).cmd = g.cmd := rfl
@[simp] theorem seg_onWharf_kind (g : Seg) (p : Nat) (f : Wharf → Wharf) : (g.onWharf p f).kind = g.kind := rfl
@[simp] theorem seg_onWharf_fck (g : Seg) (p : Nat) (f : Wharf → Wharf) : (g.onWharf p f).fck = g.fck := rfl
@[simp] theorem seg_onWharf_dck (g : Seg) (p : Nat) (f : Wharf → Wharf) : (g.onWharf p f).dck = g.dck := rfl
@[simp] theorem seg_onWharf_nrec (g : Seg) (p : Nat) (f : Wharf → Wharf) : (g.onWharf p f).nrec = g.nrec := rfl
@[simp] theorem seg_onWharf_first (g : Seg) (p : Nat) (f : Wharf → Wharf) : (g.onWharf p f).first = g.first := rfl
@[simp] theorem seg_onWharf_ackP (g : Seg) (p : Nat) (f : Wharf → Wharf) : (g.onWharf p f).ackP = g.ackP := rfl
@[simp] theorem seg_onWharf_ackS (g : Seg) (p : Nat) (f : Wharf → Wharf) : (g.onWharf p f).ackS = g.ackS := rfl
@[simp] theorem seg_onWharf_subP (g : Seg) (p : Nat) (f : Wharf → Wharf) : (g.onWharf p f).subP = g.subP := rfl
@[simp] theorem seg_onWharf_subS (g : Seg) (p : Nat) (f : Wharf → Wharf) : (g.onWharf p f).subS = g.subS := rfl
@[simp] theorem seg_onWharf_origin (g : Seg) (p : Nat) (f : Wharf → Wharf) : (g.onWharf p f).origin = g.origin := rfl
@[simp] theorem seg_onWharf_attempts (g : Seg) (p : Nat) (f : Wharf → Wharf) : (g.onWharf p f).attempts = g.attempts := rfl
@[simp] theorem seg_onWharf_attemptRun (g : Seg) (p : Nat) (f : Wharf → Wharf) : (g.onWharf p f).attemptRun = g.attemptRun := rfl
@[simp] theorem seg_onWharf_tainted (g : Seg) (p : Nat) (f : Wharf → Wharf) : (g.onWharf p f).tainted = g.tainted := rfl
@[simp] theorem seg_onWharf_replay (g : Seg) (p : Nat) (f : Wharf → Wharf) : (g.onWharf p f).replay = g.replay := rfl
@[simp] theorem seg_onWharf_replaying (g : Seg) (p : Nat) (f : Wharf → Wharf) : (g.onWharf p f).replaying = g.replaying := rfl
@[simp] theorem seg_onWharf_srecs (g : Seg) (p : Nat) (f : Wharf → Wharf) : (g.onWharf p f).srecs = g.srecs := rfl
@[simp] theorem seg_onWharf_placedPt (g : Seg) (p : Nat) (f : Wharf → Wharf) : (g.onWharf p f).placedPt = g.placedPt := rfl
@[simp] theorem seg_onWharf_relatchAt (g : Seg) (p : Nat) (f : Wharf → Wharf) : (g.onWharf p f).relatchAt = g.relatchAt := rfl
@[simp] theorem seg_onWharf_released (g : Seg) (p : Nat) (f : Wharf → Wharf) : (g.onWharf p f).released = g.released := rfl
@[simp] theorem seg_onWharf_halt (g : Seg) (p : Nat) (f : Wharf → Wharf) : (g.onWharf p f).halt = g.halt := rfl
@[simp] theorem seg_onWharf_cutNo (g : Seg) (p : Nat) (f : Wharf → Wharf) : (g.onWharf p f).cutNo = g.cutNo := rfl
@[simp] theorem seg_onWharf_stopPt (g : Seg) (p : Nat) (f : Wharf → Wharf) : (g.onWharf p f).stopPt = g.stopPt := rfl

/-! ## Lenses -/

theorem isles_onIsle (s : State) (n : Nat) (f : Isle → Isle) : (s.onIsle n f).isles = upd f s.isles n := rfl

@[simp] theorem isles_length_onIsle (s : State) (n : Nat) (f : Isle → Isle) : (s.onIsle n f).isles.length = s.isles.length := by
  simp [isles_onIsle]

theorem isle_onIsle_same (s : State) (n : Nat) (f : Isle → Isle) (h : n < s.isles.length) : (s.onIsle n f).isle n = f (s.isle n) :=
  nth_upd_same _ _ _ _ h

theorem isle_onIsle_ne (s : State) (n m : Nat) (f : Isle → Isle) (h : n ≠ m) : (s.onIsle n f).isle m = s.isle m :=
  nth_upd_ne _ _ _ _ _ h

theorem onIsle_onIsle (s : State) (n : Nat) (f g : Isle → Isle) : (s.onIsle n g).onIsle n f = s.onIsle n fun i => f (g i) := by
  simp [State.onIsle, upd_upd]

theorem ring_onRing_same (i : Isle) (k : Nat) (f : Ring → Ring) (h : k < i.rings.length) : (i.onRing k f).ring k = f (i.ring k) :=
  nth_upd_same _ _ _ _ h

theorem ring_onRing_ne (i : Isle) (k l : Nat) (f : Ring → Ring) (h : k ≠ l) : (i.onRing k f).ring l = i.ring l :=
  nth_upd_ne _ _ _ _ _ h

/-- The segment of a ring after a change to it. -/
theorem seg_onSeg_same (s : State) (n k : Nat) (f : Seg → Seg) (hn : n < s.isles.length) (hk : k < (s.isle n).rings.length) :
    (s.onSeg n k f).seg n k = (s.seg n k).map f := by
  simp only [State.onSeg, State.onRing, State.seg]
  rw [isle_onIsle_same _ _ _ hn, ring_onRing_same _ _ _ hk]
  rfl

theorem seg_onSeg_isle_ne (s : State) (n m k l : Nat) (f : Seg → Seg) (h : n ≠ m) : (s.onSeg n k f).seg m l = s.seg m l := by
  simp only [State.onSeg, State.onRing, State.seg]
  rw [isle_onIsle_ne _ _ _ _ h]

theorem seg_onSeg_ring_ne (s : State) (n k l : Nat) (f : Seg → Seg) (h : k ≠ l) : (s.onSeg n k f).seg n l = s.seg n l := by
  by_cases hn : n < s.isles.length
  · simp only [State.onSeg, State.onRing, State.seg]
    rw [isle_onIsle_same _ _ _ hn, ring_onRing_ne _ _ _ _ h]
  · have : (s.onSeg n k f).isle n = s.isle n := by
      simp only [State.onSeg, State.onRing, State.isle, State.onIsle]
      have h1 : s.isles.length ≤ n := by omega
      rw [nth_of_length_le, nth_of_length_le] <;> simp [h1]
    simp only [State.seg, this]

theorem stripe_onStripe_same (c : Core) (p : Nat) (f : Stripe → Stripe) (h : p < c.stripes.length) :
    (c.onStripe p f).stripe p = f (c.stripe p) := nth_upd_same _ _ _ _ h

theorem stripe_onStripe_ne (c : Core) (p q : Nat) (f : Stripe → Stripe) (h : p ≠ q) : (c.onStripe p f).stripe q = c.stripe q :=
  nth_upd_ne _ _ _ _ _ h

theorem elem_onElem_same (c : Core) (p e : Nat) (f : Elem → Elem) (hp : p < c.stripes.length) (he : e < (c.stripe p).elems.length) :
    (c.onElem p e f).elem p e = f (c.elem p e) := by
  simp only [Core.onElem, Core.elem, Stripe.elem]
  rw [stripe_onStripe_same _ _ _ hp]
  exact nth_upd_same _ _ _ _ he

theorem hart_onHart_same (s : State) (n e : Nat) (f : Hart → Hart) (hn : n < s.isles.length) (he : e < (s.isle n).harts.length) :
    ((s.onHart n e f).isle n).hart e = f ((s.isle n).hart e) := by
  simp only [State.onHart]
  rw [isle_onIsle_same _ _ _ hn]
  exact nth_upd_same _ _ _ _ he

theorem queue_onQueue_same (s : State) (n q : Nat) (f : Queue → Queue) (hn : n < s.isles.length)
    (hq : q < (s.isle n).queues.length) : ((s.onQueue n q f).isle n).queue q = f ((s.isle n).queue q) := by
  simp only [State.onQueue]
  rw [isle_onIsle_same _ _ _ hn]
  exact nth_upd_same _ _ _ _ hq

theorem mbx_onMbx_same (s : State) (n b : Nat) (f : Mbx → Mbx) (hn : n < s.isles.length) (hb : b < (s.isle n).mbx.length) :
    ((s.onMbx n b f).isle n).mailbox b = f ((s.isle n).mailbox b) := by
  simp only [State.onMbx]
  rw [isle_onIsle_same _ _ _ hn]
  exact nth_upd_same _ _ _ _ hb

end Sys2Proof.Laws
end

