-- ==== Sys2Proof/Laws/Memory.lean ====
section
/-! SUPPORT. Memory: what a byte reads as after a write, and that every memory operation keeps the canonical form (log 5). -/

namespace Sys2Proof.Laws

open Sys2Proof.Machine

/-! ## Cells -/

/-- An address below a sorted list's bound reads as nothing written. -/
theorem memGet_below (a lo : Nat) (m : List Host.Cell) (h : memOk lo m = true) (ha : a < lo) : memGet a m = 0 := by
  induction m generalizing lo with
  | nil => rfl
  | cons c r ih =>
    obtain ⟨b, v⟩ := c
    simp only [memOk, Bool.and_eq_true, decide_eq_true_eq] at h
    have hb : b ≠ a := by omega
    simp only [memGet, hb, if_false]
    exact ih (b + 1) h.2 (by omega)

theorem memOk_mono (lo lo' : Nat) (m : List Host.Cell) (h : memOk lo m = true) (hl : lo' ≤ lo) : memOk lo' m = true := by
  cases m with
  | nil => rfl
  | cons c r =>
    obtain ⟨b, v⟩ := c
    simp only [memOk, Bool.and_eq_true, decide_eq_true_eq] at h ⊢
    exact ⟨⟨by omega, h.1.2⟩, h.2⟩

theorem memPut_nil (a : Nat) (v : Byte) : memPut a v [] = if v = 0 then [] else [(a, v)] := rfl

theorem memPut_lt (a b : Nat) (v w : Byte) (r : List Host.Cell) (h : a < b) :
    memPut a v ((b, w) :: r) = if v = 0 then (b, w) :: r else (a, v) :: (b, w) :: r := if_pos h

theorem memPut_eq (a : Nat) (v w : Byte) (r : List Host.Cell) : memPut a v ((a, w) :: r) = if v = 0 then r else (a, v) :: r := by
  unfold memPut
  rw [if_neg (Nat.lt_irrefl a), if_pos rfl]

theorem memPut_gt (a b : Nat) (v w : Byte) (r : List Host.Cell) (h : b < a) : memPut a v ((b, w) :: r) = (b, w) :: memPut a v r := by
  rw [memPut, if_neg (by omega), if_neg (by omega)]

theorem memOk_cons (lo a : Nat) (v : Byte) (r : List Host.Cell) :
    memOk lo ((a, v) :: r) = true ↔ (lo ≤ a ∧ v ≠ 0) ∧ memOk (a + 1) r = true := by
  simp only [memOk, Bool.and_eq_true, decide_eq_true_eq]

theorem memGet_same (a : Nat) (v : Byte) (r : List Host.Cell) : memGet a ((a, v) :: r) = v := if_pos rfl

theorem memGet_ne (a b : Nat) (v : Byte) (r : List Host.Cell) (h : b ≠ a) : memGet a ((b, v) :: r) = memGet a r := if_neg h

/-- A byte write keeps the canonical form. -/
theorem memPut_ok (a lo : Nat) (v : Byte) (m : List Host.Cell) (h : memOk lo m = true) (ha : lo ≤ a) : memOk lo (memPut a v m) = true := by
  induction m generalizing lo with
  | nil =>
    rw [memPut_nil]
    split
    · exact h
    · exact (memOk_cons _ _ _ _).2 ⟨⟨ha, by assumption⟩, rfl⟩
  | cons c r ih =>
    obtain ⟨b, w⟩ := c
    have h0 := (memOk_cons _ _ _ _).1 h
    rcases Nat.lt_trichotomy a b with h1 | h1 | h1
    · rw [memPut_lt _ _ _ _ _ h1]
      split
      · exact h
      · exact (memOk_cons _ _ _ _).2 ⟨⟨ha, by assumption⟩, (memOk_cons _ _ _ _).2 ⟨⟨by omega, h0.1.2⟩, h0.2⟩⟩
    · subst h1
      rw [memPut_eq]
      split
      · exact memOk_mono _ _ _ h0.2 (by omega)
      · exact (memOk_cons _ _ _ _).2 ⟨⟨ha, by assumption⟩, h0.2⟩
    · rw [memPut_gt _ _ _ _ _ h1]
      exact (memOk_cons _ _ _ _).2 ⟨h0.1, ih _ h0.2 (by omega)⟩

/-- A byte write leaves every other address as it was. -/
theorem memGet_memPut_ne (a b : Nat) (v : Byte) (m : List Host.Cell) (h : a ≠ b) : memGet b (memPut a v m) = memGet b m := by
  induction m with
  | nil =>
    rw [memPut_nil]
    split
    · rfl
    · exact memGet_ne _ _ _ _ h
  | cons c r ih =>
    obtain ⟨x, w⟩ := c
    rcases Nat.lt_trichotomy a x with h1 | h1 | h1
    · rw [memPut_lt _ _ _ _ _ h1]
      split
      · rfl
      · exact memGet_ne _ _ _ _ h
    · subst h1
      rw [memPut_eq, memGet_ne _ _ _ _ h]
      split
      · rfl
      · exact memGet_ne _ _ _ _ h
    · rw [memPut_gt _ _ _ _ _ h1]
      simp only [memGet]
      rw [ih]

/-- A byte written reads back. -/
theorem memGet_memPut_same (a lo : Nat) (v : Byte) (m : List Host.Cell) (h : memOk lo m = true) : memGet a (memPut a v m) = v := by
  induction m generalizing lo with
  | nil =>
    rw [memPut_nil]
    split
    · exact Eq.symm (by assumption)
    · exact memGet_same _ _ _
  | cons c r ih =>
    obtain ⟨x, w⟩ := c
    have h0 := (memOk_cons _ _ _ _).1 h
    rcases Nat.lt_trichotomy a x with h1 | h1 | h1
    · rw [memPut_lt _ _ _ _ _ h1]
      split
      · rw [memGet_ne _ _ _ _ (by omega), memGet_below a (x + 1) r h0.2 (by omega)]
        exact Eq.symm (by assumption)
      · exact memGet_same _ _ _
    · subst h1
      rw [memPut_eq]
      split
      · rw [memGet_below a (a + 1) r h0.2 (by omega)]
        exact Eq.symm (by assumption)
      · exact memGet_same _ _ _
    · rw [memPut_gt _ _ _ _ _ h1, memGet_ne _ _ _ _ (by omega)]
      exact ih _ h0.2

theorem putCells_ok (cells : List Host.Cell) (m : List Host.Cell) (h : Memory.wf m = true) : Memory.wf (putCells cells m) = true := by
  unfold putCells
  induction cells generalizing m with
  | nil => exact h
  | cons c r ih => exact ih _ (memPut_ok _ _ _ _ h (Nat.zero_le _))

theorem memGet_putCells_out (a : Nat) (cells : List Host.Cell) (m : List Host.Cell) (h : ∀ c ∈ cells, c.1 ≠ a) :
    memGet a (putCells cells m) = memGet a m := by
  unfold putCells
  induction cells generalizing m with
  | nil => rfl
  | cons c r ih =>
    simp only [List.foldl_cons]
    rw [ih _ fun x hx => h x (List.mem_cons_of_mem _ hx), memGet_memPut_ne _ _ _ _ (h c List.mem_cons_self)]

/-! ## Operations of the state -/

/-- The state's memory stands in its canonical form. -/
abbrev MemWf (s : State) : Prop := Memory.wf s.mem = true

theorem setByte_wf (s : State) (a : Nat) (v : Byte) (h : MemWf s) : MemWf (s.setByte a v) := memPut_ok _ _ _ _ h (Nat.zero_le _)

theorem setBytes_wf (s : State) (a : Nat) (bs : List Byte) (h : MemWf s) : MemWf (s.setBytes a bs) := by
  induction bs generalizing s a with
  | nil => exact h
  | cons b r ih => exact ih _ _ (setByte_wf _ _ _ h)

theorem foldl_keeps {α : Type} (P : State → Prop) (f : State → α → State) (hf : ∀ s x, P s → P (f s x)) (l : List α) (s : State)
    (h : P s) : P (l.foldl f s) := by
  induction l generalizing s with
  | nil => exact h
  | cons x r ih => exact ih _ (hf _ _ h)

theorem postErr_wf (s : State) (n k g w d : Nat) (h : MemWf s) : MemWf (s.postErr n k g w d) := by
  unfold State.postErr
  dsimp only
  rw [MemWf, onIsle_mem]
  exact setBytes_wf _ _ _ h

theorem scTouch_mem (s : State) (a : Nat) (d : Bool) : (s.scTouch a d).mem = s.mem := by
  unfold State.scTouch
  split
  · cases lruVictim scSet 16 (a / 64) s.sc <;> dsimp only <;> repeat' split
    all_goals rfl
  · rfl

theorem scWrite_mem (s : State) (cells : List Host.Cell) : (s.scWrite cells).mem = s.mem := by
  unfold State.scWrite
  generalize dedup _ = l
  induction l generalizing s with
  | nil => rfl
  | cons x r ih => simp only [List.foldl_cons]; rw [ih, scTouch_mem]

theorem perform_wf (s : State) (cells : List Host.Cell) (h : MemWf s) : MemWf (s.perform cells) := by
  unfold State.perform
  apply foldl_keeps MemWf _ (fun _ _ hs => postErr_wf _ _ _ _ _ _ hs)
  rw [MemWf, scWrite_mem]
  exact putCells_ok _ _ h

theorem chargeMem_mem (s : State) (t a x : Nat) : (s.chargeMem t a x).mem = s.mem := by
  unfold State.chargeMem
  split
  · rfl
  · split <;> rfl

theorem write_wf (s : State) (t a : Nat) (bs : List Byte) (h : MemWf s) : MemWf (s.write t a bs) := by
  unfold State.write
  rw [MemWf, chargeMem_mem]
  exact perform_wf _ _ h

theorem writeFill_wf (s : State) (t a : Nat) (bs : List Byte) (h : MemWf s) : MemWf (s.writeFill t a bs) := by
  unfold State.writeFill
  dsimp only
  exact foldl_keeps MemWf State.setFull (fun _ _ hs => hs) _ _ (write_wf _ _ _ _ h)

theorem poison_mem (s : State) (a : Nat) : (s.poison a).mem = s.mem := by
  unfold State.poison
  split <;> rfl

theorem postTrace_wf (s : State) (n r t k : Nat) (p : Bool) (a b c d e f : Nat) (h : MemWf s) :
    MemWf (s.postTrace n r t k p a b c d e f) := by
  unfold State.postTrace
  dsimp only
  split
  · split
    · rw [MemWf, onIsle_mem]
      exact h
    · rw [MemWf, onIsle_mem]
      exact setBytes_wf _ _ _ h
  · exact h

end Sys2Proof.Laws
end

