-- ==== Sys2Proof/Laws/PerInstr.lean ====
section
/-! SUPPORT. Facts about each instruction as syntax: the word that the encoder gives has no bit above the instruction's width
(R24, R50, R53). -/

namespace Sys2Proof.Laws

theorem b2n_le (b : Bool) : b2n b ≤ 1 := by cases b <;> decide

/-- A rule word stays below 2^32 when its operand field stays below 2^19. -/
theorem ruleWord_lt (t : BitVec 6) (maj x : Nat) (hm : maj < 128) (hx : x < 2 ^ 19) : ruleWord t maj x < 2 ^ 32 := by
  have := t.isLt
  unfold ruleWord
  omega

theorem FmtDA_enc_lt (o : FmtDA) : o.enc < 2 ^ 19 := by
  have h_d := o.d.isLt
  have h_a := o.a.isLt
  simp only [FmtDA.enc]
  omega

theorem FmtABM_enc_lt (o : FmtABM) : o.enc < 2 ^ 19 := by
  have h_d := o.d.isLt
  have h_a := o.a.isLt
  have h_b := o.b.isLt
  have h_ka := b2n_le o.ka
  have h_kb := b2n_le o.kb
  have h_m := o.m.isLt
  simp only [FmtABM.enc]
  omega

theorem FmtVBM_enc_lt (o : FmtVBM) : o.enc < 2 ^ 19 := by
  have h_d := o.d.isLt
  have h_a := o.a.isLt
  have h_b := o.b.isLt
  have h_ka := b2n_le o.ka
  have h_kb := b2n_le o.kb
  have h_m := o.m.isLt
  simp only [FmtVBM.enc]
  omega

theorem FmtAM_enc_lt (o : FmtAM) : o.enc < 2 ^ 19 := by
  have h_d := o.d.isLt
  have h_a := o.a.isLt
  have h_ka := b2n_le o.ka
  have h_m := o.m.isLt
  simp only [FmtAM.enc]
  omega

theorem FmtPB_enc_lt (o : FmtPB) : o.enc < 2 ^ 19 := by
  have h_d := o.d.isLt
  have h_a := o.a.isLt
  have h_b := o.b.isLt
  have h_ka := b2n_le o.ka
  have h_kb := b2n_le o.kb
  simp only [FmtPB.enc]
  omega

theorem FmtI_enc_lt (o : FmtI) : o.enc < 2 ^ 19 := by
  have h_d := o.d.isLt
  have h_a := o.a.isLt
  have h_imm := o.imm.isLt
  have h_ka := b2n_le o.ka
  simp only [FmtI.enc]
  omega

theorem FmtM_enc_lt (o : FmtM) : o.enc < 2 ^ 19 := by
  have h_d := o.d.isLt
  have h_a := o.a.isLt
  have h_ch := o.ch.isLt
  have h_pos := o.pos.isLt
  have h_sz := o.sz.isLt
  have h_ka := b2n_le o.ka
  simp only [FmtM.enc]
  omega

theorem FmtML_enc_lt (o : FmtML) : o.enc < 2 ^ 19 := by
  have h_a := o.a.isLt
  have h_ch := o.ch.isLt
  have h_pos := o.pos.isLt
  have h_ka := b2n_le o.ka
  simp only [FmtML.enc]
  omega

theorem FmtMG_enc_lt (o : FmtMG) : o.enc < 2 ^ 19 := by
  have h_d := o.d.isLt
  have h_g := b2n_le o.g
  have h_ch := o.ch.isLt
  have h_pos := o.pos.isLt
  have h_sz := o.sz.isLt
  simp only [FmtMG.enc]
  omega

theorem FmtAt_enc_lt (o : FmtAt) : o.enc < 2 ^ 19 := by
  have h_rpl := b2n_le o.rpl
  have h_y := o.y.isLt
  have h_a := o.a.isLt
  have h_b := o.b.isLt
  simp only [FmtAt.enc]
  omega

theorem FmtCpy_enc_lt (o : FmtCpy) : o.enc < 2 ^ 19 := by
  have h_d := o.d.isLt
  have h_a := o.a.isLt
  have h_b := o.b.isLt
  simp only [FmtCpy.enc]
  omega

theorem FmtDAB_enc_lt (o : FmtDAB) : o.enc < 2 ^ 19 := by
  have h_d := o.d.isLt
  have h_a := o.a.isLt
  have h_b := o.b.isLt
  simp only [FmtDAB.enc]
  omega

theorem FmtColl_enc_lt (o : FmtColl) : o.enc < 2 ^ 19 := by
  have h_d := o.d.isLt
  have h_a := o.a.isLt
  simp only [FmtColl.enc]
  omega

theorem FmtMma_enc_lt (o : FmtMma) : o.enc < 2 ^ 19 := by
  have h_t := o.t.isLt
  have h_pl := o.pl.isLt
  have h_ch := o.ch.isLt
  have h_zero := b2n_le o.zero
  simp only [FmtMma.enc]
  omega

theorem FmtPlw_enc_lt (o : FmtPlw) : o.enc < 2 ^ 19 := by
  have h_pl := o.pl.isLt
  have h_ch := o.ch.isLt
  have h_row := o.row.isLt
  have h_k := b2n_le o.k
  simp only [FmtPlw.enc]
  omega

theorem FmtPlws_enc_lt (o : FmtPlws) : o.enc < 2 ^ 19 := by
  have h_pl := o.pl.isLt
  have h_ch := o.ch.isLt
  have h_row := o.row.isLt
  have h_sp := o.sp.isLt
  have h_k := b2n_le o.k
  simp only [FmtPlws.enc]
  omega

theorem FmtScld_enc_lt (o : FmtScld) : o.enc < 2 ^ 19 := by
  have h_pl := o.pl.isLt
  have h_ch := o.ch.isLt
  have h_bsc := b2n_le o.bsc
  have h_k := b2n_le o.k
  simp only [FmtScld.enc]
  omega

theorem FmtAccrd_enc_lt (o : FmtAccrd) : o.enc < 2 ^ 19 := by
  have h_t := o.t.isLt
  have h_ch := o.ch.isLt
  have h_ty := o.ty.isLt
  have h_sat := b2n_le o.sat
  have h_clr := b2n_le o.clr
  simp only [FmtAccrd.enc]
  omega

theorem FmtAccwr_enc_lt (o : FmtAccwr) : o.enc < 2 ^ 19 := by
  have h_t := o.t.isLt
  have h_ch := o.ch.isLt
  have h_ty := o.ty.isLt
  have h_k := b2n_le o.k
  simp only [FmtAccwr.enc]
  omega

theorem FmtSteer_enc_lt (o : FmtSteer) : o.enc < 2 ^ 19 := by
  have h_d := o.d.isLt
  have h_a := o.a.isLt
  have h_f := o.f.isLt
  have h_p := o.p.isLt
  have h_ka := b2n_le o.ka
  simp only [FmtSteer.enc]
  omega

theorem FmtMerge_enc_lt (o : FmtMerge) : o.enc < 2 ^ 19 := by
  have h_d := o.d.isLt
  have h_a := o.a.isLt
  have h_b := o.b.isLt
  have h_m := o.m.isLt
  simp only [FmtMerge.enc]
  omega

theorem FmtSplit_enc_lt (o : FmtSplit) : o.enc < 2 ^ 19 := by
  have h_c := b2n_le o.c
  have h_mask := o.mask.isLt
  have h_a := o.a.isLt
  have h_b := o.b.isLt
  have h_ka := b2n_le o.ka
  have h_kb := b2n_le o.kb
  simp only [FmtSplit.enc]
  omega

theorem FmtPick_enc_lt (o : FmtPick) : o.enc < 2 ^ 19 := by
  have h_d := o.d.isLt
  have h_a := o.a.isLt
  have h_mask := o.mask.isLt
  have h_ka := b2n_le o.ka
  simp only [FmtPick.enc]
  omega

theorem FmtCntb_enc_lt (o : FmtCntb) : o.enc < 2 ^ 19 := by
  have h_k := b2n_le o.k
  have h_a := o.a.isLt
  have h_outer := b2n_le o.outer
  have h_ka := b2n_le o.ka
  simp only [FmtCntb.enc]
  omega

theorem FmtRep_enc_lt (o : FmtRep) : o.enc < 2 ^ 19 := by
  have h_d := o.d.isLt
  have h_a := o.a.isLt
  have h_b := o.b.isLt
  have h_ka := b2n_le o.ka
  have h_kb := b2n_le o.kb
  simp only [FmtRep.enc]
  omega

theorem FmtPlog_enc_lt (o : FmtPlog) : o.enc < 2 ^ 19 := by
  have h_d := o.d.isLt
  have h_a := o.a.isLt
  have h_b := o.b.isLt
  have h_f := o.f.isLt
  simp only [FmtPlog.enc]
  omega

theorem FmtShi_enc_lt (o : FmtShi) : o.enc < 2 ^ 19 := by
  have h_d := o.d.isLt
  have h_a := o.a.isLt
  have h_k := o.k.isLt
  have h_n := o.n.isLt
  have h_ka := b2n_le o.ka
  simp only [FmtShi.enc]
  omega

theorem FmtSel_enc_lt (o : FmtSel) : o.enc < 2 ^ 19 := by
  have h_d := o.d.isLt
  have h_a := o.a.isLt
  have h_b := o.b.isLt
  have h_ka := b2n_le o.ka
  have h_kb := b2n_le o.kb
  have h_p := o.p.isLt
  simp only [FmtSel.enc]
  omega

theorem FmtBcast_enc_lt (o : FmtBcast) : o.enc < 2 ^ 19 := by
  have h_d := o.d.isLt
  have h_a := o.a.isLt
  have h_lane := o.lane.isLt
  have h_ka := b2n_le o.ka
  simp only [FmtBcast.enc]
  omega

theorem FmtCvt_enc_lt (o : FmtCvt) : o.enc < 2 ^ 19 := by
  have h_d := o.d.isLt
  have h_a := o.a.isLt
  have h_from := o.from_.isLt
  have h_to := o.to_.isLt
  have h_sat := b2n_le o.sat
  simp only [FmtCvt.enc]
  omega

theorem FmtCvtmx_enc_lt (o : FmtCvtmx) : o.enc < 2 ^ 19 := by
  have h_d := o.d.isLt
  have h_a := o.a.isLt
  have h_b := o.b.isLt
  have h_sat := b2n_le o.sat
  have h_to := o.to_.isLt
  simp only [FmtCvtmx.enc]
  omega

theorem FmtUnpmx_enc_lt (o : FmtUnpmx) : o.enc < 2 ^ 19 := by
  have h_d := o.d.isLt
  have h_a := o.a.isLt
  have h_b := o.b.isLt
  have h_from := o.from_.isLt
  simp only [FmtUnpmx.enc]
  omega

theorem FmtFpack_enc_lt (o : FmtFpack) : o.enc < 2 ^ 19 := by
  have h_d := o.d.isLt
  have h_a := o.a.isLt
  have h_part := o.part.isLt
  have h_to := o.to_.isLt
  simp only [FmtFpack.enc]
  omega

theorem FmtFunpk_enc_lt (o : FmtFunpk) : o.enc < 2 ^ 19 := by
  have h_d := o.d.isLt
  have h_a := o.a.isLt
  have h_part := o.part.isLt
  have h_from := o.from_.isLt
  simp only [FmtFunpk.enc]
  omega

theorem skerryWord_lt (op f : Nat) (x y z : BitVec 5) (ho : op < 128) (hf : f < 8) : skerryWord op f x y z < 2 ^ 32 := by
  have := x.isLt
  have := y.isLt
  have := z.isLt
  unfold skerryWord
  omega

theorem dock_enc_lt (op : Nat) (d : DockW) (h : op < 256) : d.enc op < 2 ^ 64 := by
  have := d.queue.isLt
  have := d.rsv.isLt
  have := d.arg.isLt
  have := b2n_le d.sync
  unfold DockW.enc
  omega

theorem dock2_enc_lt (op : Nat) (d : DockW) (v : BitVec 64) (h : op < 256) : d.enc op + v.toNat * 2 ^ 64 < 2 ^ 128 := by
  have := dock_enc_lt op d h
  have := v.isLt
  omega

/-- The encoder's word of `i` fits the width that it names. -/
def EncodeFits.Statement (i : Instr) : Prop := ∀ n w, encode i = some (n, w) → w < 2 ^ n

theorem encodeFits_none (i : Instr) (h : encode i = none) : EncodeFits.Statement i := by
  intro n w e
  rw [h] at e
  exact absurd e (by simp)

theorem encodeFits_some (i : Instr) (n w : Nat) (h : encode i = some (n, w)) (hw : w < 2 ^ n) : EncodeFits.Statement i := by
  intro n' w' e
  rw [h] at e
  cases e
  exact hw

theorem EncodeFits.nop (t : BitVec 6) : EncodeFits.Statement (.nop t) :=
  encodeFits_some _ _ _ rfl (ruleWord_lt _ _ _ (by decide) (by decide))

theorem EncodeFits.mov (t : BitVec 6) (o : FmtDA) : EncodeFits.Statement (.mov t o) :=
  encodeFits_some _ _ _ rfl (ruleWord_lt _ _ _ (by decide) (FmtDA_enc_lt o))

theorem EncodeFits.drop (t : BitVec 6) (a : BitVec 2) : EncodeFits.Statement (.drop t a) :=
  encodeFits_some _ _ _ rfl (ruleWord_lt _ _ _ (by decide) (by have := a.isLt; omega))

theorem EncodeFits.null_ (t : BitVec 6) (d : BitVec 2) : EncodeFits.Statement (.null_ t d) :=
  encodeFits_some _ _ _ rfl (ruleWord_lt _ _ _ (by decide) (by have := d.isLt; omega))

theorem EncodeFits.steer (t : BitVec 6) (o : FmtSteer) : EncodeFits.Statement (.steer t o) :=
  encodeFits_some _ _ _ rfl (ruleWord_lt _ _ _ (by decide) (by have := o.d.isLt; have := o.a.isLt; have := o.f.isLt; have := o.p.isLt; have := b2n_le o.ka; simp only [FmtSteer.enc]; omega))

theorem EncodeFits.merge (t : BitVec 6) (o : FmtMerge) : EncodeFits.Statement (.merge t o) :=
  encodeFits_some _ _ _ rfl (ruleWord_lt _ _ _ (by decide) (by have := o.d.isLt; have := o.a.isLt; have := o.b.isLt; have := o.m.isLt; simp only [FmtMerge.enc]; omega))

theorem EncodeFits.split4 (t : BitVec 6) (o : FmtSplit) : EncodeFits.Statement (.split4 t o) :=
  encodeFits_some _ _ _ rfl (ruleWord_lt _ _ _ (by decide) (FmtSplit_enc_lt o))

theorem EncodeFits.pick4 (t : BitVec 6) (o : FmtPick) : EncodeFits.Statement (.pick4 t o) :=
  encodeFits_some _ _ _ rfl (ruleWord_lt _ _ _ (by decide) (FmtPick_enc_lt o))

theorem EncodeFits.emit (t : BitVec 6) (d : BitVec 5) (end_ : Bool) : EncodeFits.Statement (.emit t d end_) :=
  encodeFits_some _ _ _ rfl (ruleWord_lt _ _ _ (by decide) (by have := d.isLt; have := b2n_le end_; omega))

theorem EncodeFits.cnt (t : BitVec 6) (k : Bool) (outer : Bool) : EncodeFits.Statement (.cnt t k outer) :=
  encodeFits_some _ _ _ rfl (ruleWord_lt _ _ _ (by decide) (by have := b2n_le k; have := b2n_le outer; omega))

theorem EncodeFits.cntb (t : BitVec 6) (o : FmtCntb) : EncodeFits.Statement (.cntb t o) :=
  encodeFits_some _ _ _ rfl (ruleWord_lt _ _ _ (by decide) (FmtCntb_enc_lt o))

theorem EncodeFits.rep (t : BitVec 6) (o : FmtRep) : EncodeFits.Statement (.rep t o) :=
  encodeFits_some _ _ _ rfl (ruleWord_lt _ _ _ (by decide) (by have := o.d.isLt; have := o.a.isLt; have := o.b.isLt; have := b2n_le o.ka; have := b2n_le o.kb; simp only [FmtRep.enc]; omega))

theorem EncodeFits.seqt (t : BitVec 6) (o : FmtABM) : EncodeFits.Statement (.seqt t o) :=
  encodeFits_some _ _ _ rfl (ruleWord_lt _ _ _ (by decide) (FmtABM_enc_lt o))

theorem EncodeFits.reord (t : BitVec 6) (d : BitVec 5) (a : BitVec 2) : EncodeFits.Statement (.reord t d a) :=
  encodeFits_some _ _ _ rfl (ruleWord_lt _ _ _ (by decide) (by have := d.isLt; have := a.isLt; omega))

theorem EncodeFits.sig (t : BitVec 6) (set : Bool) : EncodeFits.Statement (.sig t set) :=
  encodeFits_some _ _ _ rfl (ruleWord_lt _ _ _ (by decide) (by have := b2n_le set; omega))

theorem EncodeFits.gate (t : BitVec 6) (o : FmtDA) : EncodeFits.Statement (.gate t o) :=
  encodeFits_some _ _ _ rfl (ruleWord_lt _ _ _ (by decide) (FmtDA_enc_lt o))

theorem EncodeFits.plog (t : BitVec 6) (o : FmtPlog) : EncodeFits.Statement (.plog t o) :=
  encodeFits_some _ _ _ rfl (ruleWord_lt _ _ _ (by decide) (FmtPlog_enc_lt o))

theorem EncodeFits.pset (t : BitVec 6) (d : BitVec 3) (a : BitVec 5) : EncodeFits.Statement (.pset t d a) :=
  encodeFits_some _ _ _ rfl (ruleWord_lt _ _ _ (by decide) (by have := d.isLt; have := a.isLt; omega))

theorem EncodeFits.slots (t : BitVec 6) (d : BitVec 5) : EncodeFits.Statement (.slots t d) :=
  encodeFits_some _ _ _ rfl (ruleWord_lt _ _ _ (by decide) (by have := d.isLt; omega))

theorem EncodeFits.add (t : BitVec 6) (o : FmtABM) : EncodeFits.Statement (.add t o) :=
  encodeFits_some _ _ _ rfl (ruleWord_lt _ _ _ (by decide) (FmtABM_enc_lt o))

theorem EncodeFits.sub (t : BitVec 6) (o : FmtABM) : EncodeFits.Statement (.sub t o) :=
  encodeFits_some _ _ _ rfl (ruleWord_lt _ _ _ (by decide) (FmtABM_enc_lt o))

theorem EncodeFits.addi (t : BitVec 6) (o : FmtI) : EncodeFits.Statement (.addi t o) :=
  encodeFits_some _ _ _ rfl (ruleWord_lt _ _ _ (by decide) (FmtI_enc_lt o))

theorem EncodeFits.adds (t : BitVec 6) (o : FmtABM) : EncodeFits.Statement (.adds t o) :=
  encodeFits_some _ _ _ rfl (ruleWord_lt _ _ _ (by decide) (FmtABM_enc_lt o))

theorem EncodeFits.subs (t : BitVec 6) (o : FmtABM) : EncodeFits.Statement (.subs t o) :=
  encodeFits_some _ _ _ rfl (ruleWord_lt _ _ _ (by decide) (FmtABM_enc_lt o))

theorem EncodeFits.mull (t : BitVec 6) (o : FmtABM) : EncodeFits.Statement (.mull t o) :=
  encodeFits_some _ _ _ rfl (ruleWord_lt _ _ _ (by decide) (FmtABM_enc_lt o))

theorem EncodeFits.mulh (t : BitVec 6) (o : FmtABM) : EncodeFits.Statement (.mulh t o) :=
  encodeFits_some _ _ _ rfl (ruleWord_lt _ _ _ (by decide) (FmtABM_enc_lt o))

theorem EncodeFits.mulhu (t : BitVec 6) (o : FmtABM) : EncodeFits.Statement (.mulhu t o) :=
  encodeFits_some _ _ _ rfl (ruleWord_lt _ _ _ (by decide) (FmtABM_enc_lt o))

theorem EncodeFits.mad (t : BitVec 6) (o : FmtVBM) : EncodeFits.Statement (.mad t o) :=
  encodeFits_some _ _ _ rfl (ruleWord_lt _ _ _ (by decide) (FmtVBM_enc_lt o))

theorem EncodeFits.and_ (t : BitVec 6) (o : FmtABM) : EncodeFits.Statement (.and_ t o) :=
  encodeFits_some _ _ _ rfl (ruleWord_lt _ _ _ (by decide) (FmtABM_enc_lt o))

theorem EncodeFits.or_ (t : BitVec 6) (o : FmtABM) : EncodeFits.Statement (.or_ t o) :=
  encodeFits_some _ _ _ rfl (ruleWord_lt _ _ _ (by decide) (FmtABM_enc_lt o))

theorem EncodeFits.xor_ (t : BitVec 6) (o : FmtABM) : EncodeFits.Statement (.xor_ t o) :=
  encodeFits_some _ _ _ rfl (ruleWord_lt _ _ _ (by decide) (FmtABM_enc_lt o))

theorem EncodeFits.andn (t : BitVec 6) (o : FmtABM) : EncodeFits.Statement (.andn t o) :=
  encodeFits_some _ _ _ rfl (ruleWord_lt _ _ _ (by decide) (FmtABM_enc_lt o))

theorem EncodeFits.shl (t : BitVec 6) (o : FmtABM) : EncodeFits.Statement (.shl t o) :=
  encodeFits_some _ _ _ rfl (ruleWord_lt _ _ _ (by decide) (FmtABM_enc_lt o))

theorem EncodeFits.shr (t : BitVec 6) (o : FmtABM) : EncodeFits.Statement (.shr t o) :=
  encodeFits_some _ _ _ rfl (ruleWord_lt _ _ _ (by decide) (FmtABM_enc_lt o))

theorem EncodeFits.sra (t : BitVec 6) (o : FmtABM) : EncodeFits.Statement (.sra t o) :=
  encodeFits_some _ _ _ rfl (ruleWord_lt _ _ _ (by decide) (FmtABM_enc_lt o))

theorem EncodeFits.shi (t : BitVec 6) (o : FmtShi) : EncodeFits.Statement (.shi t o) :=
  encodeFits_some _ _ _ rfl (ruleWord_lt _ _ _ (by decide) (FmtShi_enc_lt o))

theorem EncodeFits.min_ (t : BitVec 6) (o : FmtABM) : EncodeFits.Statement (.min_ t o) :=
  encodeFits_some _ _ _ rfl (ruleWord_lt _ _ _ (by decide) (FmtABM_enc_lt o))

theorem EncodeFits.max_ (t : BitVec 6) (o : FmtABM) : EncodeFits.Statement (.max_ t o) :=
  encodeFits_some _ _ _ rfl (ruleWord_lt _ _ _ (by decide) (FmtABM_enc_lt o))

theorem EncodeFits.minu (t : BitVec 6) (o : FmtABM) : EncodeFits.Statement (.minu t o) :=
  encodeFits_some _ _ _ rfl (ruleWord_lt _ _ _ (by decide) (FmtABM_enc_lt o))

theorem EncodeFits.maxu (t : BitVec 6) (o : FmtABM) : EncodeFits.Statement (.maxu t o) :=
  encodeFits_some _ _ _ rfl (ruleWord_lt _ _ _ (by decide) (FmtABM_enc_lt o))

theorem EncodeFits.abs_ (t : BitVec 6) (o : FmtAM) : EncodeFits.Statement (.abs_ t o) :=
  encodeFits_some _ _ _ rfl (ruleWord_lt _ _ _ (by decide) (FmtAM_enc_lt o))

theorem EncodeFits.clz (t : BitVec 6) (o : FmtAM) : EncodeFits.Statement (.clz t o) :=
  encodeFits_some _ _ _ rfl (ruleWord_lt _ _ _ (by decide) (FmtAM_enc_lt o))

theorem EncodeFits.popc (t : BitVec 6) (o : FmtAM) : EncodeFits.Statement (.popc t o) :=
  encodeFits_some _ _ _ rfl (ruleWord_lt _ _ _ (by decide) (FmtAM_enc_lt o))

theorem EncodeFits.sel (t : BitVec 6) (o : FmtSel) : EncodeFits.Statement (.sel t o) :=
  encodeFits_some _ _ _ rfl (ruleWord_lt _ _ _ (by decide) (FmtSel_enc_lt o))

theorem EncodeFits.cmpeq (t : BitVec 6) (o : FmtPB) : EncodeFits.Statement (.cmpeq t o) :=
  encodeFits_some _ _ _ rfl (ruleWord_lt _ _ _ (by decide) (FmtPB_enc_lt o))

theorem EncodeFits.cmpne (t : BitVec 6) (o : FmtPB) : EncodeFits.Statement (.cmpne t o) :=
  encodeFits_some _ _ _ rfl (ruleWord_lt _ _ _ (by decide) (FmtPB_enc_lt o))

theorem EncodeFits.cmplt (t : BitVec 6) (o : FmtPB) : EncodeFits.Statement (.cmplt t o) :=
  encodeFits_some _ _ _ rfl (ruleWord_lt _ _ _ (by decide) (FmtPB_enc_lt o))

theorem EncodeFits.cmple (t : BitVec 6) (o : FmtPB) : EncodeFits.Statement (.cmple t o) :=
  encodeFits_some _ _ _ rfl (ruleWord_lt _ _ _ (by decide) (FmtPB_enc_lt o))

theorem EncodeFits.cmpltu (t : BitVec 6) (o : FmtPB) : EncodeFits.Statement (.cmpltu t o) :=
  encodeFits_some _ _ _ rfl (ruleWord_lt _ _ _ (by decide) (FmtPB_enc_lt o))

theorem EncodeFits.cmpleu (t : BitVec 6) (o : FmtPB) : EncodeFits.Statement (.cmpleu t o) :=
  encodeFits_some _ _ _ rfl (ruleWord_lt _ _ _ (by decide) (FmtPB_enc_lt o))

theorem EncodeFits.li (t : BitVec 6) (d : BitVec 4) (imm : BitVec 14) : EncodeFits.Statement (.li t d imm) :=
  encodeFits_some _ _ _ rfl (ruleWord_lt _ _ _ (by decide) (by have := d.isLt; have := imm.isLt; omega))

theorem EncodeFits.lui (t : BitVec 6) (d : BitVec 4) (imm : BitVec 14) : EncodeFits.Statement (.lui t d imm) :=
  encodeFits_some _ _ _ rfl (ruleWord_lt _ _ _ (by decide) (by have := d.isLt; have := imm.isLt; omega))

theorem EncodeFits.bfx (t : BitVec 6) (o : FmtABM) : EncodeFits.Statement (.bfx t o) :=
  encodeFits_some _ _ _ rfl (ruleWord_lt _ _ _ (by decide) (FmtABM_enc_lt o))

theorem EncodeFits.bfi (t : BitVec 6) (o : FmtVBM) : EncodeFits.Statement (.bfi t o) :=
  encodeFits_some _ _ _ rfl (ruleWord_lt _ _ _ (by decide) (FmtVBM_enc_lt o))

theorem EncodeFits.divu (t : BitVec 6) (o : FmtABM) : EncodeFits.Statement (.divu t o) :=
  encodeFits_some _ _ _ rfl (ruleWord_lt _ _ _ (by decide) (FmtABM_enc_lt o))

theorem EncodeFits.remu (t : BitVec 6) (o : FmtABM) : EncodeFits.Statement (.remu t o) :=
  encodeFits_some _ _ _ rfl (ruleWord_lt _ _ _ (by decide) (FmtABM_enc_lt o))

theorem EncodeFits.bcast (t : BitVec 6) (o : FmtBcast) : EncodeFits.Statement (.bcast t o) :=
  encodeFits_some _ _ _ rfl (ruleWord_lt _ _ _ (by decide) (FmtBcast_enc_lt o))

theorem EncodeFits.perm (t : BitVec 6) (o : FmtABM) : EncodeFits.Statement (.perm t o) :=
  encodeFits_some _ _ _ rfl (ruleWord_lt _ _ _ (by decide) (FmtABM_enc_lt o))

theorem EncodeFits.slide (t : BitVec 6) (o : FmtI) : EncodeFits.Statement (.slide t o) :=
  encodeFits_some _ _ _ rfl (ruleWord_lt _ _ _ (by decide) (FmtI_enc_lt o))

theorem EncodeFits.redadd (t : BitVec 6) (o : FmtAM) : EncodeFits.Statement (.redadd t o) :=
  encodeFits_some _ _ _ rfl (ruleWord_lt _ _ _ (by decide) (FmtAM_enc_lt o))

theorem EncodeFits.redmax (t : BitVec 6) (o : FmtAM) : EncodeFits.Statement (.redmax t o) :=
  encodeFits_some _ _ _ rfl (ruleWord_lt _ _ _ (by decide) (FmtAM_enc_lt o))

theorem EncodeFits.redmin (t : BitVec 6) (o : FmtAM) : EncodeFits.Statement (.redmin t o) :=
  encodeFits_some _ _ _ rfl (ruleWord_lt _ _ _ (by decide) (FmtAM_enc_lt o))

theorem EncodeFits.scan (t : BitVec 6) (o : FmtAM) : EncodeFits.Statement (.scan t o) :=
  encodeFits_some _ _ _ rfl (ruleWord_lt _ _ _ (by decide) (FmtAM_enc_lt o))

theorem EncodeFits.fadd (t : BitVec 6) (o : FmtABM) : EncodeFits.Statement (.fadd t o) :=
  encodeFits_some _ _ _ rfl (ruleWord_lt _ _ _ (by decide) (FmtABM_enc_lt o))

theorem EncodeFits.fsub (t : BitVec 6) (o : FmtABM) : EncodeFits.Statement (.fsub t o) :=
  encodeFits_some _ _ _ rfl (ruleWord_lt _ _ _ (by decide) (FmtABM_enc_lt o))

theorem EncodeFits.fmul (t : BitVec 6) (o : FmtABM) : EncodeFits.Statement (.fmul t o) :=
  encodeFits_some _ _ _ rfl (ruleWord_lt _ _ _ (by decide) (FmtABM_enc_lt o))

theorem EncodeFits.ffma (t : BitVec 6) (o : FmtVBM) : EncodeFits.Statement (.ffma t o) :=
  encodeFits_some _ _ _ rfl (ruleWord_lt _ _ _ (by decide) (FmtVBM_enc_lt o))

theorem EncodeFits.ffms (t : BitVec 6) (o : FmtVBM) : EncodeFits.Statement (.ffms t o) :=
  encodeFits_some _ _ _ rfl (ruleWord_lt _ _ _ (by decide) (FmtVBM_enc_lt o))

theorem EncodeFits.fnma (t : BitVec 6) (o : FmtVBM) : EncodeFits.Statement (.fnma t o) :=
  encodeFits_some _ _ _ rfl (ruleWord_lt _ _ _ (by decide) (FmtVBM_enc_lt o))

theorem EncodeFits.fmin (t : BitVec 6) (o : FmtABM) : EncodeFits.Statement (.fmin t o) :=
  encodeFits_some _ _ _ rfl (ruleWord_lt _ _ _ (by decide) (FmtABM_enc_lt o))

theorem EncodeFits.fmax (t : BitVec 6) (o : FmtABM) : EncodeFits.Statement (.fmax t o) :=
  encodeFits_some _ _ _ rfl (ruleWord_lt _ _ _ (by decide) (FmtABM_enc_lt o))

theorem EncodeFits.fabs (t : BitVec 6) (o : FmtAM) : EncodeFits.Statement (.fabs t o) :=
  encodeFits_some _ _ _ rfl (ruleWord_lt _ _ _ (by decide) (FmtAM_enc_lt o))

theorem EncodeFits.fneg (t : BitVec 6) (o : FmtAM) : EncodeFits.Statement (.fneg t o) :=
  encodeFits_some _ _ _ rfl (ruleWord_lt _ _ _ (by decide) (FmtAM_enc_lt o))

theorem EncodeFits.fcmpeq (t : BitVec 6) (o : FmtPB) : EncodeFits.Statement (.fcmpeq t o) :=
  encodeFits_some _ _ _ rfl (ruleWord_lt _ _ _ (by decide) (FmtPB_enc_lt o))

theorem EncodeFits.fcmplt (t : BitVec 6) (o : FmtPB) : EncodeFits.Statement (.fcmplt t o) :=
  encodeFits_some _ _ _ rfl (ruleWord_lt _ _ _ (by decide) (FmtPB_enc_lt o))

theorem EncodeFits.fcmple (t : BitVec 6) (o : FmtPB) : EncodeFits.Statement (.fcmple t o) :=
  encodeFits_some _ _ _ rfl (ruleWord_lt _ _ _ (by decide) (FmtPB_enc_lt o))

theorem EncodeFits.fcmpun (t : BitVec 6) (o : FmtPB) : EncodeFits.Statement (.fcmpun t o) :=
  encodeFits_some _ _ _ rfl (ruleWord_lt _ _ _ (by decide) (FmtPB_enc_lt o))

theorem EncodeFits.fdiv (t : BitVec 6) (o : FmtABM) : EncodeFits.Statement (.fdiv t o) :=
  encodeFits_some _ _ _ rfl (ruleWord_lt _ _ _ (by decide) (FmtABM_enc_lt o))

theorem EncodeFits.fsqrt (t : BitVec 6) (o : FmtAM) : EncodeFits.Statement (.fsqrt t o) :=
  encodeFits_some _ _ _ rfl (ruleWord_lt _ _ _ (by decide) (FmtAM_enc_lt o))

theorem EncodeFits.frcp (t : BitVec 6) (o : FmtAM) : EncodeFits.Statement (.frcp t o) :=
  encodeFits_some _ _ _ rfl (ruleWord_lt _ _ _ (by decide) (FmtAM_enc_lt o))

theorem EncodeFits.frsq (t : BitVec 6) (o : FmtAM) : EncodeFits.Statement (.frsq t o) :=
  encodeFits_some _ _ _ rfl (ruleWord_lt _ _ _ (by decide) (FmtAM_enc_lt o))

theorem EncodeFits.fexp2 (t : BitVec 6) (o : FmtAM) : EncodeFits.Statement (.fexp2 t o) :=
  encodeFits_some _ _ _ rfl (ruleWord_lt _ _ _ (by decide) (FmtAM_enc_lt o))

theorem EncodeFits.flog2 (t : BitVec 6) (o : FmtAM) : EncodeFits.Statement (.flog2 t o) :=
  encodeFits_some _ _ _ rfl (ruleWord_lt _ _ _ (by decide) (FmtAM_enc_lt o))

theorem EncodeFits.ftanh (t : BitVec 6) (o : FmtAM) : EncodeFits.Statement (.ftanh t o) :=
  encodeFits_some _ _ _ rfl (ruleWord_lt _ _ _ (by decide) (FmtAM_enc_lt o))

theorem EncodeFits.fsigm (t : BitVec 6) (o : FmtAM) : EncodeFits.Statement (.fsigm t o) :=
  encodeFits_some _ _ _ rfl (ruleWord_lt _ _ _ (by decide) (FmtAM_enc_lt o))

theorem EncodeFits.fclass (t : BitVec 6) (o : FmtAM) : EncodeFits.Statement (.fclass t o) :=
  encodeFits_some _ _ _ rfl (ruleWord_lt _ _ _ (by decide) (FmtAM_enc_lt o))

theorem EncodeFits.frnd (t : BitVec 6) (o : FmtAM) : EncodeFits.Statement (.frnd t o) :=
  encodeFits_some _ _ _ rfl (ruleWord_lt _ _ _ (by decide) (FmtAM_enc_lt o))

theorem EncodeFits.fscale (t : BitVec 6) (o : FmtABM) : EncodeFits.Statement (.fscale t o) :=
  encodeFits_some _ _ _ rfl (ruleWord_lt _ _ _ (by decide) (FmtABM_enc_lt o))

theorem EncodeFits.cvt (t : BitVec 6) (o : FmtCvt) : EncodeFits.Statement (.cvt t o) :=
  encodeFits_some _ _ _ rfl (ruleWord_lt _ _ _ (by decide) (FmtCvt_enc_lt o))

theorem EncodeFits.cvtmx (t : BitVec 6) (o : FmtCvtmx) : EncodeFits.Statement (.cvtmx t o) :=
  encodeFits_some _ _ _ rfl (ruleWord_lt _ _ _ (by decide) (FmtCvtmx_enc_lt o))

theorem EncodeFits.unpmx (t : BitVec 6) (o : FmtUnpmx) : EncodeFits.Statement (.unpmx t o) :=
  encodeFits_some _ _ _ rfl (ruleWord_lt _ _ _ (by decide) (FmtUnpmx_enc_lt o))

theorem EncodeFits.fpack (t : BitVec 6) (o : FmtFpack) : EncodeFits.Statement (.fpack t o) :=
  encodeFits_some _ _ _ rfl (ruleWord_lt _ _ _ (by decide) (FmtFpack_enc_lt o))

theorem EncodeFits.funpk (t : BitVec 6) (o : FmtFunpk) : EncodeFits.Statement (.funpk t o) :=
  encodeFits_some _ _ _ rfl (ruleWord_lt _ _ _ (by decide) (FmtFunpk_enc_lt o))

theorem EncodeFits.plw (t : BitVec 6) (o : FmtPlw) : EncodeFits.Statement (.plw t o) :=
  encodeFits_some _ _ _ rfl (ruleWord_lt _ _ _ (by decide) (FmtPlw_enc_lt o))

theorem EncodeFits.plws (t : BitVec 6) (o : FmtPlws) : EncodeFits.Statement (.plws t o) :=
  encodeFits_some _ _ _ rfl (ruleWord_lt _ _ _ (by decide) (FmtPlws_enc_lt o))

theorem EncodeFits.plclr (t : BitVec 6) (pl : BitVec 4) : EncodeFits.Statement (.plclr t pl) :=
  encodeFits_some _ _ _ rfl (ruleWord_lt _ _ _ (by decide) (by have := pl.isLt; omega))

theorem EncodeFits.scld (t : BitVec 6) (o : FmtScld) : EncodeFits.Statement (.scld t o) :=
  encodeFits_some _ _ _ rfl (ruleWord_lt _ _ _ (by decide) (FmtScld_enc_lt o))

theorem EncodeFits.mma (t : BitVec 6) (o : FmtMma) : EncodeFits.Statement (.mma t o) :=
  encodeFits_some _ _ _ rfl (ruleWord_lt _ _ _ (by decide) (FmtMma_enc_lt o))

theorem EncodeFits.mmas (t : BitVec 6) (o : FmtMma) : EncodeFits.Statement (.mmas t o) :=
  encodeFits_some _ _ _ rfl (ruleWord_lt _ _ _ (by decide) (FmtMma_enc_lt o))

theorem EncodeFits.accrd (t : BitVec 6) (o : FmtAccrd) : EncodeFits.Statement (.accrd t o) :=
  encodeFits_some _ _ _ rfl (ruleWord_lt _ _ _ (by decide) (FmtAccrd_enc_lt o))

theorem EncodeFits.accwr (t : BitVec 6) (o : FmtAccwr) : EncodeFits.Statement (.accwr t o) :=
  encodeFits_some _ _ _ rfl (ruleWord_lt _ _ _ (by decide) (FmtAccwr_enc_lt o))

theorem EncodeFits.accclr (t : BitVec 6) (tile : BitVec 3) : EncodeFits.Statement (.accclr t tile) :=
  encodeFits_some _ _ _ rfl (ruleWord_lt _ _ _ (by decide) (by have := tile.isLt; omega))

theorem EncodeFits.mfwd (t : BitVec 6) (ch : BitVec 2) (out : BitVec 2) : EncodeFits.Statement (.mfwd t ch out) :=
  encodeFits_some _ _ _ rfl (ruleWord_lt _ _ _ (by decide) (by have := ch.isLt; have := out.isLt; omega))

theorem EncodeFits.ld (t : BitVec 6) (o : FmtM) : EncodeFits.Statement (.ld t o) :=
  encodeFits_some _ _ _ rfl (ruleWord_lt _ _ _ (by decide) (FmtM_enc_lt o))

theorem EncodeFits.ldq (t : BitVec 6) (y : BitVec 3) (a : BitVec 5) (ch : BitVec 2) (pos : BitVec 4) (sz : BitVec 2) (ka : Bool) : EncodeFits.Statement (.ldq t y a ch pos sz ka) :=
  encodeFits_some _ _ _ rfl (ruleWord_lt _ _ _ (by decide) (by have := y.isLt; have := a.isLt; have := ch.isLt; have := pos.isLt; have := sz.isLt; have := b2n_le ka; omega))

theorem EncodeFits.st (t : BitVec 6) (o : FmtM) : EncodeFits.Statement (.st t o) :=
  encodeFits_some _ _ _ rfl (ruleWord_lt _ _ _ (by decide) (FmtM_enc_lt o))

theorem EncodeFits.lds (t : BitVec 6) (o : FmtM) : EncodeFits.Statement (.lds t o) :=
  encodeFits_some _ _ _ rfl (ruleWord_lt _ _ _ (by decide) (FmtM_enc_lt o))

theorem EncodeFits.stf (t : BitVec 6) (o : FmtM) : EncodeFits.Statement (.stf t o) :=
  encodeFits_some _ _ _ rfl (ruleWord_lt _ _ _ (by decide) (FmtM_enc_lt o))

theorem EncodeFits.sto (t : BitVec 6) (o : FmtM) : EncodeFits.Statement (.sto t o) :=
  encodeFits_some _ _ _ rfl (ruleWord_lt _ _ _ (by decide) (FmtM_enc_lt o))

theorem EncodeFits.sete (t : BitVec 6) (o : FmtML) : EncodeFits.Statement (.sete t o) :=
  encodeFits_some _ _ _ rfl (ruleWord_lt _ _ _ (by decide) (FmtML_enc_lt o))

theorem EncodeFits.pfx (t : BitVec 6) (o : FmtML) : EncodeFits.Statement (.pfx t o) :=
  encodeFits_some _ _ _ rfl (ruleWord_lt _ _ _ (by decide) (FmtML_enc_lt o))

theorem EncodeFits.srd (t : BitVec 6) (o : FmtMG) : EncodeFits.Statement (.srd t o) :=
  encodeFits_some _ _ _ rfl (ruleWord_lt _ _ _ (by decide) (FmtMG_enc_lt o))

theorem EncodeFits.swr (t : BitVec 6) (o : FmtMG) : EncodeFits.Statement (.swr t o) :=
  encodeFits_some _ _ _ rfl (ruleWord_lt _ _ _ (by decide) (FmtMG_enc_lt o))

theorem EncodeFits.agn (t : BitVec 6) (g : Bool) (imm : BitVec 14) : EncodeFits.Statement (.agn t g imm) :=
  encodeFits_some _ _ _ rfl (ruleWord_lt _ _ _ (by decide) (by have := b2n_le g; have := imm.isLt; omega))

theorem EncodeFits.fence (t : BitVec 6) (scope : BitVec 3) : EncodeFits.Statement (.fence t scope) :=
  encodeFits_some _ _ _ rfl (ruleWord_lt _ _ _ (by decide) (by have := scope.isLt; omega))

theorem EncodeFits.aadd (t : BitVec 6) (o : FmtAt) : EncodeFits.Statement (.aadd t o) :=
  encodeFits_some _ _ _ rfl (ruleWord_lt _ _ _ (by decide) (FmtAt_enc_lt o))

theorem EncodeFits.amin (t : BitVec 6) (o : FmtAt) : EncodeFits.Statement (.amin t o) :=
  encodeFits_some _ _ _ rfl (ruleWord_lt _ _ _ (by decide) (by have := b2n_le o.rpl; have := o.y.isLt; have := o.a.isLt; have := o.b.isLt; simp only [FmtAt.enc]; omega))

theorem EncodeFits.amax (t : BitVec 6) (o : FmtAt) : EncodeFits.Statement (.amax t o) :=
  encodeFits_some _ _ _ rfl (ruleWord_lt _ _ _ (by decide) (by have := b2n_le o.rpl; have := o.y.isLt; have := o.a.isLt; have := o.b.isLt; simp only [FmtAt.enc]; omega))

theorem EncodeFits.aminu (t : BitVec 6) (o : FmtAt) : EncodeFits.Statement (.aminu t o) :=
  encodeFits_some _ _ _ rfl (ruleWord_lt _ _ _ (by decide) (by have := b2n_le o.rpl; have := o.y.isLt; have := o.a.isLt; have := o.b.isLt; simp only [FmtAt.enc]; omega))

theorem EncodeFits.amaxu (t : BitVec 6) (o : FmtAt) : EncodeFits.Statement (.amaxu t o) :=
  encodeFits_some _ _ _ rfl (ruleWord_lt _ _ _ (by decide) (by have := b2n_le o.rpl; have := o.y.isLt; have := o.a.isLt; have := o.b.isLt; simp only [FmtAt.enc]; omega))

theorem EncodeFits.aand (t : BitVec 6) (o : FmtAt) : EncodeFits.Statement (.aand t o) :=
  encodeFits_some _ _ _ rfl (ruleWord_lt _ _ _ (by decide) (by have := b2n_le o.rpl; have := o.y.isLt; have := o.a.isLt; have := o.b.isLt; simp only [FmtAt.enc]; omega))

theorem EncodeFits.aor (t : BitVec 6) (o : FmtAt) : EncodeFits.Statement (.aor t o) :=
  encodeFits_some _ _ _ rfl (ruleWord_lt _ _ _ (by decide) (by have := b2n_le o.rpl; have := o.y.isLt; have := o.a.isLt; have := o.b.isLt; simp only [FmtAt.enc]; omega))

theorem EncodeFits.axor (t : BitVec 6) (o : FmtAt) : EncodeFits.Statement (.axor t o) :=
  encodeFits_some _ _ _ rfl (ruleWord_lt _ _ _ (by decide) (by have := b2n_le o.rpl; have := o.y.isLt; have := o.a.isLt; have := o.b.isLt; simp only [FmtAt.enc]; omega))

theorem EncodeFits.axchg (t : BitVec 6) (o : FmtAt) : EncodeFits.Statement (.axchg t o) :=
  encodeFits_some _ _ _ rfl (ruleWord_lt _ _ _ (by decide) (by have := b2n_le o.rpl; have := o.y.isLt; have := o.a.isLt; have := o.b.isLt; simp only [FmtAt.enc]; omega))

theorem EncodeFits.acas (t : BitVec 6) (rpl : Bool) (y : BitVec 3) (a : BitVec 5) (b : BitVec 3) : EncodeFits.Statement (.acas t rpl y a b) :=
  encodeFits_some _ _ _ rfl (ruleWord_lt _ _ _ (by decide) (by have := b2n_le rpl; have := y.isLt; have := a.isLt; have := b.isLt; omega))

theorem EncodeFits.afadd (t : BitVec 6) (o : FmtAt) : EncodeFits.Statement (.afadd t o) :=
  encodeFits_some _ _ _ rfl (ruleWord_lt _ _ _ (by decide) (by have := b2n_le o.rpl; have := o.y.isLt; have := o.a.isLt; have := o.b.isLt; simp only [FmtAt.enc]; omega))

theorem EncodeFits.afmin (t : BitVec 6) (o : FmtAt) : EncodeFits.Statement (.afmin t o) :=
  encodeFits_some _ _ _ rfl (ruleWord_lt _ _ _ (by decide) (by have := b2n_le o.rpl; have := o.y.isLt; have := o.a.isLt; have := o.b.isLt; simp only [FmtAt.enc]; omega))

theorem EncodeFits.afmax (t : BitVec 6) (o : FmtAt) : EncodeFits.Statement (.afmax t o) :=
  encodeFits_some _ _ _ rfl (ruleWord_lt _ _ _ (by decide) (by have := b2n_le o.rpl; have := o.y.isLt; have := o.a.isLt; have := o.b.isLt; simp only [FmtAt.enc]; omega))

theorem EncodeFits.aincw (t : BitVec 6) (o : FmtAt) : EncodeFits.Statement (.aincw t o) :=
  encodeFits_some _ _ _ rfl (ruleWord_lt _ _ _ (by decide) (by have := b2n_le o.rpl; have := o.y.isLt; have := o.a.isLt; have := o.b.isLt; simp only [FmtAt.enc]; omega))

theorem EncodeFits.cpy1 (t : BitVec 6) (o : FmtCpy) : EncodeFits.Statement (.cpy1 t o) :=
  encodeFits_some _ _ _ rfl (ruleWord_lt _ _ _ (by decide) (FmtCpy_enc_lt o))

theorem EncodeFits.cpy2 (t : BitVec 6) (o : FmtCpy) : EncodeFits.Statement (.cpy2 t o) :=
  encodeFits_some _ _ _ rfl (ruleWord_lt _ _ _ (by decide) (by have := o.d.isLt; have := o.a.isLt; have := o.b.isLt; simp only [FmtCpy.enc]; omega))

theorem EncodeFits.cpyg (t : BitVec 6) (o : FmtCpy) : EncodeFits.Statement (.cpyg t o) :=
  encodeFits_some _ _ _ rfl (ruleWord_lt _ _ _ (by decide) (by have := o.d.isLt; have := o.a.isLt; have := o.b.isLt; simp only [FmtCpy.enc]; omega))

theorem EncodeFits.cpys (t : BitVec 6) (o : FmtCpy) : EncodeFits.Statement (.cpys t o) :=
  encodeFits_some _ _ _ rfl (ruleWord_lt _ _ _ (by decide) (by have := o.d.isLt; have := o.a.isLt; have := o.b.isLt; simp only [FmtCpy.enc]; omega))

theorem EncodeFits.cpyf (t : BitVec 6) (o : FmtCpy) : EncodeFits.Statement (.cpyf t o) :=
  encodeFits_some _ _ _ rfl (ruleWord_lt _ _ _ (by decide) (by have := o.d.isLt; have := o.a.isLt; have := o.b.isLt; simp only [FmtCpy.enc]; omega))

theorem EncodeFits.cpyx (t : BitVec 6) (o : FmtDA) : EncodeFits.Statement (.cpyx t o) :=
  encodeFits_some _ _ _ rfl (ruleWord_lt _ _ _ (by decide) (by have := o.d.isLt; have := o.a.isLt; simp only [FmtDA.enc]; omega))

theorem EncodeFits.binit (t : BitVec 6) (o : FmtDAB) : EncodeFits.Statement (.binit t o) :=
  encodeFits_some _ _ _ rfl (ruleWord_lt _ _ _ (by decide) (FmtDAB_enc_lt o))

theorem EncodeFits.barv (t : BitVec 6) (o : FmtDA) : EncodeFits.Statement (.barv t o) :=
  encodeFits_some _ _ _ rfl (ruleWord_lt _ _ _ (by decide) (by have := o.d.isLt; have := o.a.isLt; simp only [FmtDA.enc]; omega))

theorem EncodeFits.bexp (t : BitVec 6) (o : FmtDAB) : EncodeFits.Statement (.bexp t o) :=
  encodeFits_some _ _ _ rfl (ruleWord_lt _ _ _ (by decide) (by have := o.d.isLt; have := o.a.isLt; have := o.b.isLt; simp only [FmtDAB.enc]; omega))

theorem EncodeFits.bwait (t : BitVec 6) (o : FmtDA) : EncodeFits.Statement (.bwait t o) :=
  encodeFits_some _ _ _ rfl (ruleWord_lt _ _ _ (by decide) (by have := o.d.isLt; have := o.a.isLt; simp only [FmtDA.enc]; omega))

theorem EncodeFits.ared (t : BitVec 6) (o : FmtColl) : EncodeFits.Statement (.ared t o) :=
  encodeFits_some _ _ _ rfl (ruleWord_lt _ _ _ (by decide) (FmtColl_enc_lt o))

theorem EncodeFits.rscat (t : BitVec 6) (o : FmtColl) : EncodeFits.Statement (.rscat t o) :=
  encodeFits_some _ _ _ rfl (ruleWord_lt _ _ _ (by decide) (by have := o.d.isLt; have := o.a.isLt; simp only [FmtColl.enc]; omega))

theorem EncodeFits.agath (t : BitVec 6) (o : FmtColl) : EncodeFits.Statement (.agath t o) :=
  encodeFits_some _ _ _ rfl (ruleWord_lt _ _ _ (by decide) (by have := o.d.isLt; have := o.a.isLt; simp only [FmtColl.enc]; omega))

theorem EncodeFits.bcst (t : BitVec 6) (o : FmtColl) : EncodeFits.Statement (.bcst t o) :=
  encodeFits_some _ _ _ rfl (ruleWord_lt _ _ _ (by decide) (by have := o.d.isLt; have := o.a.isLt; simp only [FmtColl.enc]; omega))

theorem EncodeFits.a2a (t : BitVec 6) (o : FmtColl) : EncodeFits.Statement (.a2a t o) :=
  encodeFits_some _ _ _ rfl (ruleWord_lt _ _ _ (by decide) (by have := o.d.isLt; have := o.a.isLt; simp only [FmtColl.enc]; omega))

theorem EncodeFits.cwait (t : BitVec 6) (o : FmtDA) : EncodeFits.Statement (.cwait t o) :=
  encodeFits_some _ _ _ rfl (ruleWord_lt _ _ _ (by decide) (by have := o.d.isLt; have := o.a.isLt; simp only [FmtDA.enc]; omega))

theorem EncodeFits.cabrt (t : BitVec 6) (a : BitVec 5) : EncodeFits.Statement (.cabrt t a) :=
  encodeFits_some _ _ _ rfl (ruleWord_lt _ _ _ (by decide) (by have := a.isLt; omega))

theorem EncodeFits.vget (t : BitVec 6) (d : BitVec 5) : EncodeFits.Statement (.vget t d) :=
  encodeFits_some _ _ _ rfl (ruleWord_lt _ _ _ (by decide) (by have := d.isLt; omega))

theorem EncodeFits.vack (t : BitVec 6) (a : BitVec 5) : EncodeFits.Statement (.vack t a) :=
  encodeFits_some _ _ _ rfl (ruleWord_lt _ _ _ (by decide) (by have := a.isLt; omega))

theorem EncodeFits.vjoin (t : BitVec 6) : EncodeFits.Statement (.vjoin t) :=
  encodeFits_some _ _ _ rfl (ruleWord_lt _ _ _ (by decide) (by decide))

theorem EncodeFits.trap (t : BitVec 6) (a : BitVec 5) : EncodeFits.Statement (.trap t a) :=
  encodeFits_some _ _ _ rfl (ruleWord_lt _ _ _ (by decide) (by have := a.isLt; omega))

theorem EncodeFits.brk (t : BitVec 6) : EncodeFits.Statement (.brk t) :=
  encodeFits_some _ _ _ rfl (ruleWord_lt _ _ _ (by decide) (by decide))

theorem EncodeFits.mark (t : BitVec 6) (a : BitVec 5) : EncodeFits.Statement (.mark t a) :=
  encodeFits_some _ _ _ rfl (ruleWord_lt _ _ _ (by decide) (by have := a.isLt; omega))

theorem EncodeFits.cyc (t : BitVec 6) (d : BitVec 5) : EncodeFits.Statement (.cyc t d) :=
  encodeFits_some _ _ _ rfl (ruleWord_lt _ _ _ (by decide) (by have := d.isLt; omega))

theorem EncodeFits.perf (t : BitVec 6) (o : FmtDA) : EncodeFits.Statement (.perf t o) :=
  encodeFits_some _ _ _ rfl (ruleWord_lt _ _ _ (by decide) (by have := o.d.isLt; have := o.a.isLt; simp only [FmtDA.enc]; omega))

theorem EncodeFits.halt (t : BitVec 6) : EncodeFits.Statement (.halt t) :=
  encodeFits_some _ _ _ rfl (ruleWord_lt _ _ _ (by decide) (by decide))

theorem EncodeFits.mbxput (rd : BitVec 5) (rs1 : BitVec 5) (rs2 : BitVec 5) : EncodeFits.Statement (.mbxput rd rs1 rs2) :=
  encodeFits_some _ _ _ rfl (skerryWord_lt _ _ _ _ _ (by decide) (by decide))

theorem EncodeFits.mbxget (rd : BitVec 5) (rs1 : BitVec 5) (rs2 : BitVec 5) : EncodeFits.Statement (.mbxget rd rs1 rs2) :=
  encodeFits_some _ _ _ rfl (skerryWord_lt _ _ _ _ _ (by decide) (by decide))

theorem EncodeFits.mbxpoll (rd : BitVec 5) (rs1 : BitVec 5) : EncodeFits.Statement (.mbxpoll rd rs1) :=
  encodeFits_some _ _ _ rfl (skerryWord_lt _ _ _ _ _ (by decide) (by decide))

theorem EncodeFits.futld (rd : BitVec 5) (rs1 : BitVec 5) : EncodeFits.Statement (.futld rd rs1) :=
  encodeFits_some _ _ _ rfl (skerryWord_lt _ _ _ _ _ (by decide) (by decide))

theorem EncodeFits.futst (rs1 : BitVec 5) (rs2 : BitVec 5) : EncodeFits.Statement (.futst rs1 rs2) :=
  encodeFits_some _ _ _ rfl (skerryWord_lt _ _ _ _ _ (by decide) (by decide))

theorem EncodeFits.epibeg (rd : BitVec 5) (rs1 : BitVec 5) (rs2 : BitVec 5) : EncodeFits.Statement (.epibeg rd rs1 rs2) :=
  encodeFits_some _ _ _ rfl (skerryWord_lt _ _ _ _ _ (by decide) (by decide))

theorem EncodeFits.epiend (rs1 : BitVec 5) : EncodeFits.Statement (.epiend rs1) :=
  encodeFits_some _ _ _ rfl (skerryWord_lt _ _ _ _ _ (by decide) (by decide))

theorem EncodeFits.wdset (rs1 : BitVec 5) (rs2 : BitVec 5) : EncodeFits.Statement (.wdset rs1 rs2) :=
  encodeFits_some _ _ _ rfl (skerryWord_lt _ _ _ _ _ (by decide) (by decide))

theorem EncodeFits.frzrd (rd : BitVec 5) (rs1 : BitVec 5) : EncodeFits.Statement (.frzrd rd rs1) :=
  encodeFits_some _ _ _ rfl (skerryWord_lt _ _ _ _ _ (by decide) (by decide))

theorem EncodeFits.frzwr (rs1 : BitVec 5) (rs2 : BitVec 5) : EncodeFits.Statement (.frzwr rs1 rs2) :=
  encodeFits_some _ _ _ rfl (skerryWord_lt _ _ _ _ _ (by decide) (by decide))

theorem EncodeFits.segres (rd : BitVec 5) (rs1 : BitVec 5) : EncodeFits.Statement (.segres rd rs1) :=
  encodeFits_some _ _ _ rfl (skerryWord_lt _ _ _ _ _ (by decide) (by decide))

theorem EncodeFits.segrpl (rd : BitVec 5) (rs1 : BitVec 5) : EncodeFits.Statement (.segrpl rd rs1) :=
  encodeFits_some _ _ _ rfl (skerryWord_lt _ _ _ _ _ (by decide) (by decide))

theorem EncodeFits.segkill (rd : BitVec 5) (rs1 : BitVec 5) : EncodeFits.Statement (.segkill rd rs1) :=
  encodeFits_some _ _ _ rfl (skerryWord_lt _ _ _ _ _ (by decide) (by decide))

theorem EncodeFits.launch (w : DockW) : EncodeFits.Statement (.launch w) :=
  encodeFits_some _ _ _ rfl (dock_enc_lt _ _ (by decide))

theorem EncodeFits.waitge (w : DockW) (v : BitVec 64) : EncodeFits.Statement (.waitge w v) :=
  encodeFits_some _ _ _ rfl (dock2_enc_lt _ _ _ (by decide))

theorem EncodeFits.signal (w : DockW) (v : BitVec 64) : EncodeFits.Statement (.signal w v) :=
  encodeFits_some _ _ _ rfl (dock2_enc_lt _ _ _ (by decide))

theorem EncodeFits.semset (w : DockW) (v : BitVec 64) : EncodeFits.Statement (.semset w v) :=
  encodeFits_some _ _ _ rfl (dock2_enc_lt _ _ _ (by decide))

theorem EncodeFits.copyq (w : DockW) : EncodeFits.Statement (.copyq w) :=
  encodeFits_some _ _ _ rfl (dock_enc_lt _ _ (by decide))

theorem EncodeFits.jmp (w : DockW) : EncodeFits.Statement (.jmp w) :=
  encodeFits_some _ _ _ rfl (dock_enc_lt _ _ (by decide))

theorem EncodeFits.loop (w : DockW) : EncodeFits.Statement (.loop w) :=
  encodeFits_some _ _ _ rfl (dock_enc_lt _ _ (by decide))

theorem EncodeFits.irq (w : DockW) : EncodeFits.Statement (.irq w) :=
  encodeFits_some _ _ _ rfl (dock_enc_lt _ _ (by decide))

theorem EncodeFits.dfence (w : DockW) : EncodeFits.Statement (.dfence w) :=
  encodeFits_some _ _ _ rfl (dock_enc_lt _ _ (by decide))

theorem EncodeFits.prio (w : DockW) : EncodeFits.Statement (.prio w) :=
  encodeFits_some _ _ _ rfl (dock_enc_lt _ _ (by decide))

theorem EncodeFits.handoff (w : DockW) (v : BitVec 64) : EncodeFits.Statement (.handoff w v) :=
  encodeFits_some _ _ _ rfl (dock2_enc_lt _ _ _ (by decide))

theorem EncodeFits.balloc (w : DockW) (v : BitVec 64) : EncodeFits.Statement (.balloc w v) :=
  encodeFits_some _ _ _ rfl (dock2_enc_lt _ _ _ (by decide))

theorem EncodeFits.bfree (w : DockW) : EncodeFits.Statement (.bfree w) :=
  encodeFits_some _ _ _ rfl (dock_enc_lt _ _ (by decide))

theorem EncodeFits.flushr (w : DockW) : EncodeFits.Statement (.flushr w) :=
  encodeFits_some _ _ _ rfl (dock_enc_lt _ _ (by decide))

theorem EncodeFits.invr (w : DockW) : EncodeFits.Statement (.invr w) :=
  encodeFits_some _ _ _ rfl (dock_enc_lt _ _ (by decide))

theorem EncodeFits.fwdr (w : DockW) : EncodeFits.Statement (.fwdr w) :=
  encodeFits_some _ _ _ rfl (dock_enc_lt _ _ (by decide))

theorem EncodeFits.dhalt (w : DockW) : EncodeFits.Statement (.dhalt w) :=
  encodeFits_some _ _ _ rfl (dock_enc_lt _ _ (by decide))

theorem EncodeFits.doorbell (v : BitVec 64) : EncodeFits.Statement (.doorbell v) :=
  encodeFits_none _ rfl

theorem EncodeFits.qcfgWrite (v : BitVec 32) : EncodeFits.Statement (.qcfgWrite v) :=
  encodeFits_none _ rfl

theorem EncodeFits.semaphoreWrite (v : BitVec 64) : EncodeFits.Statement (.semaphoreWrite v) :=
  encodeFits_none _ rfl

theorem EncodeFits.preemptRestore (bad : Bool) : EncodeFits.Statement (.preemptRestore bad) :=
  encodeFits_none _ rfl

theorem EncodeFits.prqHeadWrite (v : BitVec 32) : EncodeFits.Statement (.prqHeadWrite v) :=
  encodeFits_none _ rfl

theorem EncodeFits.stateRestore (bad : Bool) : EncodeFits.Statement (.stateRestore bad) :=
  encodeFits_none _ rfl

theorem EncodeFits.cfgerrReload (cacheOk : Bool) (memOk : Bool) : EncodeFits.Statement (.cfgerrReload cacheOk memOk) :=
  encodeFits_none _ rfl

theorem EncodeFits.spareMismatch (at_ : SparePlace) : EncodeFits.Statement (.spareMismatch at_) :=
  encodeFits_none _ rfl

theorem EncodeFits.scrubLine (r : ScrubResult) : EncodeFits.Statement (.scrubLine r) :=
  encodeFits_none _ rfl

theorem EncodeFits.relatchGo (v : BitVec 32) : EncodeFits.Statement (.relatchGo v) :=
  encodeFits_none _ rfl

theorem EncodeFits.scanoutRestore (bad : Bool) : EncodeFits.Statement (.scanoutRestore bad) :=
  encodeFits_none _ rfl

theorem EncodeFits.promoteGo (v : BitVec 32) : EncodeFits.Statement (.promoteGo v) :=
  encodeFits_none _ rfl

theorem EncodeFits.hpcHeadWrite (v : BitVec 32) : EncodeFits.Statement (.hpcHeadWrite v) :=
  encodeFits_none _ rfl

theorem EncodeFits.hpcRelease (v : BitVec 64) : EncodeFits.Statement (.hpcRelease v) :=
  encodeFits_none _ rfl

theorem EncodeFits.copyBytesLand (off : Nat) (len : Nat) : EncodeFits.Statement (.copyBytesLand off len) :=
  encodeFits_none _ rfl

theorem EncodeFits.copyFault (unit : Nat) : EncodeFits.Statement (.copyFault unit) :=
  encodeFits_none _ rfl

theorem EncodeFits.commWrite (off : Nat) (size : Nat) (v : BitVec 64) : EncodeFits.Statement (.commWrite off size v) :=
  encodeFits_none _ rfl

theorem EncodeFits.enclosureAbort (va : Nat) (len : Nat) (acc : AccessKind) : EncodeFits.Statement (.enclosureAbort va len acc) :=
  encodeFits_none _ rfl

theorem EncodeFits.ufstatusRet (v : BitVec 64) : EncodeFits.Statement (.ufstatusRet v) :=
  encodeFits_none _ rfl

theorem EncodeFits.handlerInstall (v : BitVec 32) : EncodeFits.Statement (.handlerInstall v) :=
  encodeFits_none _ rfl

theorem EncodeFits.handlerHwerr (pa : Nat) : EncodeFits.Statement (.handlerHwerr pa) :=
  encodeFits_none _ rfl

theorem EncodeFits.tctlWrite (v : BitVec 32) : EncodeFits.Statement (.tctlWrite v) :=
  encodeFits_none _ rfl

theorem EncodeFits.dumpGo (v : BitVec 32) : EncodeFits.Statement (.dumpGo v) :=
  encodeFits_none _ rfl

theorem EncodeFits.boot (b : BootInfo) : EncodeFits.Statement (.boot b) :=
  encodeFits_none _ rfl

theorem EncodeFits.isleReset (b : IsleBoot) : EncodeFits.Statement (.isleReset b) :=
  encodeFits_none _ rfl

theorem EncodeFits.flitReceive (crcOk : Bool) (f : Flit) : EncodeFits.Statement (.flitReceive crcOk f) :=
  encodeFits_none _ rfl

theorem EncodeFits.hostAccess (h : HostReq) : EncodeFits.Statement (.hostAccess h) :=
  encodeFits_none _ rfl

theorem EncodeFits.dmiAccess (wr : Bool) (v : BitVec 32) : EncodeFits.Statement (.dmiAccess wr v) :=
  encodeFits_none _ rfl

theorem EncodeFits.negotiateAlgorithms (ok : Bool) : EncodeFits.Statement (.negotiateAlgorithms ok) :=
  encodeFits_none _ rfl

theorem EncodeFits.getCertificate (slot : Nat) (off : Nat) (len : Nat) : EncodeFits.Statement (.getCertificate slot off len) :=
  encodeFits_none _ rfl

theorem EncodeFits.finish (sig : Bool) (both : Bool) (root : Nat) : EncodeFits.Statement (.finish sig both root) :=
  encodeFits_none _ rfl

theorem EncodeFits.spdmUnsupportedRequest (code : Nat) : EncodeFits.Statement (.spdmUnsupportedRequest code) :=
  encodeFits_none _ rfl

theorem EncodeFits.accreset (mask : BitVec 64) (at_ : Nat) : EncodeFits.Statement (.accreset mask at_) :=
  encodeFits_none _ rfl

theorem EncodeFits.registerWrite (src : RegSrc) (off : Nat) (size : Nat) (v : BitVec 64) : EncodeFits.Statement (.registerWrite src off size v) :=
  encodeFits_none _ rfl

theorem EncodeFits.linkPortUp (lanes : Nat) (br : Bool) (peer : Nat) : EncodeFits.Statement (.linkPortUp lanes br peer) :=
  encodeFits_none _ rfl

theorem EncodeFits.hartLoadStore (op : HartOp) : EncodeFits.Statement (.hartLoadStore op) :=
  encodeFits_none _ rfl

theorem EncodeFits.skerryIllegalInstruction (w : BitVec 32) : EncodeFits.Statement (.skerryIllegalInstruction w) :=
  encodeFits_some _ _ _ rfl w.isLt

theorem EncodeFits.unassignedDockOp (w : DockW) (op : BitVec 8) : EncodeFits.Statement (.unassignedDockOp w op) :=
  encodeFits_some _ _ _ rfl (dock_enc_lt _ _ op.isLt)

theorem EncodeFits.blockedWordResume : EncodeFits.Statement (.blockedWordResume) :=
  encodeFits_none _ rfl

theorem EncodeFits.waitgeSatisfied : EncodeFits.Statement (.waitgeSatisfied) :=
  encodeFits_none _ rfl

theorem EncodeFits.queueGo : EncodeFits.Statement (.queueGo) :=
  encodeFits_none _ rfl

theorem EncodeFits.queueStop : EncodeFits.Statement (.queueStop) :=
  encodeFits_none _ rfl

theorem EncodeFits.semaphoreMessageReceive : EncodeFits.Statement (.semaphoreMessageReceive) :=
  encodeFits_none _ rfl

theorem EncodeFits.semaphoreAnswerReceive : EncodeFits.Statement (.semaphoreAnswerReceive) :=
  encodeFits_none _ rfl

theorem EncodeFits.semaphoreMessageTimeout : EncodeFits.Statement (.semaphoreMessageTimeout) :=
  encodeFits_none _ rfl

theorem EncodeFits.ringPlace : EncodeFits.Statement (.ringPlace) :=
  encodeFits_none _ rfl

theorem EncodeFits.runDeal : EncodeFits.Statement (.runDeal) :=
  encodeFits_none _ rfl

theorem EncodeFits.taskComplete : EncodeFits.Statement (.taskComplete) :=
  encodeFits_none _ rfl

theorem EncodeFits.edgeInvActions : EncodeFits.Statement (.edgeInvActions) :=
  encodeFits_none _ rfl

theorem EncodeFits.edgeEndActions : EncodeFits.Statement (.edgeEndActions) :=
  encodeFits_none _ rfl

theorem EncodeFits.preempt : EncodeFits.Statement (.preempt) :=
  encodeFits_none _ rfl

theorem EncodeFits.markerGateFire : EncodeFits.Statement (.markerGateFire) :=
  encodeFits_none _ rfl

theorem EncodeFits.bStageIntake : EncodeFits.Statement (.bStageIntake) :=
  encodeFits_none _ rfl

theorem EncodeFits.mmaStart : EncodeFits.Statement (.mmaStart) :=
  encodeFits_none _ rfl

theorem EncodeFits.mmaFoldLand : EncodeFits.Statement (.mmaFoldLand) :=
  encodeFits_none _ rfl

theorem EncodeFits.wharfRequestIssue : EncodeFits.Statement (.wharfRequestIssue) :=
  encodeFits_none _ rfl

theorem EncodeFits.replyLand : EncodeFits.Statement (.replyLand) :=
  encodeFits_none _ rfl

theorem EncodeFits.ldsWake : EncodeFits.Statement (.ldsWake) :=
  encodeFits_none _ rfl

theorem EncodeFits.wcLineDrain : EncodeFits.Statement (.wcLineDrain) :=
  encodeFits_none _ rfl

theorem EncodeFits.atomicApply : EncodeFits.Statement (.atomicApply) :=
  encodeFits_none _ rfl

theorem EncodeFits.repairReentry : EncodeFits.Statement (.repairReentry) :=
  encodeFits_none _ rfl

theorem EncodeFits.inputPortDeliver : EncodeFits.Statement (.inputPortDeliver) :=
  encodeFits_none _ rfl

theorem EncodeFits.outputPortWrite : EncodeFits.Statement (.outputPortWrite) :=
  encodeFits_none _ rfl

theorem EncodeFits.mbxActionWrite : EncodeFits.Statement (.mbxActionWrite) :=
  encodeFits_none _ rfl

theorem EncodeFits.mbxObservationDeliver : EncodeFits.Statement (.mbxObservationDeliver) :=
  encodeFits_none _ rfl

theorem EncodeFits.stagingConfigure : EncodeFits.Statement (.stagingConfigure) :=
  encodeFits_none _ rfl

theorem EncodeFits.stripeResident : EncodeFits.Statement (.stripeResident) :=
  encodeFits_none _ rfl

theorem EncodeFits.stripeEvict : EncodeFits.Statement (.stripeEvict) :=
  encodeFits_none _ rfl

theorem EncodeFits.statefulSave : EncodeFits.Statement (.statefulSave) :=
  encodeFits_none _ rfl

theorem EncodeFits.passBufferReplay : EncodeFits.Statement (.passBufferReplay) :=
  encodeFits_none _ rfl

theorem EncodeFits.configCacheFill : EncodeFits.Statement (.configCacheFill) :=
  encodeFits_none _ rfl

theorem EncodeFits.stall : EncodeFits.Statement (.stall) :=
  encodeFits_none _ rfl

theorem EncodeFits.freezeStop : EncodeFits.Statement (.freezeStop) :=
  encodeFits_none _ rfl

theorem EncodeFits.handlerRecordWrite : EncodeFits.Statement (.handlerRecordWrite) :=
  encodeFits_none _ rfl

theorem EncodeFits.commitStop : EncodeFits.Statement (.commitStop) :=
  encodeFits_none _ rfl

theorem EncodeFits.containmentSequence : EncodeFits.Statement (.containmentSequence) :=
  encodeFits_none _ rfl

theorem EncodeFits.spareMove : EncodeFits.Statement (.spareMove) :=
  encodeFits_none _ rfl

theorem EncodeFits.spareReplace : EncodeFits.Statement (.spareReplace) :=
  encodeFits_none _ rfl

theorem EncodeFits.stripeDisable : EncodeFits.Statement (.stripeDisable) :=
  encodeFits_none _ rfl

theorem EncodeFits.healthThresholdCross : EncodeFits.Statement (.healthThresholdCross) :=
  encodeFits_none _ rfl

theorem EncodeFits.vholdExpire : EncodeFits.Statement (.vholdExpire) :=
  encodeFits_none _ rfl

theorem EncodeFits.relatchComplete : EncodeFits.Statement (.relatchComplete) :=
  encodeFits_none _ rfl

theorem EncodeFits.promoteComplete : EncodeFits.Statement (.promoteComplete) :=
  encodeFits_none _ rfl

theorem EncodeFits.copyResume : EncodeFits.Statement (.copyResume) :=
  encodeFits_none _ rfl

theorem EncodeFits.copyTimeout : EncodeFits.Statement (.copyTimeout) :=
  encodeFits_none _ rfl

theorem EncodeFits.bwaitWake : EncodeFits.Statement (.bwaitWake) :=
  encodeFits_none _ rfl

theorem EncodeFits.collFlitReceive : EncodeFits.Statement (.collFlitReceive) :=
  encodeFits_none _ rfl

theorem EncodeFits.collComplete : EncodeFits.Statement (.collComplete) :=
  encodeFits_none _ rfl

theorem EncodeFits.cwaitWake : EncodeFits.Statement (.cwaitWake) :=
  encodeFits_none _ rfl

theorem EncodeFits.collAbortReceive : EncodeFits.Statement (.collAbortReceive) :=
  encodeFits_none _ rfl

theorem EncodeFits.coltoutExpire : EncodeFits.Statement (.coltoutExpire) :=
  encodeFits_none _ rfl

theorem EncodeFits.heartbeatSend : EncodeFits.Statement (.heartbeatSend) :=
  encodeFits_none _ rfl

theorem EncodeFits.suspectTimeout : EncodeFits.Statement (.suspectTimeout) :=
  encodeFits_none _ rfl

theorem EncodeFits.fatalReportReceive : EncodeFits.Statement (.fatalReportReceive) :=
  encodeFits_none _ rfl

theorem EncodeFits.suspectReceive : EncodeFits.Statement (.suspectReceive) :=
  encodeFits_none _ rfl

theorem EncodeFits.proposeReceive : EncodeFits.Statement (.proposeReceive) :=
  encodeFits_none _ rfl

theorem EncodeFits.ackReceive : EncodeFits.Statement (.ackReceive) :=
  encodeFits_none _ rfl

theorem EncodeFits.proposeTimerExpire : EncodeFits.Statement (.proposeTimerExpire) :=
  encodeFits_none _ rfl

theorem EncodeFits.preparedTimerExpire : EncodeFits.Statement (.preparedTimerExpire) :=
  encodeFits_none _ rfl

theorem EncodeFits.commitReceive : EncodeFits.Statement (.commitReceive) :=
  encodeFits_none _ rfl

theorem EncodeFits.joinSend : EncodeFits.Statement (.joinSend) :=
  encodeFits_none _ rfl

theorem EncodeFits.joinReceive : EncodeFits.Statement (.joinReceive) :=
  encodeFits_none _ rfl

theorem EncodeFits.bindingPromote : EncodeFits.Statement (.bindingPromote) :=
  encodeFits_none _ rfl

theorem EncodeFits.watchdogCycleExpire : EncodeFits.Statement (.watchdogCycleExpire) :=
  encodeFits_none _ rfl

theorem EncodeFits.watchdogRoundtripExpire : EncodeFits.Statement (.watchdogRoundtripExpire) :=
  encodeFits_none _ rfl

theorem EncodeFits.abortRecordQueue : EncodeFits.Statement (.abortRecordQueue) :=
  encodeFits_none _ rfl

theorem EncodeFits.userTrap : EncodeFits.Statement (.userTrap) :=
  encodeFits_none _ rfl

theorem EncodeFits.futldWake : EncodeFits.Statement (.futldWake) :=
  encodeFits_none _ rfl

theorem EncodeFits.traceSample : EncodeFits.Statement (.traceSample) :=
  encodeFits_none _ rfl

theorem EncodeFits.cutRecord : EncodeFits.Statement (.cutRecord) :=
  encodeFits_none _ rfl

theorem EncodeFits.dumpWrite : EncodeFits.Statement (.dumpWrite) :=
  encodeFits_none _ rfl

theorem EncodeFits.dumpFinish : EncodeFits.Statement (.dumpFinish) :=
  encodeFits_none _ rfl

theorem EncodeFits.powerLoss : EncodeFits.Statement (.powerLoss) :=
  encodeFits_none _ rfl

theorem EncodeFits.thermalThrottle : EncodeFits.Statement (.thermalThrottle) :=
  encodeFits_none _ rfl

theorem EncodeFits.thermalTrip : EncodeFits.Statement (.thermalTrip) :=
  encodeFits_none _ rfl

theorem EncodeFits.linkPortDown : EncodeFits.Statement (.linkPortDown) :=
  encodeFits_none _ rfl

theorem EncodeFits.mrExtend : EncodeFits.Statement (.mrExtend) :=
  encodeFits_none _ rfl

theorem EncodeFits.getVersion : EncodeFits.Statement (.getVersion) :=
  encodeFits_none _ rfl

theorem EncodeFits.getCapabilities : EncodeFits.Statement (.getCapabilities) :=
  encodeFits_none _ rfl

theorem EncodeFits.getDigests : EncodeFits.Statement (.getDigests) :=
  encodeFits_none _ rfl

theorem EncodeFits.challenge : EncodeFits.Statement (.challenge) :=
  encodeFits_none _ rfl

theorem EncodeFits.getMeasurements : EncodeFits.Statement (.getMeasurements) :=
  encodeFits_none _ rfl

theorem EncodeFits.keyExchange : EncodeFits.Statement (.keyExchange) :=
  encodeFits_none _ rfl

theorem EncodeFits.endSession : EncodeFits.Statement (.endSession) :=
  encodeFits_none _ rfl

theorem EncodeFits.accountingClear : EncodeFits.Statement (.accountingClear) :=
  encodeFits_none _ rfl

theorem EncodeFits.heartbeatReceive : EncodeFits.Statement (.heartbeatReceive) :=
  encodeFits_none _ rfl

theorem EncodeFits.throtClear : EncodeFits.Statement (.throtClear) :=
  encodeFits_none _ rfl

theorem EncodeFits.mmaOccupancyEnd : EncodeFits.Statement (.mmaOccupancyEnd) :=
  encodeFits_none _ rfl

end Sys2Proof.Laws
end

