-- ==== Sys2Proof/Laws/Rules.lean ====
section
/-! SUPPORT. What the shared operations of a firing rule can do: they change the segment of the step and nothing else. -/

namespace Sys2Proof.Laws

open Sys2Proof.Machine

/-! ## Composition -/

theorem onSeg_onSeg (s : State) (n k : Nat) (f g : Seg → Seg) : (s.onSeg n k g).onSeg n k f = s.onSeg n k fun x => f (g x) := by
  have h : ∀ r : Ring, (r.onSeg g).onSeg f = r.onSeg fun x => f (g x) := by
    intro r
    simp [Ring.onSeg, Option.map_map, Function.comp_def]
  simp only [State.onSeg, State.onRing, onIsle_onIsle]
  congr 1
  funext i
  simp only [Isle.onRing, upd_upd, h]

theorem onSeg_id (s : State) (n k : Nat) : s.onSeg n k (fun x => x) = s := by
  have h1 : (fun r : Ring => r.onSeg fun x => x) = fun r => r := by
    funext r
    cases r with
    | mk _ _ _ _ sg => cases sg <;> rfl
  have h2 : (fun i : Isle => i.onRing k fun r => r.onSeg fun x => x) = fun i => i := by
    funext i
    simp only [Isle.onRing, h1, upd_id]
  simp only [State.onSeg, State.onRing, h2, State.onIsle, upd_id]

theorem segOnly_refl (s : State) : SegOnly s s := ⟨fun x => x, (onSeg_id _ _ _).symm⟩

theorem segOnly_step (s u : State) (f : Seg → Seg) (h : SegOnly s u) : SegOnly s (u.onCurSeg f) := by
  obtain ⟨g, rfl⟩ := h
  exact ⟨fun x => f (g x), onSeg_onSeg _ _ _ _ _⟩

theorem segOnly_trans (s u v : State) (h : SegOnly s u) (h' : SegOnly u v) : SegOnly s v := by
  obtain ⟨f, rfl⟩ := h'
  exact segOnly_step _ _ _ h

/-! ## What follows from it -/

theorem segOnly_mem (s u : State) (h : SegOnly s u) : SameMemory s u := by
  obtain ⟨f, rfl⟩ := h
  exact ⟨fun _ => rfl, rfl, rfl⟩

theorem segOnly_isle_ne (s u : State) (h : SegOnly s u) (n : Nat) (hn : s.cur.n ≠ n) : u.isle n = s.isle n := by
  obtain ⟨f, rfl⟩ := h
  exact isle_onIsle_ne _ _ _ _ hn

/-! ## The shared operations -/

theorem segOnly_onCurElem (s : State) (f : Elem → Elem) : SegOnly s (s.onCurElem f) := ⟨_, rfl⟩

theorem segOnly_begin (s : State) (t : BitVec 6) (rds : List Rd) : SegOnly s (s.begin t rds) := segOnly_onCurElem _ _

theorem segOnly_markFired (s : State) (rds : List Rd) : SegOnly s (s.markFired rds) := segOnly_onCurElem _ _

theorem segOnly_faultRule (s : State) (r : Rec) : SegOnly s (s.faultRule r) := ⟨_, rfl⟩

theorem segOnly_putTok (s : State) (k : Nat) (kd : Kind) (v : Val) : SegOnly s (s.putTok k kd v) := ⟨_, rfl⟩

theorem segOnly_putNull (s : State) (k : Nat) (vs : List Val) : SegOnly s (s.putNull k vs) := segOnly_putTok _ _ _ _

theorem segOnly_putNullLike (s : State) (k : Nat) (vs : List Val) : SegOnly s (s.putNullLike k vs) := segOnly_putTok _ _ _ _

theorem segOnly_putP (s : State) (d : Nat) (x : W16) : SegOnly s (s.putP d x) := segOnly_onCurElem _ _

theorem segOnly_putD (s : State) (d : Nat) (v : Val) (m : Nat) : SegOnly s (s.putD d v m) := by
  unfold State.putD
  split
  · exact segOnly_onCurElem _ _
  · split
    · exact segOnly_putTok _ _ _ _
    · exact segOnly_refl _

theorem segOnly_raiseFlags (s : State) (n : Nat) : SegOnly s (s.raiseFlags n) := segOnly_onCurElem _ _

theorem segOnly_vecBusy (s : State) (n : Nat) : SegOnly s (s.vecBusy n) := by
  unfold State.vecBusy
  split
  · exact segOnly_refl _
  · exact segOnly_onCurElem _ _

theorem segOnly_srAdvance (s : State) (b : Bool) : SegOnly s (s.srAdvance b) := by
  unfold State.srAdvance
  split
  · exact segOnly_onCurElem _ _
  · exact segOnly_refl _

theorem segOnly_arith (s : State) (p : Bool) (m : W16) (fl : Nat → Nat) : SegOnly s (s.arith p m fl) := by
  unfold State.arith
  split
  · exact segOnly_refl _
  · dsimp only
    split
    · exact segOnly_raiseFlags _ _
    · exact segOnly_trans _ _ _ (segOnly_raiseFlags _ _) (segOnly_faultRule _ _)

theorem segOnly_putF (s : State) (d m : Nat) (vs : List Val) (res : Nat → FRes) : SegOnly s (s.putF d m vs res) :=
  segOnly_trans _ _ _ (segOnly_arith _ _ _ _) (segOnly_putD _ _ _ _)

theorem segOnly_foldl {α : Type} (f : State → α → State) (hf : ∀ s x, SegOnly s (f s x)) (l : List α) (s : State) :
    SegOnly s (l.foldl f s) := by
  induction l generalizing s with
  | nil => exact segOnly_refl _
  | cons x r ih => exact segOnly_trans _ _ _ (hf s x) (ih _)

theorem segOnly_putNulls (s : State) (outs : List Nat) (vs : List Val) : SegOnly s (s.putNulls outs vs) :=
  segOnly_foldl _ (fun _ _ => segOnly_putNull _ _ _) _ _

theorem segOnly_nullFire (s : State) (t : BitVec 6) (rds : List Rd) (outs : List Nat) : SegOnly s (s.nullFire t rds outs) :=
  segOnly_trans _ _ _ (segOnly_begin _ _ _) (segOnly_putNulls _ _ _)

/-- A firing changes the segment alone when its own effect does. -/
theorem segOnly_fire (s : State) (t : BitVec 6) (rds : List Rd) (outs : List Nat) (eff : List Val → State → State)
    (h : ∀ vs x, SegOnly x (eff vs x)) : SegOnly s (s.fire t rds outs eff) := by
  unfold State.fire
  split
  · exact segOnly_nullFire _ _ _ _
  · exact segOnly_trans _ _ _ (segOnly_begin _ _ _) (h _ _)

/-- A firing that keeps the vector unit busy changes the segment alone when its own effect does. -/
theorem segOnly_fireV (s : State) (busy : Nat) (t : BitVec 6) (rds : List Rd) (outs : List Nat) (eff : List Val → State → State)
    (h : ∀ vs x, SegOnly x (eff vs x)) : SegOnly s (s.fireV busy t rds outs eff) := by
  unfold State.fireV
  split
  · exact segOnly_trans _ _ _ (segOnly_nullFire _ _ _ _) (segOnly_vecBusy _ _)
  · exact segOnly_trans _ _ _ (segOnly_trans _ _ _ (segOnly_begin _ _ _) (segOnly_vecBusy _ _)) (h _ _)

theorem segOnly_markerFault (s : State) (rds : List Rd) (c : Nat) (o : Option Val) : SegOnly s (s.markerFault rds c o) :=
  segOnly_trans _ _ _ (segOnly_markFired _ _) (segOnly_faultRule _ _)

theorem segOnly_containRule (s : State) (rds : List Rd) (c : Nat) : SegOnly s (s.containRule rds c) :=
  segOnly_trans _ _ _ (segOnly_markFired _ _) (segOnly_faultRule _ _)

/-! ## What a firing sees: the start of the cycle (R4) -/

theorem seg_onCurSeg (s : State) (f : Seg → Seg) (h : s.HasSeg) : (s.onCurSeg f).seg s.cur.n s.cur.k = (s.seg s.cur.n s.cur.k).map f :=
  seg_onSeg_same _ _ _ _ h.1 h.2.1

theorem segD_onCurSeg (s : State) (f : Seg → Seg) (h : s.HasSeg) :
    (s.onCurSeg f).segD s.cur.n s.cur.k = f (s.segD s.cur.n s.cur.k) := by
  obtain ⟨g, hg⟩ := Option.isSome_iff_exists.1 h.2.2
  simp only [State.segD, seg_onCurSeg _ _ h, hg, Option.map_some, Option.getD_some]

/-- The segment of the step still stands after a change to it. -/
theorem hasSeg_onCurSeg (s : State) (f : Seg → Seg) (h : s.HasSeg) : (s.onCurSeg f).HasSeg := by
  refine ⟨?_, ?_, ?_⟩
  · show s.cur.n < (s.onCurSeg f).isles.length
    simp only [State.onCurSeg, State.onSeg, State.onRing, isles_length_onIsle]
    exact h.1
  · show s.cur.k < ((s.onCurSeg f).isle s.cur.n).rings.length
    simp only [State.onCurSeg, State.onSeg, State.onRing]
    rw [isle_onIsle_same _ _ _ h.1]
    simp only [Isle.onRing, length_upd]
    exact h.2.1
  · show ((s.onCurSeg f).seg s.cur.n s.cur.k).isSome = true
    rw [seg_onCurSeg _ _ h]
    simpa using h.2.2

/-- A change of the live part leaves what rules read. -/
theorem view_onCurSeg (s : State) (f : Seg → Seg) (h : s.HasSeg)
    (hs : (f (s.segD s.cur.n s.cur.k)).start = (s.segD s.cur.n s.cur.k).start)
    (hi : (f (s.segD s.cur.n s.cur.k)).image = (s.segD s.cur.n s.cur.k).image) : (s.onCurSeg f).view = s.view := by
  have e : (s.onCurSeg f).view = ((s.onCurSeg f).segD s.cur.n s.cur.k).viewOf ((s.onCurSeg f).segD s.cur.n s.cur.k).start s.cur.p s.cur.e := rfl
  rw [e, segD_onCurSeg _ _ h, hs]
  simp only [State.view, Seg.viewOf, Seg.crossIn, hi]

theorem view_onCurElem (s : State) (f : Elem → Elem) (h : s.HasSeg) : (s.onCurElem f).view = s.view := view_onCurSeg _ _ h rfl rfl

theorem view_begin (s : State) (t : BitVec 6) (rds : List Rd) (h : s.HasSeg) : (s.begin t rds).view = s.view := view_onCurElem _ _ h

theorem view_vecBusy (s : State) (n : Nat) (h : s.HasSeg) : (s.vecBusy n).view = s.view := by
  unfold State.vecBusy
  split
  · rfl
  · exact view_onCurElem _ _ h

/-! ## The live element after a change -/

theorem liveElem_onCurElem (s : State) (f : Elem → Elem) (h : s.HasElem) : (s.onCurElem f).liveElem = f s.liveElem := by
  have e : (s.onCurElem f).liveElem = ((s.onCurElem f).segD s.cur.n s.cur.k).live.elem s.cur.p s.cur.e := rfl
  rw [e]
  unfold State.onCurElem
  rw [segD_onCurSeg _ _ h.1]
  exact elem_onElem_same _ _ _ _ h.2.1 h.2.2.1

theorem hasElem_onCurElem (s : State) (f : Elem → Elem) (h : s.HasElem) (hv : (f s.liveElem).v.length = 16)
    (hp : (f s.liveElem).pred.length = 8) (hc : (f s.liveElem).ctr.length = 2) : (s.onCurElem f).HasElem := by
  have hl := liveElem_onCurElem s f h
  refine ⟨hasSeg_onCurSeg _ _ h.1, ?_, ?_, ?_, ?_, ?_⟩
  · show s.cur.p < ((s.onCurElem f).segD s.cur.n s.cur.k).live.stripes.length
    unfold State.onCurElem
    rw [segD_onCurSeg _ _ h.1]
    simp only [Seg.onElem, Seg.onLive, Core.onElem, Core.onStripe, length_upd]
    exact h.2.1
  · show s.cur.e < (((s.onCurElem f).segD s.cur.n s.cur.k).live.stripe s.cur.p).elems.length
    unfold State.onCurElem
    rw [segD_onCurSeg _ _ h.1]
    simp only [Seg.onElem, Seg.onLive, Core.onElem]
    rw [stripe_onStripe_same _ _ _ h.2.1]
    simp only [Stripe.onElem, length_upd]
    exact h.2.2.1
  · rw [hl]; exact hv
  · rw [hl]; exact hp
  · rw [hl]; exact hc

theorem begin_lengths (st lv : Elem) (j : Nat) (t : BitVec 6) (rds : List Rd) :
    (st.begin lv j t rds).v.length = lv.v.length ∧ (st.begin lv j t rds).pred = lv.pred ∧ (st.begin lv j t rds).ctr = lv.ctr := by
  exact ⟨rfl, rfl, rfl⟩

theorem hasElem_begin (s : State) (t : BitVec 6) (rds : List Rd) (h : s.HasElem) : (s.begin t rds).HasElem := by
  have hb := begin_lengths s.view s.liveElem s.cur.j t rds
  exact hasElem_onCurElem _ _ h (hb.1.trans h.2.2.2.1) (by rw [hb.2.1]; exact h.2.2.2.2.1) (by rw [hb.2.2]; exact h.2.2.2.2.2)

theorem hasElem_vecBusy (s : State) (n : Nat) (h : s.HasElem) : (s.vecBusy n).HasElem := by
  unfold State.vecBusy
  split
  · exact h
  · exact hasElem_onCurElem _ _ h h.2.2.2.1 h.2.2.2.2.1 h.2.2.2.2.2

/-! ## A value put to a destination (R29, R67, R111) -/

theorem tb_allOnes (k : Nat) (h : k < 16) : tb (0xFFFF : W16) k = true := by
  have : k = 0 ∨ k = 1 ∨ k = 2 ∨ k = 3 ∨ k = 4 ∨ k = 5 ∨ k = 6 ∨ k = 7 ∨ k = 8 ∨ k = 9 ∨ k = 10 ∨ k = 11 ∨ k = 12 ∨ k = 13 ∨
      k = 14 ∨ k = 15 := by omega
  rcases this with rfl | rfl | rfl | rfl | rfl | rfl | rfl | rfl | rfl | rfl | rfl | rfl | rfl | rfl | rfl | rfl <;> rfl

/-- The register that `putD` writes. -/
theorem putD_reg (s : State) (d m : Nat) (v : Val) (h : s.HasElem) (hd : d < 16) :
    (s.putD d v m).liveElem.vreg d =
      { lanes := Lanes.ofFn fun k => if tb (s.view.maskBits m) k then v.lanes.get k else (s.view.vreg d).lanes.get k
        pres := true, pois := v.pois || (s.view.maskBits m != 0xFFFF && (s.view.vreg d).pois)
        seqv := v.seqv, seq := if v.seqv then v.seq else 0, wr := true } := by
  simp only [State.putD, if_pos hd]
  rw [liveElem_onCurElem _ _ h]
  simp only [Elem.writeV, Elem.vreg, Elem.keepPres]
  rw [nth_upd_same _ _ _ _ (by rw [h.2.2.2.1]; exact hd)]

/-- The token that `putD` sends. -/
theorem putD_chan (s : State) (d m : Nat) (v : Val) (h0 : 20 ≤ d) (h1 : d < 24) : s.putD d v m = s.putTok (d - 20) .data v := by
  unfold State.putD
  rw [if_neg (by omega), if_pos ⟨h0, h1⟩]

theorem putD_none (s : State) (d m : Nat) (v : Val) (h0 : ¬d < 16) (h1 : ¬(20 ≤ d ∧ d < 24)) : s.putD d v m = s := by
  unfold State.putD
  rw [if_neg h0, if_neg h1]

theorem sealed_ok (t : Token) : t.sealed.chkOk = true := by
  simp [Token.sealed, Token.chkOk, Token.crc, Token.tag24]

/-- `putD` writes what a rule's result says (R62 to R67, R111). -/
theorem writes_putD (s pre : State) (d m : Nat) (vs : List Val) (v : Val) (pois : Bool) (lane : Nat → W) (h : pre.HasElem)
    (hv : pre.view = s.view) (hc : pre.cur = s.cur) (hl : ∀ k, k < 16 → v.lanes.get k = lane k) (hp : v.pois = pois)
    (hs : (v.seqv, if v.seqv then v.seq else 0) = outTag vs) : Writes s pre (pre.putD d v m) d m vs pois lane := by
  refine ⟨fun hd => ?_, fun h0 h1 => ?_, fun h0 h1 => ?_⟩
  · have e := putD_reg pre d m v h hd
    refine ⟨fun k hk => ?_, by rw [e], by rw [e], by rw [e, hv, hp], by rw [e]; exact hs⟩
    rw [e]
    dsimp only
    rw [lanes_get_ofFn _ _ hk, hv, hl k hk]
  · rw [putD_chan _ _ _ _ h0 h1]
    refine ⟨(⟨v.lanes, .data, s.view.outType (d - 20), v.pois, v.seqv, if v.seqv then v.seq else 0, 0⟩ : Token).sealed, rfl, hl, rfl,
      hp, hs, sealed_ok _, ?_⟩
    unfold State.putTok
    rw [hc, hv]
    cases v.pois <;> cases v.seqv <;> rfl
  · exact putD_none _ _ _ _ h0 h1

theorem outTag_seq (vs : List Val) : ((outTag vs).1, if (outTag vs).1 then (outTag vs).2 else 0) = outTag vs := by
  unfold outTag
  split
  · simp
  · rfl

/-- A rule whose reads hold no null has its own effect (R70). -/
theorem fire_eff (s : State) (t : BitVec 6) (rds : List Rd) (outs : List Nat) (eff : List Val → State → State)
    (h : NoNull s (rds.map (·.code))) : s.fire t rds outs eff = eff (rds.map fun r => s.view.src r.code) (s.begin t rds) := by
  have : s.nullRead rds = false := by
    simp only [State.nullRead, List.any_eq_false, Bool.not_eq_true]
    intro r hr
    exact h _ (List.mem_map.2 ⟨r, hr, rfl⟩)
  unfold State.fire
  rw [this]
  rfl

/-- The same of a rule that keeps the vector unit busy. -/
theorem fireV_eff (s : State) (busy : Nat) (t : BitVec 6) (rds : List Rd) (outs : List Nat) (eff : List Val → State → State)
    (h : NoNull s (rds.map (·.code))) :
    s.fireV busy t rds outs eff = eff (rds.map fun r => s.view.src r.code) ((s.begin t rds).vecBusy busy) := by
  have : s.nullRead rds = false := by
    simp only [State.nullRead, List.any_eq_false, Bool.not_eq_true]
    intro r hr
    exact h _ (List.mem_map.2 ⟨r, hr, rfl⟩)
  unfold State.fireV
  rw [this]
  rfl

end Sys2Proof.Laws
end

