-- ==== Sys2Proof/Tests/Slice0.lean ====
section
/-! SUPPORT. Tests: ill-formed terms that each check refuses, words of the spec's examples decoded, steps with results that the
spec's examples give, and for each obligation states that meet its hypotheses. -/

namespace Sys2Proof.Tests

open Sys2Proof.Machine

set_option Elab.async false

/-! ## Ill-formed terms -/

/-- R25: a reserved guard selector. -/
theorem test_wf_selector : Instr.wf (.nop 0x20) = false ∧ Instr.wf (.nop 0x3D) = false ∧ Instr.wf (.nop 0x1F) = true ∧ Instr.wf (.nop 0x3E) = true := by
  decide

/-- R27, R29: a destination code, a keep bit and a lane mask out of place. -/
theorem test_wf_operands :
    Instr.wf (.mov 0x3E ⟨16, 0⟩) = false ∧ Instr.wf (.mov 0x3E ⟨29, 0⟩) = false ∧ Instr.wf (.mov 0x3E ⟨28, 0⟩) = true ∧
    Instr.wf (.add 0x3E ⟨2, 0, 1, true, false, 0⟩) = false ∧ Instr.wf (.add 0x3E ⟨2, 0, 1, false, true, 0⟩) = false ∧
    Instr.wf (.add 0x3E ⟨20, 0, 1, false, false, 1⟩) = false ∧ Instr.wf (.add 0x3E ⟨15, 16, 19, true, true, 3⟩) = true ∧
    Instr.wf (.ld 0x3E ⟨28, 0, 0, 0, 0, false⟩) = false ∧ Instr.wf (.emit 0x3E 19 false) = false := by decide

/-- R89: STEER, MERGE, SPLIT4 and PICK4. -/
theorem test_wf_tokens :
    Instr.wf (.steer 0x3E ⟨1, 0, 1, 0, false⟩) = false ∧ Instr.wf (.merge 0x3E ⟨0, 1, 1, 0⟩) = false ∧
    Instr.wf (.split4 0x3E ⟨false, 0, 0, 0, false, false⟩) = false ∧ Instr.wf (.pick4 0x3E ⟨0, 0, 0, false⟩) = false := by decide

/-- R114: SHI of kind 3 and SLIDE by 16. -/
theorem test_wf_vector :
    Instr.wf (.shi 0x3E ⟨0, 0, 3, 0, false⟩) = false ∧ Instr.wf (.slide 0x3E ⟨0, 0, 16, false⟩) = false ∧
    Instr.wf (.slide 0x3E ⟨0, 0, -16, false⟩) = false ∧ Instr.wf (.slide 0x3E ⟨0, 0, -15, false⟩) = true := by decide

/-- R138, R152 to R155: conversions of a pair that none has, without SAT, or with a part out of range. -/
theorem test_wf_conversions :
    Instr.wf (.cvt 0x3E ⟨0, 0, 2, 3, false⟩) = false ∧ Instr.wf (.cvt 0x3E ⟨0, 0, 1, 6, false⟩) = false ∧
    Instr.wf (.cvtmx 0x3E ⟨0, 0, 1, true, 5⟩) = false ∧ Instr.wf (.unpmx 0x3E ⟨0, 0, 1, 5⟩) = false ∧
    Instr.wf (.fpack 0x3E ⟨0, 0, 2, 2⟩) = false ∧ Instr.wf (.funpk 0x3E ⟨0, 0, 4, 4⟩) = false := by decide

/-- R176, R179: matrix rules. -/
theorem test_wf_matrix :
    Instr.wf (.plws 0x3E ⟨0, 0, 0, 0, false⟩) = false ∧ Instr.wf (.accrd 0x3E ⟨0, 0, 6, true, false⟩) = false ∧
    Instr.wf (.accrd 0x3E ⟨0, 0, 13, false, false⟩) = false ∧ Instr.wf (.accwr 0x3E ⟨0, 0, 4, false⟩) = false := by decide

/-- R222, R234, R251, R259: memory and atomic rules. -/
theorem test_wf_memory :
    Instr.wf (.srd 0x3E ⟨0, false, 0, 0, 1⟩) = false ∧ Instr.wf (.swr 0x3E ⟨0, false, 0, 0, 1⟩) = false ∧ Instr.wf (.agn 0x3E false 0) = false ∧
    Instr.wf (.fence 0x3E 0) = false ∧ Instr.wf (.fence 0x3E 7) = false ∧ Instr.wf (.aadd 0x3E ⟨false, 1, 0, 0⟩) = false ∧
    Instr.wf (.acas 0x3E false 1 0 0) = false := by decide

/-- R51, R52: a dock word for each rule of its operand. -/
theorem test_wf_dock :
    Instr.wf (.launch ⟨0, 1, false, 0⟩) = false ∧ Instr.wf (.launch ⟨0, 0, false, 8⟩) = false ∧ Instr.wf (.waitge ⟨0, 0, false, 40 * 256⟩ 0) = false ∧
    Instr.wf (.copyq ⟨0, 0, false, 32⟩) = false ∧ Instr.wf (.jmp ⟨0, 0, false, 4⟩) = false ∧ Instr.wf (.loop ⟨0, 0, false, 3⟩) = false ∧
    Instr.wf (.irq ⟨0, 0, false, 0x2000⟩) = false ∧ Instr.wf (.dfence ⟨0, 0, false, 7⟩) = false ∧ Instr.wf (.prio ⟨0, 0, false, 4⟩) = false ∧
    Instr.wf (.handoff ⟨0, 0, false, 0x100000000⟩ 0) = false ∧ Instr.wf (.balloc ⟨0, 0, false, 0⟩ 0xC000000000000000) = false ∧
    Instr.wf (.bfree ⟨0, 0, false, 0x100000000⟩) = false ∧ Instr.wf (.flushr ⟨0, 0, false, 8⟩) = false ∧ Instr.wf (.dhalt ⟨0, 0, false, 1⟩) = false ∧
    Instr.wf (.unassignedDockOp ⟨0, 0, false, 0⟩ 0x11) = false := by decide

/-- R54: a word that is a custom instruction. -/
theorem test_wf_skerry :
    Instr.wf (.skerryIllegalInstruction 0x00B5000B) = false ∧ Instr.wf (.skerryIllegalInstruction 0x13) = false ∧
    Instr.wf (.skerryIllegalInstruction 0x02B5000B) = true := by decide

/-! ## Words of the spec's encodings -/

/-- Each rule word decodes to its instruction. -/
def decodes (l : List (Nat × Instr)) : Bool := l.all fun x => (decodeRule x.1).toOption == some x.2

/-- R59: FADD v2, i0, v2 under g3; ADD.m1 v3, i1, c2; LD.c1.p2 v4, v3 under g5. -/
theorem test_decode_example : decodes [(0x0DF8A020, .fadd 3 ⟨2, 16, 2, false, false, 0⟩), (0xF898E361, .add 0x3E ⟨3, 17, 22, false, false, 1⟩),
    (0x17390690, .ld 5 ⟨4, 3, 1, 2, 0, false⟩)] = true := by decide

/-- R89's examples. -/
theorem test_decode_token : decodes [(0xF82502A0, .steer 0x3E ⟨0, 1, 1, 2, false⟩), (0xF82D2110, .merge 0x3E ⟨20, 0, 1, 0⟩),
    (0xF837E020, .split4 0x3E ⟨true, 15, 16, 2, false, false⟩), (0x04470003, .emit 1 28 true), (0xF8484001, .cnt 0x3E true true),
    (0x105DA114, .rep 4 ⟨2, 16, 17, false, true⟩), (0xF86549F0, .seqt 0x3E ⟨21, 4, 31, false, false, 0⟩), (0xF86D2000, .reord 0x3E 20 0),
    (0x08700001, .sig 2 true), (0xF880CC78, .plog 0x3E ⟨3, 6, 7, 8⟩), (0xF8914000, .slots 0x3E 5)] = true := by decide

/-- R114's examples. -/
theorem test_decode_integer : decodes [(0xF8B04430, .adds 0x3E ⟨1, 2, 3, false, false, 0⟩), (0xF8A909FA, .addi 0x3E ⟨4, 4, -3, false⟩),
    (0xF919611D, .shi 0x3E ⟨5, 16, 2, 7, true⟩), (0x0970C340, .cmplt 2 ⟨3, 1, 20, false, false⟩),
    (0xF95983C2, .sel 0x3E ⟨6, 1, 28, false, false, 2⟩), (0xF991FF9C, .li 0x3E 7 (-100)), (0xF9D201FE, .slide 0x3E ⟨8, 0, -1, false⟩),
    (0xF9C56412, .bcast 0x3E ⟨21, 18, 9, false⟩), (0xF9F24201, .scan 0x3E ⟨9, 1, false, 1⟩)] = true := by decide

/-- R145's examples. -/
theorem test_decode_float : decodes [(0xF9F84430, .fadd 0x3E ⟨1, 2, 3, false, false, 0⟩), (0xFA112152, .ffma 0x3E ⟨4, 16, 21, false, false, 2⟩),
    (0x02508200, .fcmplt 0 ⟨2, 1, 0, false, false⟩), (0xFAC50626, .cvt 0x3E ⟨20, 3, 1, 3, false⟩), (0x0AC94178, .cvtmx 2 ⟨5, 0, 23, true, 0⟩),
    (0xFAD22141, .unpmx 0x3E ⟨8, 16, 20, 1⟩), (0xFAD98442, .fpack 0x3E ⟨6, 2, 1, 2⟩), (0xFAE1E2C8, .funpk 0x3E ⟨7, 17, 3, 8⟩)] = true := by
  decide

/-- R180's examples. -/
theorem test_decode_matrix : decodes [(0xFAE82000, .plw 0x3E ⟨2, 0, 0, false⟩), (0xFAF03618, .plws 0x3E ⟨3, 1, 8, 1, true⟩),
    (0xFAF85000, .plclr 0x3E 5), (0x0B003C10, .scld 2 ⟨3, 3, true, false⟩), (0x07090410, .mma 1 ⟨1, 0, 1, true⟩),
    (0xFB123400, .mmas 0x3E ⟨2, 3, 1, false⟩), (0xFB1D0920, .accrd 0x3E ⟨5, 2, 4, true, false⟩), (0xFB230880, .accwr 0x3E ⟨3, 2, 2, false⟩),
    (0xFB2F0000, .accclr 0x3E 7), (0xFB300410, .mfwd 0x3E 1 1)] = true := by decide

/-- R222's and R251's examples. -/
theorem test_decode_memory : decodes [(0xFB388202, .ld 0x3E ⟨2, 1, 0, 0, 1, false⟩), (0xFB40A099, .ldq 0x3E 2 16 1 3 0 true),
    (0x0B4C4AA4, .st 2 ⟨17, 5, 1, 4, 2, false⟩), (0xFB50E900, .lds 0x3E ⟨3, 20, 2, 0, 0, false⟩), (0xFB58EB08, .stf 0x3E ⟨3, 21, 2, 1, 0, false⟩),
    (0xFB60EB10, .sto 0x3E ⟨3, 21, 2, 2, 0, false⟩), (0xFB680C00, .sete 0x3E ⟨6, 0, 0, false⟩), (0xFB700000, .pfx 0x3E ⟨0, 0, 0, false⟩),
    (0xFB7D4380, .srd 0x3E ⟨21, true, 3, 0, 0⟩), (0xFB81C016, .swr 0x3E ⟨7, false, 0, 2, 3⟩), (0x07887FFC, .agn 1 true (-4)),
    (0xFB900003, .fence 0x3E 3)] = true := by decide

/-- R259's, R283's and R308's examples. -/
theorem test_decode_family : decodes [(0xFB9D8220, .aadd 0x3E ⟨true, 3, 1, 2⟩), (0x0B9C2049, .acas 2 true 0 16 2),
    (0xFB98291A, .afadd 0x3E ⟨false, 0, 20, 17⟩), (0xFB9F815D, .aincw 0x3E ⟨true, 7, 0, 21⟩), (0x07AF2D90, .binit 1 ⟨28, 22, 25⟩),
    (0xFBAF2D72, .bexp 0x3E ⟨28, 22, 23⟩), (0xFBA24960, .cpy1 0x3E ⟨9, 4, 22⟩), (0xFBA9AC03, .bwait 0x3E ⟨6, 22⟩), (0xFBA9F001, .barv 0x3E ⟨7, 24⟩),
    (0xFBA29205, .cpyx 0x3E ⟨10, 9⟩), (0xFBB24800, .ared 0x3E ⟨9, 4⟩), (0x0BB28A01, .rscat 2 ⟨10, 5⟩), (0xFBB70803, .bcst 0x3E ⟨28, 4⟩),
    (0xFBB2D205, .cwait 0x3E ⟨11, 9⟩), (0xFBB01206, .cabrt 0x3E 9), (0xFBBB0000, .vget 0x3E 12), (0x0FB81A01, .vack 3 13),
    (0xFBB80002, .vjoin 0x3E)] = true := by decide

/-- R411's examples. -/
theorem test_decode_system : decodes [(0xFBC02E00, .trap 0x3E 23), (0x17C00001, .brk 5), (0xFBC00602, .mark 0x3E 3), (0xFBC18003, .cyc 0x3E 6),
    (0xFBC1E804, .perf 0x3E ⟨7, 20⟩), (0x0BC00005, .halt 2)] = true := by decide

/-- R25, R28, R40: an empty slot, a reserved selector, an unassigned major, an unassigned sub-code, a reserved bit. -/
theorem test_decode_rejects : ([0xFC000000, 0x80000000, 0xFBC80000, 0xFBC00006, 0xF8000001].all fun w => (decodeRule w).toOption == none) = true := by
  decide

/-- R335. -/
theorem test_decode_dock :
    decodeDock 0x0100004000100000 0 = .launch ⟨0, 0, false, 0x4000100000⟩ ∧ decodeDock 0x0221000000000305 1 = .waitge ⟨2, 0, true, 0x305⟩ 1 ∧
    decodeDock 0x0310000000000CC8 4 = .signal ⟨1, 0, false, 0xCC8⟩ 4 ∧ decodeDock 0x0400000000000300 0 = .semset ⟨0, 0, false, 0x300⟩ 0 ∧
    decodeDock 0x0540004000200040 0 = .copyq ⟨4, 0, false, 0x4000200040⟩ ∧ decodeDock 0x0600000001000000 0 = .jmp ⟨0, 0, false, 0x1000000⟩ ∧
    decodeDock 0x0700000AFFFFFFFD 0 = .loop ⟨0, 0, false, 0xAFFFFFFFD⟩ ∧ decodeDock 0x0800000000001021 0 = .irq ⟨0, 0, false, 0x1021⟩ ∧
    decodeDock 0x0900000000000005 0 = .dfence ⟨0, 0, false, 5⟩ ∧ decodeDock 0x0A00000000000001 0 = .prio ⟨0, 0, false, 1⟩ ∧
    decodeDock 0x0B00000000030011 0x4000100040 = .handoff ⟨0, 0, false, 0x30011⟩ 0x4000100040 ∧
    decodeDock 0x0C00000000100000 0x4000004000100070 = .balloc ⟨0, 0, false, 0x100000⟩ 0x4000004000100070 ∧
    decodeDock 0x0D00000000030011 0 = .bfree ⟨0, 0, false, 0x30011⟩ ∧ decodeDock 0x1100000000000000 0 = .dhalt ⟨0, 0, false, 0⟩ := by decide

/-- R361. -/
theorem test_decode_regions :
    decodeDock 0x0E20004000300000 0 = .flushr ⟨2, 0, false, 0x4000300000⟩ ∧ decodeDock 0x1200000000000000 0 = .unassignedDockOp ⟨0, 0, false, 0⟩ 0x12 := by
  decide

/-- R53, R54: mbxput zero, a0, a1; the same with funct7 set; funct3 5 under custom-0. -/
theorem test_decode_skerry :
    decodeSkerry 0x00B5000B = some (.mbxput 0 10 11) ∧ decodeSkerry 0x02B5000B = some (.skerryIllegalInstruction 0x02B5000B) ∧
    decodeSkerry 0x0000D00B = some (.skerryIllegalInstruction 0x0000D00B) ∧ decodeSkerry 0x00000013 = none := by decide


/-! ## The grid -/

/-- R7: the table of missing ports. -/
theorem test_grid_ports : ((List.range 40).all fun n =>
    ([GridPort.north, .east, .south, .west].filter fun d => isleStrait n d == none) ==
      (if n = 4 then [.north, .east] else if n = 35 then [.south, .west] else if n < 4 then [.north]
       else if n = 14 ∨ n = 24 ∨ n = 34 then [.east] else if n = 5 ∨ n = 15 ∨ n = 25 then [.west]
       else if 36 ≤ n then [.south] else [])) = true := by decide

/-- R6 to R8: each isle has its home strait behind its home port; the largest count of straits is 8, between isles 4 and 35; and
isles 7, 8 and 12 lie about strait 7 (the example of the routed experts). -/
theorem test_straits : ((List.range 40).all fun n => isleStrait n (homePort n) == some n && siteAt (isleSite n).1 (isleSite n).2 == some (true, n)) = true ∧
    ((List.range 40).all fun m => (List.range 40).all fun n => decide (straitsBetween m n ≤ 8)) = true ∧ straitsBetween 4 35 = 8 ∧
    ([7, 8, 12].all fun n => (straitIsles 7).contains n) = true ∧ isleSite 7 = (4, 1) ∧ isleSite 8 = (6, 1) ∧ isleSite 12 = (5, 2) := by
  decide +kernel

/-! ## States for the tests -/

/-- The bench segment on ring 0 of isle 0, with a token at every in-channel of element 0, in slot 0 of which the step stands. -/
def bench : State := { State.reset.placeRule 0xF8000000 with cur := ⟨0, 0, 0, 0, 0, 0⟩, agenda := [] }

/-- A change of the element of the step, as it was before the cycle and as it is. -/
def both (f : Elem → Elem) (s : State) : State :=
  s.onCurSeg fun g => { g with live := g.live.onElem s.cur.p s.cur.e f, start := g.start.onElem s.cur.p s.cur.e f }

/-- Lane `k` of register `r` holds `f k`. -/
def setV (r : Nat) (f : Nat → W) (s : State) : State :=
  both (fun e => { e with v := upd (fun _ => ⟨Lanes.ofFn f, true, false, false, 0, true⟩) e.v r }) s

/-- Predicate `p` holds `x`. -/
def setP (p : Nat) (x : W16) (s : State) : State := both (fun e => { e with pred := upd (fun _ => x) e.pred p }) s

/-- In-channel `k` holds the tokens `ts`. -/
def setIn (k : Nat) (ts : List Token) (s : State) : State := both (fun e => { e with inq := upd (fun _ => ts.map Slot.tok) e.inq k }) s

/-- A token of a kind with a tag. -/
def tok (kind : Kind) (seqv : Bool) (seq : W16) : Token := ({ Token.blank with kind := kind, seqv := seqv, seq := seq } : Token).sealed

/-- Whether a next state shows `p`. -/
def sees (p : State → Bool) : Res → Bool
  | .next u => p u
  | _ => false

/-- Register `r` in lanes 0, 1, 2, 7, 8 and 15, those of R131's example, as signed numbers. -/
def six (r : Nat) (s : State) : List Int := [0, 1, 2, 7, 8, 15].map fun k => ((s.liveElem.vreg r).lanes.get k).toInt

/-- Lane 0 of register 2 of the next state is `x`. -/
def gives (i : Instr) (s : State) (x : W) : Bool := sees (fun u => (u.liveElem.vreg 2).lanes.get 0 == x) (exec i s)

/-- The fault records of the segment of the step: kind and cause of each. -/
def faults (s : State) : List (Nat × Nat) := (s.segD s.cur.n s.cur.k).recs.map fun r => (r.kind, r.cause)

/-- Registers 0 and 1 hold `a` and `b` in every lane. -/
def ab (a b : W) : State := (bench |> setV 0 fun _ => a) |> setV 1 fun _ => b

/-- R131's example operands, in registers 0 and 1. -/
def rows : State := (bench |> setV 0 fun k => BitVec.ofInt 32 ((k : Int) - 8)) |> setV 1 fun k => BitVec.ofNat 32 (15 - k)

theorem bench_elem : bench.HasElem := by unfold State.HasElem State.HasSeg State.HasIsle; decide

theorem bench_tiles : bench.HasTiles := by unfold State.HasTiles State.HasElem State.HasSeg State.HasIsle; decide +kernel

theorem bench_wharf : bench.HasWharf := by unfold State.HasWharf State.HasElem State.HasSeg State.HasIsle; decide

/-! ## Integer rules: the tables of R131 -/

theorem test_scan : sees (fun u => six 2 u == [-8, -15, -21, -36, -36, -8]) (exec (.scan 0x3E ⟨2, 0, false, 0⟩) rows) = true := by decide

/-- `SCAN.m1` with p1 = 0x00FF writes lanes 0 to 7 only. -/
theorem test_scan_mask : sees (fun u => six 1 u == [-8, -15, -21, -36, 7, 0]) (exec (.scan 0x3E ⟨1, 0, false, 1⟩) (setP 1 0x00FF rows)) = true := by
  decide

theorem test_redadd : sees (fun u => six 2 u == [-8, -8, -8, -8, -8, -8]) (exec (.redadd 0x3E ⟨2, 0, false, 0⟩) rows) = true := by decide

theorem test_redmax : sees (fun u => six 2 u == [7, 7, 7, 7, 7, 7]) (exec (.redmax 0x3E ⟨2, 0, false, 0⟩) rows) = true := by decide +kernel

theorem test_perm : sees (fun u => six 2 u == [7, 6, 5, 0, -1, -8]) (exec (.perm 0x3E ⟨2, 0, 1, false, false, 0⟩) rows) = true := by decide

theorem test_slide_up : sees (fun u => six 2 u == [0, 0, -8, -3, -2, 5]) (exec (.slide 0x3E ⟨2, 0, 2, false⟩) rows) = true := by decide

theorem test_slide_down : sees (fun u => six 2 u == [-6, -5, -4, 1, 2, 0]) (exec (.slide 0x3E ⟨2, 0, -2, false⟩) rows) = true := by decide

theorem test_abs : sees (fun u => six 2 u == [8, 7, 6, 1, 0, 7]) (exec (.abs_ 0x3E ⟨2, 0, false, 0⟩) rows) = true := by decide

theorem test_shi : sees (fun u => six 2 u == [-4, -4, -3, -1, 0, 3]) (exec (.shi 0x3E ⟨2, 0, 2, 1, false⟩) rows) = true := by decide

theorem test_cmplt : sees (fun u => u.liveElem.predBits 4 == 0x00FF) (exec (.cmplt 0x3E ⟨4, 0, 28, false, false⟩) rows) = true := by decide

theorem test_add : gives (.add 0x3E ⟨2, 0, 1, false, false, 0⟩) (ab 0x7FFFFFF0 0x20) 0x80000010 = true := by decide

theorem test_adds : gives (.adds 0x3E ⟨2, 0, 1, false, false, 0⟩) (ab 0x7FFFFFF0 0x20) 0x7FFFFFFF = true := by decide

theorem test_subs : gives (.subs 0x3E ⟨2, 0, 1, false, false, 0⟩) (ab 0x80000000 1) 0x80000000 = true := by decide

theorem test_mull : gives (.mull 0x3E ⟨2, 0, 1, false, false, 0⟩) (ab 0xFFFFFFFE 0x40000000) 0x80000000 = true := by decide

theorem test_mulh : gives (.mulh 0x3E ⟨2, 0, 1, false, false, 0⟩) (ab 0xFFFFFFFE 0x40000000) 0xFFFFFFFF = true := by decide

theorem test_mulhu : gives (.mulhu 0x3E ⟨2, 0, 1, false, false, 0⟩) (ab 0xFFFFFFFE 0x40000000) 0x3FFFFFFF = true := by decide

theorem test_divu : gives (.divu 0x3E ⟨2, 0, 1, false, false, 0⟩) (ab 7 0) 0xFFFFFFFF = true := by decide

theorem test_remu : gives (.remu 0x3E ⟨2, 0, 1, false, false, 0⟩) (ab 7 0) 7 = true := by decide

theorem test_clz : gives (.clz 0x3E ⟨2, 0, false, 0⟩) (ab 0x00010000 0) 15 = true := by decide

theorem test_bfx : gives (.bfx 0x3E ⟨2, 0, 1, false, false, 0⟩) (ab 0xF000 0x88C) 0xFFFFFFFF = true := by decide

theorem test_bfi : gives (.bfi 0x3E ⟨2, 0, 1, false, false, 0⟩) (setV 2 (fun _ => 0xFFFFFFFF) (ab 0 0x11C)) 0x0FFFFFFF = true := by decide

/-- R125: LUI x[31:18], LI, SHI, OR and ADDI build x; here the first two. -/
theorem test_lui_li : gives (.lui 0x3E 2 0x1234) bench (BitVec.ofNat 32 (0x1234 * 2 ^ 18)) = true ∧ gives (.li 0x3E 2 (-100)) bench (-100) = true := by
  decide

/-! ## Hypotheses of the statements on rules -/

theorem wit_IntegerLanes : bench.HasElem ∧ NoNull bench [16, 17] := ⟨bench_elem, by unfold NoNull; decide⟩

theorem wit_IntegerFieldsAndUnary : bench.HasElem ∧ NoNull bench [0, 1] ∧ NoNull bench [16] := ⟨bench_elem, by unfold NoNull; decide⟩

theorem wit_CrossLane : bench.HasElem ∧ NoNull bench [19, 16] ∧ NoNull bench [0] := ⟨bench_elem, by unfold NoNull; decide⟩

theorem wit_Predicates : bench.HasElem ∧ NoNull bench [16, 19] ∧ NoNull bench [28] := ⟨bench_elem, by unfold NoNull; decide⟩

/-- DROP with a data token at the head of in-channel 3. -/
theorem wit_TokenPassing : bench.HasElem ∧ NoNull bench [16, 17] ∧ (∃ h, bench.view.head 3 = some h ∧ h.kind.isMarker = false) :=
  ⟨bench_elem, by unfold NoNull; decide, _, rfl, rfl⟩

/-- A poisoned selector of SPLIT4 whose lowest channel is 1; and a mask of two channels. -/
theorem wit_Steering_poisoned :
    (let s := both (fun e => { e with v := upd (fun x => { x with pois := true }) e.v 1 }) (setV 1 (fun _ => 9) bench)
     (s.view.src 1).pois = true ∧ (s.view.src 16).null = false ∧ tb (6 : BitVec 4) 0 = false ∧ tb (6 : BitVec 4) 1 = true) ∧
    [0, 1, 2, 3].filter (fun j => tb (3 : BitVec 4) j && j != 0) = [1] := by decide

/-- Selector 3 of the compact form, its tag present; selector 4; and an untagged token. -/
theorem wit_Steering : bench.HasElem ∧ NoNull bench [16, 1] ∧
    (let s := setV 1 (fun _ => 3) bench
     (s.view.src 16).seqv = true ∧ (s.view.src 1).pois = false ∧ ((s.view.src 1).lanes.get 0).toNat = 3 ∧ tb (8 : BitVec 4) 3 = true) ∧
    (((setV 1 (fun _ => 4) bench).view.src 1).lanes.get 0).toNat = 4 ∧ ((setIn 0 [tok .data false 0] bench).view.src 16).seqv = false :=
  ⟨bench_elem, by unfold NoNull; decide, by decide⟩

/-- R96: selector 4 is MARKER 0x3, and an untagged token of the compact form MARKER 0x4. -/
theorem test_split4 :
    sees (fun u => faults u == [(4, 3)]) (exec (.split4 0x3E ⟨true, 15, 16, 1, false, false⟩) (setV 1 (fun _ => 4) bench)) = true ∧
    sees (fun u => faults u == [(4, 4)]) (exec (.split4 0x3E ⟨true, 15, 16, 1, false, false⟩) (setIn 0 [tok .data false 0] bench)) = true := by
  decide

/-- Two heads of every pair that MERGE has a clause for, a lone head of each side, and selectors of PICK4: a null one, a poisoned one, one out
of range; the selected head null, and another masked head with data. -/
theorem wit_Joining : bench.HasElem ∧
    (([(Kind.data, true, Kind.null, false), (.null, false, .data, true), (.null, true, .null, false), (.data, true, .data, true), (.data, true, .eoi, false),
        (.eoi, false, .data, true), (.data, false, .data, true), (.data, false, .eoi, false), (.null, false, .eoi, false), (.eoi, false, .null, false)].all fun x =>
      (let s := (bench |> setIn 0 [tok x.1 x.2.1 0]) |> setIn 1 [tok x.2.2.1 x.2.2.2 0]
       (s.view.head 0).map (fun h => (h.kind, h.seqv)) == some (x.1, x.2.1) && (s.view.head 1).map (fun h => (h.kind, h.seqv)) == some x.2.2)) = true) ∧
    (setIn 1 [] bench).view.head 1 = none ∧ (setIn 0 [] bench).view.head 0 = none ∧ ((setIn 0 [] bench).view.head 1).map (fun h => (h.kind, h.seqv)) = some (.data, true) := ⟨bench_elem, by decide⟩

theorem wit_Joining_pick : ((setIn 0 [tok .null false 0] bench).view.src 16).null = true ∧
    (let s := (bench |> setIn 1 [tok .null false 0]) |> setV 1 fun _ => 0
     (s.view.src 1).null = false ∧ (s.view.src 1).pois = false ∧ ((s.view.src 1).lanes.get 0).toNat = 0 ∧ tb (3 : BitVec 4) 0 = true ∧
     (s.view.src 16).null = false ∧ (s.view.head 1).map (·.kind) = some .null) ∧
    (let s := ((bench |> setIn 1 [tok .null false 0]) |> setIn 0 [tok .null false 0]) |> setV 1 fun _ => 0
     (s.view.src 1).null = false ∧ (s.view.src 16).null = true ∧ (s.view.head 1).map (·.kind) = some .null) ∧
    (let s := both (fun e => { e with v := upd (fun x => { x with pois := true }) e.v 1 }) (setV 1 (fun _ => 9) bench)
     (s.view.src 1).pois = true ∧ (s.view.src 1).null = false ∧ tb (2 : BitVec 4) 0 = false ∧ tb (2 : BitVec 4) 1 = true) ∧
    (bench.view.head 1).map (·.kind) = some .data ∧ ((bench |> setV 1 fun _ => 4).view.src 1).pois = false ∧
    (((bench |> setV 1 fun _ => 4).view.src 1).lanes.get 0).toNat = 4 := by decide

/-- R95: data and data with one untagged is MARKER 0x2. -/
theorem test_merge : sees (fun u => faults u == [(4, 2)])
    (exec (.merge 0x3E ⟨20, 0, 1, 0⟩) ((bench |> setIn 0 [tok .data true 0]) |> setIn 1 [tok .data false 0])) = true := by decide

/-- A counter one step short of its trip count and one before that; trip counts 1, 65,535, 0 and 65,536; a hold active and none. -/
theorem wit_Counting : bench.HasElem ∧ NoNull bench [16, 1] ∧ (bench.view.counter 0).ki.toNat + 1 ≠ (bench.view.counter 0).ti.toNat ∧
    (let s := both (fun e => { e with ctr := e.ctr.map fun c => { c with ki := 1 } }) bench
     (s.view.counter 0).ki.toNat + 1 = (s.view.counter 0).ti.toNat) ∧
    (([1, 65535, 0, 65536].all fun n => (((setV 1 (fun _ => BitVec.ofNat 32 n) bench).view.src 1).lanes.get 0).toNat == n &&
      !((setV 1 (fun _ => BitVec.ofNat 32 n) bench).view.src 1).pois) = true) ∧
    bench.view.holdLeft = 0 ∧ (both (fun e => { e with holdLeft := 1 }) bench).view.holdLeft ≠ 0 :=
  ⟨bench_elem, by unfold NoNull; decide, by decide⟩

theorem test_cntb : sees (fun u => faults u == [(4, 7)]) (exec (.cntb 0x3E ⟨false, 1, false, false⟩) (setV 1 (fun _ => 65536) bench)) = true := by
  decide

/-- EMIT to o0 and o3, and a REORD whose head lies 0, 1, 255 and 256 ahead of NEXTSEQ. -/
theorem wit_MarkersAndOrder : bench.HasElem ∧ (20 ≤ (20 : BitVec 5).toNat ∧ (23 : BitVec 5).toNat < 24) ∧
    (([0, 1, 255, 256].all fun d =>
      (let s := setIn 0 [tok .data true (BitVec.ofNat 16 d)] (both (fun e => { e with reord := List.replicate 256 none }) bench)
       s.view.reordMatch == none && (s.view.head 0).map (fun h => (h.kind, h.seqv, h.seq.toNat)) == some (.data, true, d) &&
       decide (d % 256 < s.liveElem.reord.length))) = true) ∧
    (let s := both (fun e => { e with img := { e.img with cfg := { e.img.cfg with route := [0x2400, 0, 0, 0] } } }) bench
     [0, 1, 2, 3].filter (fun k => (s.segD 0 0).routed s.view k) = [(20 : BitVec 5).toNat - 20] ∧ (s.segD 0 0).gateChans 0 0 = [] ∧
     routeKind (s.curElem.route 0) ≠ 3) := ⟨bench_elem, by decide, by decide +kernel, by decide +kernel⟩

theorem test_reord : sees (fun u => faults u == [(4, 5)])
    (exec (.reord 0x3E 20 0) (setIn 0 [tok .data true 256] (both (fun e => { e with reord := List.replicate 256 none }) bench))) = true := by decide

theorem wit_RuleFrame : tokenOrVector (.add 0x3E ⟨2, 16, 17, false, false, 0⟩) = true ∧ tokenOrVector (.nop 0x3E) = true ∧
    (∃ u, exec (.nop 0x3E) bench = .next u) := ⟨by decide, by decide, _, rfl⟩

theorem wit_RuleWritesOnlyItsOwn : bench.HasElem ∧ tokenOrVector (.redmin 0x3E ⟨2, 16, false, 0⟩) = true ∧
    (∃ r, ruleInfo (.redmin 0x3E ⟨2, 16, false, 0⟩) = some r ∧ (2, 9) ∉ r.wr) ∧ (∃ u, exec (.redmin 0x3E ⟨2, 16, false, 0⟩) bench = .next u) :=
  ⟨bench_elem, by decide, ⟨_, rfl, by decide⟩, _, rfl⟩

theorem wit_NullEffect : (setIn 0 [tok .null false 0] bench).HasElem ∧ ∃ r ∈ [rd 16 false], ((setIn 0 [tok .null false 0] bench).view.src r.code).null = true :=
  ⟨by unfold State.HasElem State.HasSeg State.HasIsle; decide, by decide⟩

/-! ## Floating-point rules -/

/-- A float rule with operands 1.0 and 0: R146's x / 0 gives infinity with DZ. -/
theorem wit_FloatLanes : bench.HasElem ∧ NoNull bench [16, 17, 2] := ⟨bench_elem, by unfold NoNull; decide⟩

theorem test_fdiv : sees (fun u => (u.liveElem.vreg 2).lanes.get 0 == 0x7F800000 && u.liveElem.fflags == 2)
    (exec (.fdiv 0x3E ⟨2, 0, 1, false, false, 0⟩) (ab 0x3F800000 0)) = true := by decide

theorem test_fadd : gives (.fadd 0x3E ⟨2, 0, 1, false, false, 0⟩) (ab 0x3F800000 0x40000000) 0x40400000 = true := by decide

theorem wit_FloatSignsAndCompares : bench.HasElem ∧ NoNull bench [16] ∧ NoNull bench [16, 17] := ⟨bench_elem, by unfold NoNull; decide⟩

theorem wit_Conversions : bench.HasElem ∧ NoNull bench [0] ∧ NoNull bench [0, 1] ∧ (15 : BitVec 5).toNat < 16 :=
  ⟨bench_elem, by unfold NoNull; decide, by unfold NoNull; decide, by decide⟩

/-- R156: −3.7 to INT8 gives −4 with NX, 300.0 to UINT8 gives 255 with SAT. -/
theorem test_cvt :
    gives (.cvt 0x3E ⟨2, 0, 1, 10, true⟩) (ab 0xC06CCCCD 0) 0xFFFFFFFC = true ∧ gives (.cvt 0x3E ⟨2, 0, 1, 11, true⟩) (ab 0x43960000 0) 0xFF = true := by
  decide

/-- R133, R152: an infinity of either sign gives E4M3 the default NaN, with NV. -/
theorem test_cvt_inf : toFloat rmRNE (formatOf 4) false (.inf true) 0 = (0x7F, flNV) := by decide

/-- An enabled flag in lane 15, and a segment that runs. -/
theorem wit_FloatFlagsAndSpecials :
    (let s := both (fun e => { e with img := { e.img with cfg := { e.img.cfg with ten := 1 } } }) bench
     (∃ k, k < 16 ∧ tb (0x8000 : W16) k = true ∧ flNV &&& s.view.img.cfg.ten.toNat ≠ 0) ∧ (s.segD s.cur.n s.cur.k).stopped = false ∧
     (s.segD s.cur.n s.cur.k).recs = []) ∧ bench.HasElem :=
  ⟨⟨⟨15, by decide⟩, by decide⟩, bench_elem⟩

/-! ## Matrix rules -/

/-- PLW of an FP8 tile (two rows a token) at row 0 and at row 14, and a null head. -/
theorem wit_PlaneTiles : bench.HasTiles ∧ (∃ h, bench.view.head 0 = some h ∧ h.kind = .data) ∧
    (let w := typeWidth (bench.liveElem.plane 0).fmt.toNat
     (bench.liveElem.plane 0).filling = false ∧ 0 + partsPerLane w / 2 ≤ 16 ∧ 14 + partsPerLane w / 2 = 16) ∧
    (∃ h, (setIn 0 [tok .null false 0] bench).view.head 0 = some h ∧ h.kind ≠ .data) :=
  ⟨bench_tiles, ⟨_, rfl, rfl⟩, by decide, _, rfl, by decide⟩

/-- The bench stage holds no null; with a null in it; a staged token whose group is assigned. -/
theorem wit_MatrixMultiplies : bench.HasTiles ∧
    ((bench.liveElem.unassigned.take (groupLen (bench.liveElem.plane 0).fmt.toNat (bench.liveElem.plane 0).sparse.toNat)).all
      fun x => x.tok.kind != .null) = true ∧
    (let s := both (fun e => { e with stage := ⟨tok .null false 0, none, false, false⟩ :: e.stage }) bench
     ((s.liveElem.unassigned.take (groupLen (s.liveElem.plane 0).fmt.toNat (s.liveElem.plane 0).sparse.toNat)).any fun x => x.tok.kind == .null) = true) ∧
    (∃ x post, bench.liveElem.stage = [] ++ x :: post ∧ x.grp.isSome = true ∧ x.fwd = false) :=
  ⟨bench_tiles, by decide +kernel, by decide +kernel, _, _, rfl, rfl, rfl⟩

/-- A cursor at the last FP32 token of a tile and at the first, and a data and a null head. -/
theorem wit_AccumulatorTiles : bench.HasTiles ∧
    (let s := both (fun e => { e with acc := e.acc.map fun (a : AccTile) => { a with xfer := 1, cur := 15 } }) bench
     (s.liveElem.accT 0).cur.toNat + 1 = 16 / partsPerLane (typeWidth 1)) ∧
    (bench.liveElem.accT 0).cur.toNat + 1 < 16 / partsPerLane (typeWidth 1) ∧ (∃ h, bench.view.head 0 = some h ∧ h.kind = .data) ∧
    (∃ h, (setIn 0 [tok .null false 0] bench).view.head 0 = some h ∧ h.kind ≠ .data) :=
  ⟨bench_tiles, by decide +kernel, by decide +kernel, ⟨_, rfl, rfl⟩, _, rfl, by decide⟩

/-! ## Memory and family rules -/

theorem wit_LoadsQueue : bench.HasWharf := bench_wharf

theorem wit_StoresQueue : bench.HasWharf := bench_wharf

theorem wit_GeneratorsAndFences : bench.HasWharf ∧ bench.liveElem.gen.length = 2 := ⟨bench_wharf, by decide⟩

theorem wit_UpdatesCopiesAndBarriersQueue : bench.HasWharf := bench_wharf

/-- An object without copies in flight and with one, of count 0 and of count 2 with one and two arrivals left. -/
theorem wit_UpdateAndBarrierValues : (default : BObj).infl = 0 ∧ ({ (default : BObj) with infl := 1 } : BObj).infl ≠ 0 ∧ (default : BObj).count = 0 ∧
    (let b : BObj := { (default : BObj) with count := 2, remain := 1 }
     b.count ≠ 0 ∧ b.remain = 1 ∧ ({ b with remain := 2 } : BObj).remain ≠ 1) := by decide

theorem wit_CollectivesQueue : bench.HasWharf := bench_wharf

/-! ## View and system rules -/

/-- VACK of scope 5, 6 and another; an isle isolated since its reset, and one that is not. -/
theorem wit_ViewRules : bench.HasElem ∧
    (([5, 6, 4].all fun n => (((setV 1 (fun k => if k = 1 then BitVec.ofNat 32 n else 0) bench).view.src 1).lanes.get 1).toNat == n &&
      !((setV 1 (fun _ => 0) bench).view.src 1).pois) = true) ∧ (bench.isle 0).pview.st ≠ .isolated ∧
    (let s := bench.onIsle 0 fun i => { i with pview := { i.pview with st := .isolated, sinceReset := true },
                                               sview := { i.sview with st := .isolated, sinceReset := true } }
     (s.isle 0).pview.st = .isolated ∧ (s.isle 0).pview.sinceReset = true ∧ (s.isle 0).sview.st = .isolated ∧
     (s.isle 0).sview.sinceReset = true) := ⟨bench_elem, by decide⟩

/-- A segment that runs with nothing detected; one whose task has halted; PERF with CLR and selectors 0, 1, 2 and 0x10. -/
theorem wit_SystemRules : bench.HasElem ∧ (bench.view.src 16).null = false ∧ (bench.segD 0 0).stopped = false ∧ (bench.segD 0 0).recs = [] ∧
    ((bench.segD 0 0).live.stripe 0).arm = none ∧ (bench.segD 0 0).halted = false ∧
    ((bench.onCurSeg fun g => { g with halted := true }).segD 0 0).halted = true ∧
    (([0x100, 0x101, 0x102, 0x10, 0].all fun n => (((setV 1 (fun _ => BitVec.ofNat 32 n) bench).view.src 1).lanes.get 0).toNat == n) = true) :=
  ⟨bench_elem, by decide⟩

/-- R412: a TRAP detects kind 0xA. -/
theorem test_trap : sees (fun u => faults u == [(10, 0)] && (u.segD 0 0).frz == some 0) (exec (.trap 0x3E 28) bench) = true := by decide

/-- The isle traces MARK records of every tenant, with room and without. -/
def tracing (head : Nat) : State :=
  bench.onIsle 0 fun i => { i with trace := { i.trace with en := true, anyt := true, kmask := 127, log := { i.trace.log with head := head } } }

theorem wit_Marks : bench.HasElem ∧ (bench.view.src 16).null = false ∧ (bench.isle 0).trace.takes 1 0 = false ∧
    ((tracing 2).isle 0).trace.takes 1 0 = true ∧ ((tracing 2).isle 0).trace.log.next ≠ ((tracing 2).isle 0).trace.log.head ∧
    Memory.wf (tracing 2).mem = true ∧ ((tracing 1).isle 0).trace.wrap = false ∧ ((tracing 1).isle 0).trace.log.next = ((tracing 1).isle 0).trace.log.head :=
  ⟨bench_elem, by decide⟩

/-! ## Custom instructions of a hart -/

/-- Hart 0 of isle 0 in M-mode, in a context of tenant 1, at an instruction of four bytes. -/
def hart : State :=
  ({ State.reset.placeHart 0x00B5000B with cur := ⟨0, 0, 0, 0, 0, 0⟩, agenda := [] } : State).onHart 0 0 fun h =>
    { h with sftEn := true, sftTenant := 1 }

/-- A mode for the hart. -/
def inMode (x : Mode) (s : State) : State := s.onHart 0 0 fun h => { h with mode := x }

/-- Register `r` of the hart. -/
def setX (r : BitVec 5) (v : W64) (s : State) : State := s.onHart 0 0 fun h => h.setReg r.toNat v

theorem hart_ready : hart.HartReady := by unfold State.HartReady State.HasHart State.HasIsle; decide

/-- Mailbox 3 of tenant 1 with an episode open, an action and 31 observations. -/
def boxed : State :=
  (hart.onMbx 0 3 fun m => { m with en := true, tenant := 1, open_ := true, epi := 7, act := [Lanes.zero], obs := List.replicate 31 Token.blank })
    |> setX 10 3 |> setX 11 0x2000

/-- A message of step 0 of episode 7 at 0x2000. -/
def message : State := boxed.setBytes 0x2000 [7]

theorem wit_MailboxInstructions : message.HartReady ∧ message.mbxPermit 3 = true ∧ ((message.isle 0).mailbox 3).aborted = false ∧
    message.Readable (message.h.reg 11).toNat 64 0x2000 ∧ message.Writable (message.h.reg 11).toNat 64 0x2000 ∧ message.mbxPermit 4 = false ∧
    (let l := lanesOfBytes ((List.range 64).map fun k => message.skByte 0 (0x2000 + k))
     (l.get 0).toNat = 7 ∧ l.get 1 = stepAfter ((message.isle 0).mailbox 3).ostep) ∧
    ((message.isle 0).mailbox 3).obs.length = 31 ∧ ((message.isle 0).mailbox 3).act ≠ [] := by
  refine ⟨?_, by decide +kernel, by decide +kernel, ?_, ?_, by decide +kernel, by decide +kernel, by decide +kernel, by decide +kernel⟩
  · unfold State.HartReady State.HasHart State.HasIsle; decide +kernel
  · unfold State.Readable State.Reaches; decide +kernel
  · unfold State.Writable State.Reaches; decide +kernel

/-- R383: the message becomes observation 32, and another MBXPUT finds the queue full. -/
theorem test_mbxput : sees (fun u => ((u.isle 0).mailbox 3).obs.length == 32 && u.h.reg 0 == 0) (exec (.mbxput 0 10 11) message) = true := by decide +kernel

/-- The lagoon granule at its base, full and empty; a U-mode hart with user traps on; a stack address. -/
theorem wit_Futures :
    (let s := setX 10 0x8000000000 hart
     s.HartReady ∧ s.Reaches (s.h.reg 10).toNat 8 1 13 5 0x8000000000 ∧ s.Reaches (s.h.reg 10).toNat 8 2 15 7 0x8000000000 ∧
     paLagoon 0x8000000000 = true ∧ s.isFull 0x8000000000 = false ∧ ({ s with full := [0x8000000000 / 8] } : State).isFull 0x8000000000 = true ∧ Memory.wf s.mem = true ∧
     (s.onHart 0 0 fun h => { h with mode := .u, ie := true, uftvec := 0x100 }).HartReady) ∧
    (let s := setX 10 0x2000 hart
     s.Reaches (s.h.reg 10).toNat 8 1 13 5 0x2000 ∧ s.Reaches (s.h.reg 10).toNat 8 2 15 7 0x2000 ∧ paLagoon 0x2000 = false) := by
  unfold State.HartReady State.HasHart State.HasIsle State.Reaches
  decide +kernel

/-- R386: FUTST sets its granule full. -/
theorem test_futst : sees (fun u => u.isFull 0x8000000000 && u.byte 0x8000000000 == 5) (exec (.futst 10 11) (hart |> setX 10 0x8000000000 |> setX 11 5)) =
    true := by decide +kernel

/-- A descriptor at 0x2000: mailbox 3 with one window of 16 bytes at 0x4000, read and written. -/
def described : State := ((boxed.onMbx 0 3 fun m => { m with open_ := false }) |> setX 10 0x2000 |> setX 11 7).setBytes 0x2000
  ([3, 0, 1] ++ List.replicate 13 0 ++ leBytes 8 0x4000 ++ leBytes 4 16 ++ [3, 0, 0, 0])

theorem wit_Episodes : described.HartReady ∧ described.h.mode ≠ .u ∧ (inMode .u hart).HartReady ∧ (inMode .u hart).h.mode = .u ∧
    (described.h.reg 10).toNat % 16 = 0 ∧ (described.h.reg 11).toNat < 2 ^ 16 ∧
    (match described.readDescriptor 0x2000 with | .ok (bs, _) => enclosureOf bs == some (3, [(0x4000, 16, 3)]) | .error _ => false) = true ∧
    ((described.isle 0).mailbox 3).en = true ∧ described.h.isTenant ((described.isle 0).mailbox 3).tenant = true ∧
    ((described.isle 0).mailbox 3).open_ = false ∧ described.h.epi = none := by
  unfold State.HartReady State.HasHart State.HasIsle
  decide +kernel

theorem test_epibeg : sees (fun u => u.h.epi.isSome && ((u.isle 0).mailbox 3).open_ && ((u.isle 0).mailbox 3).epi == 7) (exec (.epibeg 5 10 11) described) =
    true := by decide +kernel

/-- The bench segment frozen, beside a hart of its tenant with the segment's id in register 10. -/
def frozen : State :=
  ((bench.onCurSeg fun g => { g with stopped := true, tenant := 1 }).onHart 0 0 fun h =>
    { h with mode := .m, sftEn := true, sftTenant := 1 }) |> setX 10 0x100000000

theorem wit_FrozenSegments : frozen.HartReady ∧ frozen.scanRing 0x100000000 = some 0 ∧ frozen.scanRing 8 = none ∧ frozen.cmdStatus 1 = (0, 0) ∧
    frozen.cmdStatus 2 = (2, 0) ∧ (frozen.segD 0 0).sopend = false ∧ frozen.replayReaches 0 (frozen.segD 0 0) = true ∧
    (frozen.segD 0 0).settled = true ∧ (frozen.segD 0 0).scanOpen 0 = false := by
  unfold State.HartReady State.HasHart State.HasIsle
  decide +kernel

/-! ## Dock words -/

/-- Queue 0 of isle 0 at a word. -/
def dock : State := { State.reset.placeDock 1 0x1100000000000000 with cur := ⟨0, 0, 0, 0, 0, 0⟩, agenda := [] }

/-- Every tenant's address space maps its lowest GiB to isle 0, readable and writable: a root table at 0x10000000 and a leaf of 1 GiB in the
table at 0x10001000. -/
def mapped (s : State) : State :=
  { (s.setBytes 0x10000000 (leBytes 8 0x4000401)).setBytes 0x10001000 [0xDF] with ptRoot := List.replicate 64 0x10000000 }

/-- A word of queue 0. -/
def word (arg : BitVec 48) : DockW := ⟨0, 0, false, arg⟩

/-- The view of isle 0 holds isles 0 and 1. -/
def viewed (s : State) : State := s.onIsle 0 fun i => { i with pview := { i.pview with members := [(0, 0), (0, 1)] } }

theorem wit_DockWordChecks : dock.HasQueue ∧ (⟨0, 1, false, 0⟩ : DockW).rsv ≠ 0 ∧ (⟨1, 0, false, 0⟩ : DockW).queue.toNat ≠ dock.cur.k ∧
    (word 0).rsv = 0 := by
  unfold State.HasQueue State.HasIsle
  decide

theorem dock_ready (a : BitVec 48) : dock.DockReady (word a) := by
  unfold State.DockReady State.HasQueue State.HasIsle
  exact ⟨by decide, rfl, rfl, .inl rfl⟩

/-- Semaphore 0 of isle 0, the last of isle 1, and names from 0x2800; values 0 and 1; a semaphore of another tenant and one that all may
use; a message sent, answered well and answered ill. -/
theorem wit_DockSemaphores : (∀ a, dock.DockReady (word a)) ∧ dock.cur.n < 64 ∧
    ((word 0).arg.toNat / 256 = dock.cur.n ∧ (dock.isle 0).hb.sem.length = 256) ∧ (word 511).arg.toNat / 256 ≠ dock.cur.n ∧ 511 < 40 * 256 ∧
    40 * 256 ≤ (word 0x2800).arg.toNat ∧
    ((nth 0 (dock.isle 0).hb.own 0).toNat % 64 = dock.q.tenant.toNat ∧ (0 : BitVec 64).toNat ≤ (nth 0 (dock.isle 0).hb.sem 0).toNat ∧
      (nth 0 (dock.isle 0).hb.sem 0).toNat < (1 : BitVec 64).toNat) ∧
    (let s := dock.onHarbour 0 fun h => { h with own := upd (fun _ => 1) h.own 0 }
     ¬((nth 0 (s.isle 0).hb.own 0).toNat % 64 = s.q.tenant.toNat ∨ (nth 0 (s.isle 0).hb.own 0).toNat / 64 % 2 = 1)) ∧
    dock.inView 0 1 = false ∧ (viewed dock).inView 0 1 = true ∧ (viewed dock).q.out = none ∧
    (let s := (viewed dock).onQueue 0 0 fun q => { q with wait := true, out := some (0, 0, 1, true), answer := some (0, true) }
     s.q.out = some (0, 0, 1, true) ∧ s.q.answer = some (0, true)) := ⟨dock_ready, by decide +kernel⟩

/-- R336: a SIGNAL adds and a WAITGE above the value waits. -/
theorem test_signal :
    sees (fun u => nth 0 (u.isle 0).hb.sem 0 == 5 && u.q.head == 0x2010) (exec (.signal (word 0) 5) dock) = true ∧
    sees (fun u => u.q.wait && u.q.head == 0x2000) (exec (.waitge (word 0) 1) dock) = true := by decide +kernel

/-- Targets at BASE, below it and at LIMIT; a LOOP of one and of two passes to the first word of the window; vectors of a bridge that is up
and of one that is absent; scopes 1, 6, 0 and 7; a queue with a launch outstanding. -/
theorem wit_DockControl : (∀ a, dock.DockReady (word a)) ∧ ((word 0x2000).arg.toNat % 8 = 0 ∧ dock.q.base ≤ 0x2000 ∧ 0x2000 < dock.q.limit) ∧
    (0x1FF8 < dock.q.base ∧ dock.q.limit ≤ 0x3000) ∧
    (let a := (word 0x100000000).arg.toNat
     a / 2 ^ 32 ≠ 0 ∧ (dock.q.base : Int) ≤ dock.q.head + 8 * (BitVec.ofNat 32 a).toInt ∧ (dock.q.head : Int) + 8 * (BitVec.ofNat 32 a).toInt < dock.q.limit ∧
     (if dock.q.lc = 0 ∨ dock.q.laddr ≠ dock.q.head then a / 2 ^ 32 else dock.q.lc) - 1 = 0) ∧
    (word 0xFFFFFFFF).arg.toNat / 2 ^ 32 = 0 ∧ (word 0x1FFF).arg.toNat < 2 ^ 13 ∧ dock.bridgeUp 0 = false ∧
    (let s : State := { dock with ports := upd (fun p => { p with up := true, bridge := true }) dock.ports 0 }
     s.bridgeUp 0 = true) ∧ dock.q.infl = 0 ∧ (dock.onQueue 0 0 fun q => { q with infl := 1 }).q.infl ≠ 0 := ⟨dock_ready, by decide +kernel⟩

/-- R339: a LOOP of two passes goes back and counts. -/
theorem test_loop : sees (fun u => u.q.lc == 1 && u.q.head == 0x2000) (exec (.loop (word 0x200000000)) dock) = true := by decide +kernel

/-- A card at 0x4000: all zero but the ring mask, DONESEM and FAILSEM none. -/
def carded : State :=
  mapped (((dock.onRing 0 0 fun r => { r with stripes := 24 }).setBytes 0x4026 [1, 0, 0xFF, 0xFF, 0xFF, 0xFF]))

/-- A copy descriptor at 0x4000 of 64 bytes: CPY1 from 0x8000 to 0x9000. -/
def copyDesc : State :=
  mapped ((dock.onQueue 0 0 fun q => { q with ty := 1 }).setBytes 0x4000 (leBytes 8 0x8000 ++ leBytes 8 0x9000 ++ leBytes 4 64 ++ leBytes 4 1))

theorem wit_DockLaunchAndCopy : carded.DockReady (word 0x4000) ∧ carded.q.ty ≠ 1 ∧ carded.launchFull = false ∧ carded.pagesEnd 0 0 (dockVa (word 0x4000)) 64 = none ∧
    carded.vaPois 0 (dockVa (word 0x4000)) 64 = false ∧ carded.cardPages 0 (carded.readCard 0 0x4000) = true ∧ (carded.readCard 0 0x4000).tenant = 0 ∧
    (carded.readCard 0 0x4000).formed = true ∧ (carded.readCard 0 0x4000).donesem = 0xFFFF ∧ (carded.readCard 0 0x4000).failsem = 0xFFFF ∧
    (carded.isle 0).cardHandles (carded.readCard 0 0x4000) = true ∧ (carded.isle 0).cardRings (carded.readCard 0 0x4000) = true ∧
    copyDesc.DockReady (word 0x4000) ∧ copyDesc.q.ty = 1 ∧ copyDesc.vaReadable 0 (dockVa (word 0x4000)) 64 = true ∧
    copyDesc.vaPois 0 (dockVa (word 0x4000)) 64 = false ∧ (copyDesc.readCopyq 0 0x4000 0x4000 0).2 = true ∧ copyDesc.slotFree 0 0 = true ∧
    (copyDesc.readCopyq 0 0x4000 0x4000 0).1.bytes ≠ 0 := by
  unfold State.DockReady State.HasQueue State.HasIsle
  decide +kernel

theorem test_copyq : sees (fun u => (u.isle 0).ferry.copies.length == 1 && u.q.infl == 1 && u.q.head == 0x2008) (exec (.copyq (word 0x4000)) copyDesc) =
    true := by decide +kernel

/-- A pool of one frame, free and allotted under handle 0; a writable patch word; a region record at 0x4000 of 64 bytes, and one of
64 KiB and a byte. -/
def pooled : State := mapped (dock.onHarbour 0 fun h => { h with bpCount := 1 })

def allotted : State := pooled.onHarbour 0 fun h => { h with handles := [(0, ⟨0, some 0, 0, 1, false⟩)] }

def recorded (extent : Nat) : State := mapped (dock.setBytes 0x4000 (leBytes 8 0x8000 ++ leBytes 5 extent ++ [3, 0, 0]))

theorem wit_DockBuffersAndRegions : pooled.DockReady (word 65536) ∧ pooled.DockReady (word 0) ∧ 65536 < 2 ^ 40 ∧ (0x4000 : Nat) / 2 ^ 62 ≠ 3 ∧
    (dock.isle 0).hb.bpCount < 1 ∧ (pooled.isle 0).hb.freeRun 1 = some 0 ∧ (pooled.isle 0).hb.freeId = some 0 ∧ (allotted.isle 0).hb.freeRun 1 = none ∧
    ((pooled.clearFrames 0 0 1).putHandle 0 0x4000 0 0).isSome = true ∧ (allotted.isle 0).hb.handleOk 0 0 = true ∧ (allotted.isle 0).hb.handleOk 1 0 = false ∧
    (allotted.isle 0).hb.holders 0 = [] ∧ (recorded 64).DockReady (word 0x4000) ∧
    ((recorded 64).readRecord 0 (dockVa (word 0x4000))).toOption.isSome = true ∧ ((recorded 65537).readRecord 0 (dockVa (word 0x4000))).toOption.isSome = true ∧
    (dock.readRecord 0 0x4000).toOption = none ∧ (recorded 64).q.work ≠ 1 ∧ ((recorded 64).isle 0).hb.edge = [] := by
  unfold State.DockReady State.HasQueue State.HasIsle
  decide +kernel

theorem test_balloc : sees (fun u => (u.isle 0).hb.handleOk 0 0 && u.q.head == 0x2010) (exec (.balloc (word 65536) 0x4000) pooled) = true := by
  decide +kernel

theorem test_flushr : sees (fun u => u.q.head == 0x2008) (exec (.flushr (word 0x4000)) (recorded 64)) = true := by decide +kernel

/-! ## Events of queues and semaphores -/

/-- A flit from isle 1 to isle 0, the first in flight. -/
def flit (sys : Bool) (view : Nat) (b : Payload) (s : State) : State := { s with net := [⟨(0, 1), (0, 0), sys, view, b⟩] }

theorem wit_QueueEvents : dock.HasQueue ∧ dock.cur.e = 0 ∧ (0x2000 : BitVec 64).toNat < 2 ^ 50 ∧ (dock.isle 0).up = true ∧
    (((dock.isle 0).queue 0).base ≤ 0x2000 ∧ 0x3000 ≤ ((dock.isle 0).queue 0).limit ∧ 0x1FF8 < ((dock.isle 0).queue 0).base) ∧
    2 ^ 50 ≤ (0x4000000000000 : BitVec 64).toNat ∧ dock.ports.length = 16 ∧ dock.q.halt = false ∧
    (dock.onQueue 0 0 fun q => { q with halt := true }).q.halt = true ∧ dock.q.en = true ∧ (dock.onQueue 0 0 fun q => { q with en := false }).q.en = false ∧
    dock.cur.j < (dock.isle 0).hb.sem.length ∧ (dock.isle 0).hb.prqHeld = [] := by
  unfold State.HasQueue State.HasIsle
  decide +kernel

/-- A WAITGE of semaphore 0 that waits, satisfied by value 0. -/
theorem wit_QueueEvents_waiting :
    (let s := (({ State.reset.placeDock 2 0x0200000000000000 with cur := ⟨0, 0, 0, 0, 0, 0⟩, agenda := [] } : State).onQueue 0 0 fun q => { q with wait := true })
     s.dockRead = .word 0x0200000000000000 0 ∧ s.q.wait = true ∧ s.DockReady (word 0) ∧ (s.isle 0).hb.semAllowed 0 s.q.tenant.toNat = true) := by
  unfold State.DockReady State.HasQueue State.HasIsle
  decide +kernel

/-- Messages of each kind for semaphore 0, answers to queue 0, and a message that was sent 99,999 and 100,000 PT ago. -/
theorem wit_QueueEvents_messages :
    (([0, 1, 2, 3].all fun kind =>
      (let s := flit false 0 (.sem kind 0 0 0 1 0) dock
       (match s.flitFor 0 0 with | some f => f.body == .sem kind 0 0 0 1 0 && s.firstMsg 0 f | none => false))) = true) ∧
    (dock.isle 0).hb.semAllowed 0 0 = true ∧ (dock.isle 0).hb.semAllowed 0 1 = false ∧
    (let s := (flit false 0 (.semAns 0 0 true true) ({ State.reset.placeDock 2 0x0300000000000100 with cur := ⟨0, 0, 0, 0, 0, 0⟩, agenda := [] } : State)).onQueue
       0 0 fun q => { q with wait := true, out := some (0, 0, 1, true) }
     (match s.flitFor 0 0 with | some f => f.body == .semAns 0 0 true true && s.firstMsg 0 f | none => false) = true ∧
     s.q.out = some (0, 0, 1, true) ∧ s.dockRead = .word 0x0300000000000100 0 ∧ (viewed s).inView 0 1 = true) ∧
    (let s := (viewed dock).onQueue 0 0 fun q => { q with out := some (0, 0, 1, false) }
     s.q.answer = none ∧ s.inView 0 1 = true ∧ ({ s with pt := 99999 } : State).pt < 0 + 100000 ∧ 0 + 100000 ≤ ({ s with pt := 100000 } : State).pt) := by
  decide +kernel

/-- R320: WAITGE on isle 1 is not answered within 100,000 PT. -/
theorem test_semaphoreMessageTimeout :
    sees (fun u => u.q.halt && u.q.cause == 6)
      (exec .semaphoreMessageTimeout { (viewed dock).onQueue 0 0 fun q => { q with out := some (0, 0, 1, false) } with pt := 100000 }) = true := by
  decide +kernel

/-! ## Events of tasks -/

/-- A task of the bench image, ready, with two arguments. -/
def task (no : Nat) : Task :=
  { (default : Task) with no := no, st := .ready, image := Image.bench 0xF8000000, card := { (default : Card) with argn := 2, rings := 1, entry := 64 } }

/-- Isle 0 with these tasks and 24 stripes on ring 0, which is empty. -/
def tasked (ts : List Task) : State :=
  (dock.onHarbour 0 fun h => { h with tasks := ts }).onRing 0 0 fun r => { r with stripes := 24, seg := none }

theorem wit_TaskEvents_place :
    (let s := tasked [task 1]
     s.HasIsle ∧ s.cur.k < (s.isle 0).rings.length ∧ (s.isle 0).nextTask 0 0 = some (task 1) ∧ s.ringFree 0 0 = true ∧ (s.isle 0).backPrio 0 = none ∧
     (s.isle 0).hb.area (task 1) 0 = some [] ∧ (task 1).image.mailboxes = [] ∧ s.pairingBad 0 0 (s.newSeg 0 0 (task 1) []) = false ∧
     (match s.extentsOf 0 0 (task 1).regions with | .ok xs => xs == [] | .error _ => false) = true ∧ (task 1).image.nstripe = 1) := by
  unfold State.HasIsle
  decide +kernel

/-- The segment that a placement of task 1 leaves, its first run over. -/
def placed : State :=
  ((tasked [task 1]).onRing 0 0 fun r => { r with seg := some { (Seg.bench 0xF8000000) with task := 1, runs := [], runsDealt := 0 } })

theorem wit_TaskEvents_run :
    (let g := placed.segD 0 0
     (placed.seg 0 0).isSome = true ∧ ((placed.isle 0).hb.task g.task).isSome = true ∧ g.stopped = false ∧ g.frz = none ∧ g.halt = .none ∧ g.runOver = true ∧
     (task 1).dealt = false ∧ (placed.isle 0).nextTask 0 1 = none ∧ (placed.isle 0).backPrio 0 = none) ∧
    (let s := tasked [{ task 0 with st := .done }]
     (s.isle 0).hb.task 0 = some { task 0 with st := .done } ∧ (task 0).queue < (s.isle 0).queues.length ∧ (task 0).status = none) ∧
    (([TaskSt.inv, .ending].all fun st => ((tasked [{ task 0 with st := st }]).isle 0).hb.task 0 == some { task 0 with st := st } &&
      (((tasked [{ task 0 with st := st }]).isle 0).hb.edge == [])) = true) ∧ ({ task 0 with phase := 1 } : Task).phase ≠ 0 := by
  decide +kernel

/-- A ring whose segment yields to a task of higher priority, with a context slot; one whose segment has stopped its ports; a saved segment and
a scanned-out one that return. -/
theorem wit_TaskEvents_contexts :
    (let s := ({ tasked [{ task 1 with st := .running }, { task 2 with prio := 3 }] with pt := 2000 } : State).onHarbour 0
       (fun h => { h with ctxSlots := 1 }) |>.onRing 0 0 fun r => { r with seg := some { (Seg.bench 0xF8000000) with task := 1 } }
     s.preemptFor 0 0 = some { task 2 with prio := 3 } ∧ ((s.isle 0).hb.freeSlots 1).isSome = true ∧ (s.segD 0 0).halt ≠ .saving) ∧
    (let s := (placed.onHarbour 0 fun h => { h with ctxSlots := 1 }).onSeg 0 0 fun g => { g with halt := .saving }
     (s.segD 0 0).halt = .saving ∧ (s.segD 0 0).saveReady = true ∧ (s.isle 0).hb.freeSlots 1 = some [0]) ∧
    (let s := (tasked [{ task 1 with st := .running, dealt := true }]).onRing 0 0 fun r => { r with saved := [(placed.segD 0 0, 0)] }
     s.ringFree 0 0 = true ∧ (s.isle 0).backPrio 0 = some ((s.isle 0).hb.prioOf 1) ∧ (s.isle 0).nextTask 0 0 = none ∧ s.seg 0 0 = none) ∧
    (let s := (tasked [{ task 1 with st := .running, dealt := true }]).onRing 0 0 fun r => { r with scanned := [({ placed.segD 0 0 with cmd := true, id := 0 }, 0)] }
     s.ringFree 0 0 = true ∧ (s.isle 0).backPrio 0 = some ((s.isle 0).hb.prioOf 1) ∧ (s.isle 0).nextTask 0 0 = none ∧ s.seg 0 0 = none) := by
  decide +kernel

/-- The paging registers: a re-latch of one page, started and through; promotions that a task's write set, an absent page and a bad frame end,
and one that starts and completes, from 32 pages of 64 KiB that a table at 0x40000 maps. -/
def promoting (st dst : Nat) : State :=
  ((List.range 32).foldl (fun s i => s.setBytes (0x40000 + 128 * i) (leBytes 8 (((0x200000 + 0x10000 * i) / 4096 + 8) * 1024 + 0xDF + 2 ^ 63)))
    (((dock.setBytes 0x10000 (leBytes 8 (0x20 * 1024 + 1))).setBytes 0x20000 (leBytes 8 (0x30 * 1024 + 1))).setBytes 0x30000 (leBytes 8 (0x40 * 1024 + 1)))).onHarbour 0
    fun h => { h with promo := upd (fun _ => ⟨0, dst, 0, st, if st = 1 then some (0, dst, 0) else none⟩) h.promo 0 }

theorem wit_TaskEvents_paging :
    tb (0x40 : BitVec 32) 6 = true ∧
    (let s := dock.onHarbour 0 fun h => { h with relatch := ⟨0x10000, 1, 0, none, false⟩ }
     (s.isle 0).hb.relatch.act = none ∧ (s.isle 0).hb.relatch.pages ≠ 0) ∧
    (let s := dock.onHarbour 0 fun h => { h with relatch := ⟨0x10000, 1, 0, some (0x10000, 1, 0), false⟩ }
     s.relatchThrough 0 = true) ∧
    (dock.isle 0).hb.promo.length = 4 ∧ (nth default (dock.isle 0).hb.promo 0).state ≠ 1 ∧ (dock.isle 0).hb.writeSet 0 0 = false ∧
    (let s := tasked [{ task 1 with st := .running, regions := [⟨0, 4096, 2, 0, 0⟩] }]
     (s.isle 0).hb.writeSet 0 0 = true) ∧ dock.promoLeaves 0 0 0 = none ∧ (∀ c ∈ (dock.isle 0).ferry.hpc, c.marked = false) := by
  decide +kernel

theorem wit_TaskEvents_promotion :
    (let s := { promoting 1 0x200000 with ptRoot := List.replicate 64 0x10000 }
     (s.promoLeaves 0 0 0).isSome = true ∧ (s.isle 0).hb.relatch.act = none ∧ (nth default (s.isle 0).hb.promo 0).state = 1) := by decide +kernel


/-! ## Events of elements, of scrolling, of wharves and of copies -/

/-- Element 1 of the bench, which element 0 feeds: a marker at the head of every in-channel. -/
def gated (kind : Kind) : State :=
  ([0, 1, 2, 3].foldl (fun s k => setIn k [tok kind false 0] s) { bench with cur := ⟨0, 0, 0, 1, 0, 0⟩ }) |> both fun e =>
    { e with img := { e.img with cfg := { e.img.cfg with route := [0x2400, 0, 0, 0] } } }

/-- The element of the step with the MMA `m` and no other, at segment cycle 9. -/
def mmas (m : Mma) : State := (bench |> both fun e => { e with mq := [m] }).onCurSeg fun g => { g with sck := 9 }

theorem wit_ElementEvents : (gated .eoi).HasTiles ∧ bench.HasTiles ∧ (([Kind.eoi, .fin].all fun kind =>
      (let s := gated kind
       let g := s.segD 0 0
       g.gateReady 0 1 == some kind && !g.clockHeld && s.liveElem.cyc.fired == [] && !s.liveElem.cyc.gate && g.selected 0 1 == [] &&
         (g.live.stripe 0).res)) = true) ∧
    (let s := gated .fin
     [0, 1, 2, 3].filter (fun k => (s.segD 0 0).routed s.view k) = [0] ∧ routeKind (s.curElem.route 0) ≠ 3) ∧
    (let s := ({ State.reset.placeRule 0xFB080000 with cur := ⟨0, 0, 0, 0, 0, 0⟩, agenda := [] } : State) |> both fun e => { e with stage := [] }
     (s.view.intakeReady s.liveElem).isSome = true ∧ s.clockOn = true) ∧
    (let s := mmas (default : Mma)
     s.liveElem.startDue (s.segD 0 0).sck = some default ∧ s.clockOn = true) ∧
    (let s := mmas { (default : Mma) with start := some 0, dur := 9 }
     s.liveElem.endDue (s.segD 0 0).sck = some { (default : Mma) with start := some 0, dur := 9 } ∧ s.clockOn = true) ∧
    (let s := mmas { (default : Mma) with start := some 0, dur := 8, ended := true }
     s.liveElem.foldDue (s.segD 0 0).sck = some { (default : Mma) with start := some 0, dur := 8, ended := true } ∧ s.clockOn = true) := by
  unfold State.HasTiles State.HasElem State.HasSeg State.HasIsle
  decide +kernel

/-- R73: the gate adds 1 to ORD at an EOI and starts a run at a FIN. -/
theorem test_markerGateFire :
    sees (fun u => u.liveElem.ord == 1 && u.liveElem.erun == 0) (exec .markerGateFire (gated .eoi)) = true ∧
    sees (fun u => u.liveElem.ord == 0 && u.liveElem.erun == 1) (exec .markerGateFire (gated .fin)) = true := by decide +kernel

/-- A segment of three virtual stripes, all stateful, on a ring of three stripes: 0 and 1 are resident and stripe 2 of the window is free. -/
def scrolling : State :=
  { State.reset.placeRule 0xFC000000 with cur := ⟨0, 0, 0, 0, 0, 0⟩, agenda := [] }.onCurSeg fun g =>
    let im := { g.image with nstripe := 3, stateful := [true, true, true], stripes := List.replicate 3 (g.stripeImg 0) }
    { g with image := im }.window 3 0

/-- A change of stripe `p` of the segment, as it was before the cycle and as it is. -/
def atStripe (p : Nat) (f : Stripe → Stripe) (s : State) : State :=
  s.onCurSeg fun g => { g with live := g.live.onStripe p f, start := g.start.onStripe p f }

/-- Stripe 0 of it, END past, its state saved or not. -/
def leaving (saved : Bool) : State :=
  scrolling |> atStripe 0 fun st => { st with saved := saved, elems := st.elems.map fun (e : Elem) => { e with erun := 1 } }

/-- A task whose one stripe image is at 0x4000, its digest that of the bytes there or `d`. -/
def imaged (d : List Byte) : Task :=
  { task 1 with image := { (task 1).image with entry := 0x4000, stripes := [{ (nth default (task 1).image.stripes 0) with digest := d }] } }

/-- SHA3-256 of 8,192 zero bytes. -/
def zeroDigest : List Byte := [246, 129, 118, 77, 166, 74, 173, 50, 31, 54, 81, 85, 208, 207, 116, 50, 117, 0, 95, 5, 198, 117, 23, 160, 211, 117, 28, 38, 196, 239, 95, 161]

theorem wit_ScrollEvents_cache : ([zeroDigest, []].all fun d =>
    (let s := { mapped (tasked [imaged d]) with cur := ⟨0, 0, 0, 1, 0, 0⟩ }
     s.cur.n == 0 && (s.isle 0).hb.task s.cur.e == some (imaged d) && decide (s.cur.j < (imaged d).image.nstripe) &&
     !((s.isle 0).ring 0).cache.contains ((imaged d).no, 0) &&
     (s.pagesEnd (imaged d).card.tenant 0 ((imaged d).image.entry + stripeOff 0 + 0x40) 8192).isNone)) = true := by
  decide +kernel

theorem wit_ScrollEvents : scrolling.HasSeg ∧
    (let s := scrolling.onRing 0 0 fun r => { r with cache := [(0, 2)] }
     let g := s.segD 0 0
     g.stageAt = some 2 ∧ 2 < g.live.stripes.length ∧ g.scrolls = true ∧ g.stopped = false ∧ g.halt = .none ∧ g.nextRun < g.runsDealt ∧
     (g.live.stripe 2).res = false ∧ (∀ x ∈ g.live.stripes, x.stg = false) ∧ ((s.isle 0).ring 0).cache.contains (g.task, g.nextVs) = true) ∧
    findIdx (fun (st : Stripe) => st.stg && !st.saved) ((scrolling |> atStripe 2 fun st => { st with stg := true }).segD 0 0).live.stripes = some 2 ∧
    (let g := ((scrolling |> atStripe 2 fun st => { st with stg := true, saved := true }) |> atStripe 0 fun st => { st with res := false }).segD 0 0
     findIdx (fun (st : Stripe) => st.stg) g.live.stripes = some 2 ∧ g.clockHeld = false ∧ (g.live.stripe 2).saved = true ∧
     (g.live.stripe 2).hold = 0 ∧ (g.start.stripe (g.start.succ 2)).res = false) ∧
    (let g := (leaving false).segD 0 0
     g.saveDue 0 = some 0 ∧ 0 < g.live.stripes.length ∧ g.clockHeld = false ∧ (g.live.stripe 0).saved = false) ∧
    ((leaving true).segD 0 0).evictable 0 = true ∧ ((leaving true).wharf 0).wc = [] ∧
    ((leaving true).isle 0).trace.takes 4 0 = false ∧ (scrolling.isle 0).trace.takes 3 0 = false ∧
    (let g := (scrolling.onCurSeg fun g => { g with live := { g.live with parkd := [⟨1, 1, 0, 0, .tok Token.bench⟩] } }).segD 0 0
     g.clockHeld = false ∧ g.live.parkd = [⟨1, 1, 0, 0, .tok Token.bench⟩] ∧
     findIdx (fun (t : Stripe) => t.res && t.vs == 1 && t.run == 0) g.start.stripes = some 1 ∧ 1 < g.live.stripes.length ∧
     1 < (g.live.stripe 1).elems.length ∧ 0 < (g.live.elem 1 1).inq.length ∧
     (nth [] (g.live.elem 1 1).inq 0).length ≤ (nth [] (g.start.elem 1 1).inq 0).length ∧ (nth [] (g.live.elem 1 1).inq 0).length < 4) := by
  unfold State.HasSeg State.HasIsle
  decide +kernel

/-- R80, R81: the next virtual stripe is configured in the free stripe, and stripe 0 leaves. -/
theorem test_scroll :
    sees (fun u => ((u.segD 0 0).live.stripe 2).vs == 2 && ((u.segD 0 0).live.stripe 2).stg)
      (exec .stagingConfigure (scrolling.onRing 0 0 fun r => { r with cache := [(0, 2)] })) = true ∧
    sees (fun u => !((u.segD 0 0).live.stripe 0).res) (exec .stripeEvict (leaving true)) = true := by decide +kernel

/-- The bench with one region of 64 KiB, all modes, in the lagoon or in the home stack, and the wharf of stripe 0 changed by `f`. -/
def wharfed (lag : Bool) (f : Wharf → Wharf) : State :=
  (bench.onCurSeg fun g =>
    { g with regions := [⟨0, 0x10000, 7, 0, 0⟩], extents := [⟨0, 0, false, if lag then 0x8000000000 else 0x2000000, 1⟩] }) |> atStripe 0 fun st =>
    { st with wharf := f st.wharf }

/-- Request 7 of chain 0: operation `op` of one 64 B access, or with words in lanes 0 and 1, whose reply goes to register 2. -/
def asked (op : ReqOp) (sz : Nat) : Req :=
  { (default : Req) with no := 7, op := op, sz := sz, addr := Lanes.ofFn fun k => if sz = 0 ∨ k < 2 then 0 else skipLane,
                         data := Lanes.ofFn fun _ => 0x11223344, dest := .vreg 2, rpl := true }

/-- It heads its chain. -/
def asking (lag : Bool) (q : Req) : State :=
  wharfed lag fun w => { w with chains := upd (fun _ => [q]) w.chains 0, pend := [⟨7, 0, .vreg 2, true, false, none⟩] }

theorem wit_WharfEvents_issue : bench.HasWharf ∧
    (let s := asking true { asked .ld 0 with null := true }
     s.HasWharf ∧ s.issuable 0 0 = some { asked .ld 0 with null := true } ∧ s.behindRelatch 0 (s.segD 0 0) { asked .ld 0 with null := true } = false) ∧
    (let q := { asked .ld 0 with addr := Lanes.ofFn fun _ => 0x400 }
     let s := asking true q
     s.issuable 0 0 = some q ∧ s.behindRelatch 0 (s.segD 0 0) q = false ∧ s.slotsOk q = true ∧ q.chain = s.cur.j ∧
     (s.segD 0 0).failing 0 q = [(⟨0, 0, 0x10000, 64⟩, 2)] ∧ (s.segD 0 0).recs = []) ∧
    (∀ q ∈ [asked .ld 0, asked .ldq 0, asked .srd 0, asked .st 0, asked .swr 0, asked .stf 0, asked .sete 0, asked (.atom 1) 1],
      (asking true q).Issues q ∧ ((asking true q).wharf 0).wc = []) ∧
    (let q := asked .st 0
     let cells := (asking true q).storeCells ((asking true q).segD 0 0) 0 q
     (asking true q).Clean cells ∧ (∀ c ∈ cells, paLagoon c.1 = true) ∧ cells.length = 64) ∧
    (let q := asked .st 1
     let cells := (asking false q).storeCells ((asking false q).segD 0 0) 0 q
     (asking false q).Issues q ∧ (asking false q).Clean cells ∧ (∀ c ∈ cells, paLagoon c.1 = false) ∧ cells.length = 8) ∧
    (asked (.atom 1) 1).liveLanes ≠ 0 := by
  unfold State.HasWharf State.HasElem State.HasSeg State.HasIsle State.Issues State.Clean
  decide +kernel

/-- A wharf with a reply due, with a parked LDS, with a line of its buffer and a fence, with an update of lane 0, and with a diverted one. -/
def landing : State := wharfed true fun w => { w with pend := [⟨0, 0, .vreg 2, true, false, some (Token.bench, 0)⟩] }

def parkedLds : State :=
  { wharfed true (fun w => { w with parked := [{ asked .lds 0 with no := 0 }] }) with full := List.range' (granule 0x8000000000) 8 }

def buffered : State :=
  wharfed false fun w => { w with wc := [⟨0x2000000, [(0, 1)], 0, []⟩], fences := [{ (default : Fence) with scope := 3 }] }

def updating : State :=
  { wharfed true (fun w => { w with atoms := [⟨{ asked (.atom 1) 1 with no := 0 }, 1, Lanes.zero, 0, 0, 0⟩] }) with cur := ⟨0, 0, 0, 0, 0, 1⟩ }

def diverted : State :=
  wharfed true fun w => { w with rq := upd (fun _ => some ⟨1, asked (.atom 1) 1, 3, 3, 0, Lanes.zero, 0⟩) w.rq 0 }

theorem wit_WharfEvents_later :
    (let g := landing.segD 0 0
     let w := landing.wharf 0
     landing.HasWharf ∧ w.pend.find? (fun x => x.no == 0) = some ⟨0, 0, .vreg 2, true, false, some (Token.bench, 0)⟩ ∧ 0 ≤ g.wck ∧
     g.clockHeld = false ∧ (g.live.stripe 0).res = true ∧ w.pend.length = 1 ∧ Token.bench.kind = .data ∧ (nullTok (default : Req)).kind = .null) ∧
    ((parkedLds.wharf 0).parked.find? (fun q => q.no == 0 && q.op == .lds) = some { asked .lds 0 with no := 0 } ∧
     parkedLds.ldsReady (parkedLds.segD 0 0) 0 { asked .lds 0 with no := 0 } = true ∧ (parkedLds.segD 0 0).stopped = false) ∧
    ((buffered.segD 0 0).drainsNow 0 = true ∧ (buffered.wharf 0).wc = [⟨0x2000000, [(0, 1)], 0, []⟩] ∧ buffered.Clean [(0x2000000, 1)]) ∧
    (let q := { asked (.atom 1) 1 with no := 0 }
     let g := updating.segD 0 0
     (updating.wharf 0).atoms = [⟨q, 1, Lanes.zero, 0, 0, 0⟩] ∧ (1 : W16) = BitVec.ofNat 16 (2 ^ 0) ∧ (updating.ownerCause 0 0 q 1).1 = 0 ∧
     g.lanePa 0 q 0 = some 0x8000000000 ∧ g.ownerAt 0 0x8000000000 = none ∧ bitN updating.cur.x 0 = true ∧ updating.laneCause 0 0 q 0 = 0 ∧
     Memory.wf updating.mem = true ∧ q.rpl = true ∧ 0 < Lanes.zero.length ∧ tb q.liveLanes 0 = true) ∧
    (let e : Repair := ⟨1, asked (.atom 1) 1, 3, 3, 0, Lanes.zero, 0⟩
     nth none (diverted.wharf 0).rq 0 = some e ∧ (∀ i, i < 16 → tb e.lmask i = true → diverted.laneCause 0 0 e.req i ≠ 1) ∧
     (diverted.segD 0 0).stopped = false ∧ (diverted.segD 0 0).failing 0 { e.req with held := true } = [] ∧ e.lmask &&& e.req.liveLanes ≠ 0) := by
  unfold State.HasWharf State.HasElem State.HasSeg State.HasIsle State.Clean
  decide +kernel

/-- R229, R230, R261: LD replies with the bytes of memory, STF sets its granules full, and an ADD adds at its word. -/
theorem test_wharf :
    sees (fun u => (u.wharf 0).pend.any fun x => match x.got with | some (t, _) => t.lanes.get 1 == 0x04030201 | none => false)
      (exec .wharfRequestIssue ((asking true (asked .ld 0)).setBytes 0x8000000004 [1, 2, 3, 4])) = true ∧
    sees (fun u => u.isFull 0x8000000038 && u.num 0x8000000004 4 == 0x11223344) (exec .wharfRequestIssue (asking true (asked .stf 0))) = true := by
  decide +kernel

/-- A CPY1 of 64 bytes from 0x8000 to 0x9000 in slot 0 of the ferry of isle 0, of which nothing has been read, or all of it. -/
def copy1 : Copy := { (default : Copy) with src := 0x8000, dst := 0x9000, len := 64 }

def copy1Read : Copy := { copy1 with read := 64, got := (List.range 64).map fun b => ⟨b, 0, 5, false, some (0x8000 + b), 0⟩ }

def copying (c : Copy) (s : State) : State := s.onFerry 0 fun f => { f with copies := [(0, c)], ftout := 100 }

/-- The second GiB of every tenant is memory of host 0, whose bridge is not up. -/
def hostMapped : State := (mapped dock).setBytes 0x10001008 (leBytes 8 (2 ^ 46 / 4096 * 1024 + 0xDF))

/-- The second GiB of every tenant is isle 1. -/
def isleMapped : State := (mapped dock).setBytes 0x10001008 (leBytes 8 (2 ^ 40 / 4096 * 1024 + 0xDF))

/-- An object at lagoon address 0 for which a BWAIT is parked. -/
def parkedBwait : State :=
  wharfed true fun w => { w with parked := [{ asked .bwait 0 with no := 0 }] }

/-- The hypothesis of a plain landing, decided. -/
theorem lands_plainly (s : State) (c : Copy) (off len : Nat)
    (h : (c.fresh off len && decide (c.wholeTo (off + len) ≤ c.read) && !s.copyCut s.cur.n c && s.copyImage s.cur.n c == none &&
      s.wholeElems s.cur.n c off len && c.obj == none && c.queue == none &&
      (s.landing s.cur.n c off len).all fun x => !x.2.cmp && !s.noReply x.2.pa && !paHost x.2.pa && !x.1.pois &&
        (match x.1.src with | some a => !s.noReply a | none => true)) = true) : s.LandsPlainly c off len := by
  simp only [Bool.and_eq_true, Bool.not_eq_true', beq_iff_eq, List.all_eq_true, decide_eq_true_eq] at h
  obtain ⟨⟨⟨⟨⟨⟨⟨h1, h2⟩, h3⟩, h4⟩, h5⟩, h6⟩, h7⟩, h8⟩ := h
  refine ⟨h1, h2, h3, h4, h5, h6, h7, fun x hx => ?_⟩
  obtain ⟨⟨⟨⟨a1, a2⟩, a3⟩, a4⟩, a5⟩ := h8 x hx
  refine ⟨a1, a2, a3, a4, fun a e => ?_⟩
  rw [e] at a5
  simpa using a5

theorem wit_CopyEvents_landing :
    (copying copy1Read (mapped dock)).LandsPlainly copy1Read 0 63 ∧ (copying copy1Read (mapped dock)).LandsPlainly copy1Read 0 64 ∧
    (let s := copying copy1Read (mapped dock)
     s.HasIsle ∧ (s.isle 0).ferry.waiting = [] ∧ (s.isle 0).ferry.copy 0 = some copy1Read ∧ Memory.wf s.mem = true ∧ copy1Read.done + 63 ≠ copy1Read.bytes ∧
     copy1Read.done + 64 = copy1Read.bytes ∧ (s.copyCells copy1Read 0 64).length = 64) := by
  refine ⟨lands_plainly _ _ _ _ (by decide +kernel), lands_plainly _ _ _ _ (by decide +kernel), ?_⟩
  unfold State.HasIsle
  decide +kernel

/-- A copy at an unmapped page; suspended ones whose page is found, their next access toward this panel and toward a host whose bridge is
not up; a copy and a forward whose request of isle 1 is late; a BWAIT whose object is open, and one whose object is poisoned. -/
theorem wit_CopyEvents : bench.HasIsle ∧
    (let s := copying copy1 dock
     ((List.range copy1.unitSize).map (0 + ·)).findSome? (fun x => s.copyFaultAt 0 copy1 x) = some (1, .src, 0x8000) ∧
     copy1.susp = none ∧ 0 < copy1.bytes ∧ copy1.read = 0 ∧ (s.isle 0).ferry.waiting = []) ∧
    (∀ src ∈ [0x8000, 2 ^ 30],
     let c := { copy1 with src := src, susp := some (0, 1, .dst, 0x9000), found := true }
     let s := copying c hostMapped
     (s.isle 0).ferry.copy 0 = some c ∧ accessFault (s.fwalk 0 c.tenant 0x9000) (Side.dst == .dst) = 0 ∧ c.obj = none ∧
     ((s.nextReads 0 c).any fun x => (s.copyPa 0 c.tenant x.2 false).any s.hostDown) = decide (src = 2 ^ 30)) ∧
    (∀ e ∈ [none, some 0],
     let c := { copy1 with src := 2 ^ 30, edge := e }
     let s : State := { copying c (viewed isleMapped) with pt := 100 }
     (s.isle 0).ferry.copy 0 = some c ∧ (Side.src, 2 ^ 30, 0) ∈ s.copyAsks 0 c ∧ s.copyPa 0 c.tenant (2 ^ 30) false = some (2 ^ 40) ∧
     paIsle (2 ^ 40) = 1 ∧ s.copyFrozen 0 c = false ∧ (s.isle 0).ferry.ftout ≤ s.pt - 0 ∧
     ((s.copyAsks 0 c).all fun y => (s.copyPa 0 c.tenant y.2.1 (y.1 == .dst)).all fun b =>
       paPanel b && (s.isle 0).pview.members.any fun m => m.2 == paIsle b) = true) := by
  unfold State.HasIsle
  decide +kernel

theorem wit_CopyEvents_bwait :
    (let q := { asked .bwait 0 with no := 0 }
     let g := parkedBwait.segD 0 0
     parkedBwait.HasWharf ∧ (parkedBwait.wharf 0).parked.find? (fun q => q.no == 0 && q.op == .bwait) = some q ∧ g.objPa 0 q = some 0x8000000000 ∧
     g.stopped = false ∧ parkedBwait.objPois 0x8000000000 = none ∧ (parkedBwait.bobj 0x8000000000).pend = 0 ∧
     (parkedBwait.bobj 0x8000000000).fault = false ∧ nth none (parkedBwait.wharf 0).arr q.chain = none ∧
     (parkedBwait.poison (poisonUnit 0x8000000000)).objPois 0x8000000000 = some 0x8000000000 ∧ g.recs = [] ∧ q.chain < 4) := by
  unfold State.HasWharf State.HasElem State.HasSeg State.HasIsle
  decide +kernel

/-- R277: a CPY1 lands the bytes of its source. -/
theorem test_copyBytesLand :
    sees (fun u => u.num 0x9004 4 == 0x04030201 && (u.isle 0).ferry.copies.isEmpty)
      (exec (.copyBytesLand 0 64) (copying copy1 ((mapped dock).setBytes 0x8004 [1, 2, 3, 4]))) = true := by decide +kernel


/-! ## Events of collectives and of membership -/

/-- An ARED of INT32 over isles 0 and 1, in slot 0 of isle 0: communicator 0, sequence number 0, `n` elements to 0x9000, whose page it
held as it issued. -/
def ared (n : Nat) (recv : List Contrib) : CollOp :=
  { (default : CollOp) with ctl := 13, dst := 0x9000, count := n, eff := [(0, 0), (0, 1)], first := [(0, 0), (0, 1)], recv := recv,
                              map := [⟨0, 0, 30, 0, 0xDF, 0x10001000⟩] }

/-- Contributions of one element from both. -/
def both2 : List Contrib := [⟨(0, 0), (ared 1 []).sig, 0, [1, 0, 0, 0]⟩, ⟨(0, 1), (ared 1 []).sig, 0, [2, 0, 0, 0]⟩]

def colling (o : CollOp) (s : State) : State := s.onIsle 0 fun i => { i with ops := [(0, o)] }

theorem wit_CollectiveEvents_flits : bench.HasIsle ∧
    (let b := Payload.collData 0 0 (ared 1 []).sig 0 [2, 0, 0, 0] false
     (match (flit false 2 b dock).flitFor 0 0 with | some f => f.body == b && f.view != (dock.memb 0 false).num | none => false) = true ∧
     (match (flit false 1 b dock).flitFor 0 0 with | some f => f.body == b && f.view == (dock.memb 0 false).num | none => false) = true) ∧
    ((colling (ared 1 []) dock).isle 0).opBySeq 0 0 = some (0, ared 1 []) ∧ ((colling (ared 1 []) dock).isle 0).op 0 = some (ared 1 []) ∧
    [1] ≠ (ared 1 []).sig ∧
    (dock.isle 0).opBySeq 0 0 = none ∧ ((dock.isle 0).comm 0).seq ≤ 0 ∧
    0 < ((dock.onIsle 0 fun i => { i with comms := upd (fun c => { c with seq := 1 }) i.comms 0 }).isle 0 |>.comm 0).seq ∧
    (match (flit false 0 (.collAbort 0 0 5) dock).flitFor 0 0 with | some f => f.body == .collAbort 0 0 5 | none => false) = true := by
  unfold State.HasIsle
  decide +kernel

theorem wit_CollectiveEvents_ops :
    (∀ d ∈ [false, true], ∀ n ∈ [0, 1],
      let o := { ared n both2 with discard := d }
      let s : State := { mapped (colling o dock) with pt := 1000000000 }
      (s.isle 0).op 0 = some o ∧ o.status = none ∧ s.collFrozen 0 o = false ∧ s.opPaused 0 o = false ∧ (s.isle 0).colTout ≤ s.pt - o.since ∧
      dock.pt - o.since < (dock.isle 0).colTout ∧ o.complete = true ∧ o.count = n) ∧
    (let o := ared 1 both2
     let s := mapped (colling o dock)
     o.result (s.member 0) = ([(0x9000, [3, 0, 0, 0])], 0) ∧ (o.leaf 0x9003).isSome = true ∧
     s.Clean ((([3, 0, 0, 0] : List Byte).zip (List.range 4)).filterMap fun x => (o.leaf ((0x9000 + x.2) % 2 ^ 64)).map fun l => (l.pa, x.1))) := by
  unfold State.Clean
  decide +kernel

theorem wit_CollectiveEvents_waits :
    (let q := { asked .cwait 0 with data := Lanes.zero }
     let w : Wharf → Wharf := fun w => { w with parked := [{ q with no := 0 }] }
     let o := { ared 1 both2 with seg := 1, status := some ⟨0, 0, 2, 0, 0, 0⟩ }
     (wharfed true w).HasWharf ∧ ((wharfed true w).wharf 0).parked = [{ q with no := 0 }] ∧ ((wharfed true w).segD 0 0).stopped = false ∧
     (colling o (wharfed true w)).opOfId 0 1 0 = some (0, o) ∧ ((wharfed true w).segD 0 0).id.toNat = 1 ∧ (wharfed true w).opOfId 0 1 0 = none) ∧
    ((0xFF : Nat) < 0x100 ∧ 16 ≤ ((0x300 : Nat) - 0x100) / 0x20 ∧ ((colling (ared 1 []) dock).isle 0).ops.any (fun o => o.2.comm == 0 && o.2.status.isNone) = true ∧
     0 < (dock.isle 0).comms.length ∧ (dock.isle 0).ops = []) := by
  unfold State.HasWharf State.HasElem State.HasSeg State.HasIsle
  decide +kernel

/-- R293, R297: the sum of the contributions is written. -/
theorem test_collComplete :
    sees (fun u => u.num 0x9000 4 == 3 && ((u.isle 0).op 0).any fun o => o.status.any fun st => st.code == 0 && st.n == 2)
      (exec .collComplete (mapped (colling (ared 1 both2) dock))) = true := by decide +kernel

/-- The membership of isle 0 in the panel: members 0, 1 and 2, in a state. -/
def memb3 (st : MState) : Memb :=
  { (default : Memb) with num := 1, members := [(0, 0), (0, 1), (0, 2)], st := st, vmax := 1, acked := 1, heard := [((0, 1), 100)] }

def membered (m : Memb) (s : State) : State := s.onIsle 0 fun i => { i with pview := m }

/-- The step stands at peer 1 of isle 0. -/
def peer1 : State := { dock with cur := ⟨0, 0, 0, 1, 0, 0⟩ }

theorem wit_MembershipEvents_times : bench.HasIsle ∧ peer1.curSys = false ∧
    (let s := membered (memb3 .stable) peer1
     let m := s.memb 0 false
     (s.isle 0).up = true ∧ m.sentHb = none ∧ m.st ≠ .joining ∧ m.members ≠ [] ∧ m.members.contains (s.cur.p, s.cur.e) = true ∧
     m.susp.contains (s.cur.p, s.cur.e) = false ∧ (m.beats false (s.cur.p, s.cur.e)).contains (s.member 0) = true ∧
     m.heard.find? (fun h => h.1 == (s.cur.p, s.cur.e)) = some ((s.cur.p, s.cur.e), 100) ∧ 5000 ≤ 5100 - 100 ∧ 5099 - 100 < 5000 ∧
     ({ m with susp := insMember (0, 1) m.susp } : Memb).leader = some (s.member 0)) ∧
    (membered (memb3 .joining) peer1).memb 0 false = memb3 .joining ∧ (memb3 .joining).sentHb = none ∧
    (∀ acks ∈ [[((0, 0) : Member)], [(0, 0), (0, 1)]],
     let m := { memb3 .proposing with prop := some (2, [(0, 0), (0, 1)], acks), timer := 0 }
     (membered m peer1).memb 0 false = m ∧ m.timer ≤ peer1.pt ∧ m.majority acks = decide (acks.length = 2)) ∧
    (let m := { memb3 .prepared with prep := some (2, (0, 0)) }
     ({ m with susp := insMember (0, 0) m.susp } : Memb).leader = some (0, 1) ∧ (0, 1) ≠ peer1.member 0 ∧
     ({ m with susp := insMember (0, 2) m.susp } : Memb).leader = some (peer1.member 0) ∧ m.vmax + 1 < 2 ^ 32) := by
  unfold State.HasIsle
  decide +kernel

theorem wit_MembershipEvents_flits :
    (([Payload.heartbeat, .fatal, .suspect (0, 2), .propose 2 [(0, 0), (0, 1)], .propose 1 [], .ack 2, .commit 2 [(0, 0), (0, 1)], .commit 2 [(0, 1)],
        .join].all fun b =>
      [MState.stable, .proposing, .prepared].all fun st =>
        (match (flit false 1 b (membered (memb3 st) peer1)).flitFor 0 0 with | some f => f.body == b && f.src == (0, 1) && !f.sys | none => false)) = true) ∧
    (memb3 .stable).acked < 2 ∧ 1 ≤ (memb3 .stable).acked ∧
    ({ memb3 .stable with susp := insMember (0, 2) [] } : Memb).leader = some (peer1.member 0) ∧
    (let m := { memb3 .proposing with prop := some (2, [(0, 0), (0, 1), (0, 3)], [(0, 0)]), joiners := [(0, 3)] }
     let acks := insMember (0, 1) [(0, 0)]
     ([(0, 0), (0, 1), (0, 3)].all (fun x => m.joiners.contains x || acks.contains x) && m.majority acks) = true) ∧
    (let m := { memb3 .proposing with prop := some (2, [(0, 0), (0, 1), (0, 2)], [(0, 0)]) }
     let acks := insMember (0, 1) [(0, 0)]
     ([(0, 0), (0, 1), (0, 2)].all (fun x => m.joiners.contains x || acks.contains x) && m.majority acks) = false) ∧
    (memb3 .stable).num < 2 ∧
    (let m := { memb3 .stable with members := [(0, 0), (0, 2)] }
     m.leader = some (peer1.member 0) ∧ (0, 1) ∉ m.members ∧ max m.vmax 1 + 1 < 2 ^ 32) := by
  decide +kernel

/-- R302, R303: a peer silent for 5,000 PT is suspected, and the leader proposes the next view without it. -/
theorem test_suspectTimeout :
    sees (fun u => (u.memb 0 false).st == .proposing && (u.memb 0 false).prop == some (2, [(0, 0), (0, 2)], [(0, 0)]))
      (exec .suspectTimeout { membered (memb3 .stable) peer1 with pt := 5100 }) = true := by decide +kernel


/-! ## Events of ports and mailboxes -/

/-- The bench with a stream entry to which channel 0 of element 0 is routed, its port in a state, and a region of 4 KiB of a mode. -/
def ported (x : StreamEnt) (p : Port) (mode : Nat) : State :=
  ({ State.reset.placeRule 0xFC000000 with cur := ⟨0, 0, 0, 0, 0, 0⟩, agenda := [] }.onCurSeg fun g =>
    { g with image := { g.image with streams := [x] }, ports := [p], runsDealt := 1, runs := [⟨0, 0, 1⟩],
             regions := [⟨0, 0x1000, mode, 0, 0⟩], extents := [⟨0, 0, false, 0x2000000, 1⟩] }) |> both fun e =>
    { e with img := { e.img with cfg := { e.img.cfg with route := upd (fun _ => 0x8000) e.img.cfg.route 0 } } }

/-- An input and an output port of region 0 with two tokens an invocation. -/
def inPort (p : Port) (mode : Nat) : State := ported ⟨0, 0, 0, 0, 128⟩ p mode
def outPort (t : Token) (p : Port) (mode : Nat) : State :=
  ported ⟨0, 0, 1, 0, 128⟩ p mode |> both fun e => { e with oq := upd (fun _ => [Slot.tok t]) e.oq 0 }

theorem wit_PortEvents_input :
    (∀ p ∈ [(⟨0, 1, 0, false⟩ : Port), ⟨0, 0, 2, true⟩, ⟨0, 0, 1, true⟩],
     let s := inPort p 1
     let g := s.segD 0 0
     s.HasSeg ∧ 0 < g.ports.length ∧ g.portDest 0 = some (0, 0, 0) ∧ g.live.HasPlace (0, 0, 0) ∧ g.portRun 0 = some 1 ∧ (g.stream 0).kind = 0 ∧
     (g.stream 0).dir = 0 ∧ g.portRuns 0 = true ∧ s.portTokens 0 g (g.stream 0) = 2 ∧ g.port 0 = p ∧ g.keptNext 0 = none ∧ (g.stream 0).idx ≠ 0xFFFF ∧
     g.recs = [] ∧ g.portCheck 0 64 0 = 0 ∧ g.extentOf 0 64 = some ⟨0, 0, false, 0x2000000, 1⟩) ∧
    ((inPort ⟨0, 0, 1, true⟩ 2).segD 0 0).portCheck 0 64 0 = 3 ∧
    (let t : Kept := ⟨0, 0, 0, Token.bench, 0⟩
     (((inPort ⟨0, 0, 0, false⟩ 1).onCurSeg fun g => { g with replaying := [t] }).segD 0 0).keptNext 0 = some t) := by
  unfold State.HasSeg State.HasIsle Core.HasPlace
  decide +kernel

theorem wit_PortEvents_output :
    (∀ t ∈ [tok .eoi false 0, tok .fin false 0, Token.bench, ({ Token.bench with poison := true } : Token).sealed], ∀ k ∈ [0, 2],
     let s := outPort t ⟨0, 0, k, true⟩ 2
     let g := s.segD 0 0
     s.HasSeg ∧ 0 < g.ports.length ∧ g.outHead 0 = some ((0, 0, 0), t) ∧ g.live.HasPlace (0, 0, 0) ∧ (g.stream 0).kind = 0 ∧ (g.stream 0).dir = 1 ∧
     g.clockHeld = false ∧ (g.stream 0).stride / 64 = 2 ∧ g.recs = [] ∧ g.portCheck 0 0 1 = 0) ∧
    Token.bench.kind = .data ∧ Token.bench.pois = false ∧ ({ Token.bench with poison := true } : Token).sealed.pois = true ∧
    ({ Token.bench with poison := true } : Token).sealed.chkOk = true ∧ ((outPort Token.bench ⟨0, 0, 0, true⟩ 1).segD 0 0).portCheck 0 0 1 = 3 ∧
    (let s := outPort Token.bench ⟨0, 0, 0, true⟩ 2
     s.Clean (((s.portBytes 0 (s.segD 0 0) 0 0).zip (laneBytes Token.bench.lanes)).filterMap fun y => y.1.map fun pa => (pa, y.2))) := by
  unfold State.HasSeg State.HasIsle Core.HasPlace State.Clean
  decide +kernel

/-- R74, R211: the port delivers the bytes of its place in memory, and an EOI; an output port writes its token there. -/
theorem test_ports :
    sees (fun u => match nth [] ((u.segD 0 0).live.elem 0 0).inq 0 with | [_, .tok t] => t.lanes.get 0 == 0x04030201 | _ => false)
      (exec .inputPortDeliver ((inPort ⟨0, 0, 1, true⟩ 1).setBytes 0x2000040 [1, 2, 3, 4])) = true ∧
    sees (fun u => match nth [] ((u.segD 0 0).live.elem 0 0).inq 0 with | [_, .tok t] => t.kind == .eoi | _ => false)
      (exec .inputPortDeliver (inPort ⟨0, 0, 2, true⟩ 1)) = true ∧
    sees (fun u => u.num 0x2000040 4 == 7)
      (exec .outputPortWrite (outPort ({ Token.bench with lanes := Lanes.ofFn fun _ => 7 } : Token).sealed ⟨0, 0, 1, true⟩ 2)) = true := by
  decide +kernel

/-- Mailbox 0 of isle 0, bound to run 0 of segment 1, its episode 7 open. -/
def mailed (f : Mbx → Mbx) (s : State) : State :=
  s.onMbx 0 0 fun m => f { m with en := true, tenant := 0, open_ := true, epi := 7, cur := some (1, 0), act := [], obs := [] }

/-- An action: epoch `epi`, step `step`. -/
def action (epi step : W) : Token := ({ Token.bench with lanes := Lanes.ofList [epi, step] } : Token).sealed

/-- An output port and an input port of mailbox 0. -/
def actPort (t : Token) : State := ported ⟨1, 0, 1, 0, 0⟩ ⟨0, 0, 0, true⟩ 0 |> both fun e => { e with oq := upd (fun _ => [Slot.tok t]) e.oq 0 }
def obsPort (p : Port) : State := ported ⟨1, 0, 0, 0, 0⟩ p 0

theorem wit_MailboxEvents_actions :
    (∀ t ∈ [tok .eoi false 0, action 7 0, action 7 5, action 8 0], ∀ open_ ∈ [true, false],
     let s := mailed (fun m => { m with open_ := open_, astep := 0xFFFFFFFF }) (actPort t)
     let g := s.segD 0 0
     let box := (s.isle 0).mailbox 0
     s.HasIsle ∧ s.HasSeg ∧ 0 < g.ports.length ∧ g.outHead 0 = some ((0, 0, 0), t) ∧ g.live.HasPlace (0, 0, 0) ∧ (g.stream 0).kind = 1 ∧
     (g.stream 0).dir = 1 ∧ g.clockHeld = false ∧ 0 < (s.isle 0).mbx.length ∧ box.cur = some (g.id.toNat, 0) ∧ g.released = false ∧ g.recs = [] ∧
     box.act.length < 32 ∧ s.rtOver 0 0 = false ∧ t.pois = false ∧ box.open_ = open_ ∧ box.aborted = false ∧ box.epi.toNat = 7 ∧
     stepAfter box.astep = 0) ∧
    ((action 7 0).lanes.get 0).toNat % 2 ^ 16 = 7 ∧ (action 7 0).lanes.get 1 = 0 ∧ (action 7 5).lanes.get 1 = 5 ∧ (action 7 0).kind = .data := by
  unfold State.HasSeg State.HasIsle Core.HasPlace
  decide +kernel

theorem wit_MailboxEvents_observations :
    (∀ p ∈ [(⟨0, 0, 1, true⟩ : Port), ⟨0, 1, 0, false⟩, ⟨0, 0, 0, false⟩],
     let s := mailed (fun m => { m with obs := [Token.blank] }) (obsPort p)
     let g := s.segD 0 0
     s.HasSeg ∧ 0 < g.ports.length ∧ g.portDest 0 = some (0, 0, 0) ∧ g.live.HasPlace (0, 0, 0) ∧ g.portRun 0 = some 1 ∧ (g.stream 0).kind = 1 ∧
     (g.stream 0).dir = 0 ∧ g.portRuns 0 = true ∧ g.port 0 = p ∧ g.released = false ∧ ((s.isle 0).mailbox 0).obs = [Token.blank] ∧
     ((s.isle 0).mailbox 0).cur = some (g.id.toNat, 0) ∧ 0 < (s.isle 0).mbx.length) := by
  unfold State.HasSeg State.HasIsle Core.HasPlace
  decide +kernel

/-- A hart in an episode of mailbox 0 whose cycle budget of 1 is overrun, and whose round trip of 10 is. -/
def overrun : State :=
  { mailed (fun m => { m with rtStart := some 0 }) hart with pt := 12 }.onHart 0 0 fun h =>
    { h with epi := some { (default : Episode) with id := 7, cyc := 1, cycRun := true, cycCnt := 3, rtt := 10 } }

theorem wit_MailboxEvents_harts :
    (let m := (mailed (fun m => { m with cur := none, next := some (2, 5) }) dock).isle 0 |>.mailbox 0
     m.next = some (2, 5) ∧ m.cur = none) ∧
    (let m := (mailed (fun m => { m with next := some (2, 5), follow := true }) dock).isle 0 |>.mailbox 0
     m.next = some (2, 5) ∧ m.follow = true ∧ m.handed = m.acted) ∧
    (let m := (mailed (fun m => { m with next := some (2, 5) }) dock).isle 0 |>.mailbox 0
     m.cur ≠ none ∧ m.open_ = true ∧ m.follow = false) ∧ 0 < (dock.isle 0).mbx.length ∧
    (let e := { (default : Episode) with id := 7, cyc := 1, cycRun := true, cycCnt := 3, rtt := 10 }
     overrun.HasHart ∧ overrun.h.epi = some e ∧ e.mbx < (overrun.isle 0).mbx.length ∧ e.cycRun = true ∧ e.cyc ≠ 0 ∧ e.cyc.toNat + 1 < e.cycCnt ∧
     ((overrun.isle 0).mailbox 0).hart = 0 ∧ ((overrun.isle 0).mailbox 0).rtStart = some 0 ∧ ((overrun.isle 0).mailbox 0).open_ = true ∧
     e.rtt ≠ 0 ∧ e.rtt + 1 < overrun.pt - 0) := by
  unfold State.HasHart State.HasIsle
  decide +kernel

/-- R376, R378: the action of the next step is queued, and one of another step is an EPISODE fault. -/
theorem test_mbxActionWrite :
    sees (fun u => ((u.isle 0).mailbox 0).act.length == 1 && ((u.isle 0).mailbox 0).astep == 0)
      (exec .mbxActionWrite (mailed (fun m => { m with astep := 0xFFFFFFFF }) (actPort (action 7 0)))) = true ∧
    sees (fun u => faults u == [(9, 0)])
      (exec .mbxActionWrite (mailed (fun m => { m with astep := 0xFFFFFFFF }) (actPort (action 7 5)))) = true := by decide +kernel


/-! ## Events of stops, containment, spares and the health monitor -/

/-- A CONTAIN record. -/
def contained : Rec := { Rec.blank with kind := 7, cause := 1 }

/-- The bench with a change of its segment, on an isle that contains faults three times. -/
def stopping (f : Seg → Seg) : State :=
  (bench.onCurSeg f).onContain 0 fun c => { c with replayTry := 3 }

/-- The spare of stripe 0 of the bench. -/
def spared (f : Spare → Spare) : State := bench.onSpare 0 0 0 fun _ => f default

theorem wit_ContainmentEvents_stops : bench.HasSeg ∧
    (let s := stopping fun g => { g with stall := 2 ^ ((bench.isle 0).ring 0).log2t }
     (s.segD 0 0).stallDue (2 ^ ((s.isle 0).ring 0).log2t) = true) ∧
    (let s := stopping fun g => { g with frz := some 0, sck := 9, recs := [contained] }
     let g := s.segD 0 0
     g.frz = some 0 ∧ 0 + 9 ≤ g.sck ∧ g.stopped = false ∧ s.contains 0 g = true) ∧
    (let s := stopping fun g => { g with frz := some 0, sck := 9, recs := [{ contained with kind := 1 }] }
     let g := s.segD 0 0
     g.frz = some 0 ∧ 0 + 9 ≤ g.sck ∧ g.stopped = false ∧ s.contains 0 g = false) ∧
    (let g := (stopping fun g => { g with frz := some 0, sck := 8 }).segD 0 0
     g.frz = some 0 ∧ g.sck < 0 + 9) ∧
    (let g := ((bench.onIsle 0 fun i => { i with bps := [default] }) |> atStripe 0 fun st =>
       { st with arm := some ⟨0, 0, 2, 0⟩, elems := st.elems.map fun (e : Elem) => { e with erun := 1 } }).segD 0 0
     g.stopped = false ∧ g.commitAt = some 0 ∧ g.commitDue 0 = some ⟨0, 0, 2, 0⟩) ∧
    (let s := stopping fun g => { g with stopped := true, recs := [contained] }
     let g := s.segD 0 0
     g.stopped = true ∧ g.nrec = 0 ∧ g.recs ≠ [] ∧ s.contains 0 g = true ∧ g.settled = true) ∧
    (let g := ((stopping fun g => { g with stopped := true, cmd := true }) |> atStripe 0 fun st =>
       { st with wharf := { st.wharf with atoms := [⟨asked (.atom 1) 1, 1, Lanes.zero, 0, 0, 0⟩] } }).segD 0 0
     g.stopped = true ∧ g.cmd = true ∧ g.settled = false) := by
  unfold State.HasSeg State.HasIsle
  decide +kernel

theorem wit_ContainmentEvents_spares :
    0 < ((bench.isle 0).ring 0).spares.length ∧ ((bench.segD 0 0).live.stripe 0).res = true ∧ (bench.segD 0 0).clockHeld = false ∧
    (∀ l ∈ [[], [((0 : Nat), (0 : Nat)), (0, 0)], [(1, 0)]],
     let s := spared fun x => { x with mism := l }
     s.shadows 0 0 0 = true ∧ ({ ((s.isle 0).ring 0).spare 0 with mism := l ++ [(0, s.pt)] } : Spare).verdict s.pt 100 =
       (if l.length = 0 then 0 else if l.length = 2 then 1 else 2)) ∧
    (let s := spared fun x => { x with eois := (bench.isle 0).cont.spareInt }
     let r := (s.isle 0).ring 0
     s.shadows 0 0 0 = true ∧ (r.spare 0).spent = none ∧ (r.spare 0).due = none ∧ 2 ≤ ((s.segD 0 0).usedElems 0).length ∧
     (s.isle 0).cont.spareInt ≤ (r.spare 0).eois ∧
     (((s.segD 0 0).usedElems 0).find? fun y => decide ((r.spare 0).at_ < y)).getD 0 = 1) ∧
    (let x := ((spared fun x => { x with due := some 1, eois := 1 }).isle 0).ring 0 |>.spare 0
     x.due = some 1 ∧ x.spent = none ∧ 0 < x.eois) ∧
    (∀ n ∈ [24, 25],
     let r := ((spared fun x => { x with due := some 1, spent := some 0 }).onRing 0 0 fun r => { r with stripes := n }).isle 0 |>.ring 0
     (r.spare 0).spent.isSome = true ∧ (r.spare 0).due.isSome = true ∧ r.stripes = n) ∧ (bench.segD 0 0).recs = [] := by
  decide +kernel

theorem wit_ContainmentEvents_health :
    (let c := ((bench.onContain 0 fun c => { c with thr := upd (fun _ => 1) c.thr 0, ce := upd (fun _ => [0, 0]) c.ce 0 }).isle 0).cont
     nth 0 c.thr 0 = 1 ∧ 1 < c.ceCount 0 0 ∧ nth true c.crossed 0 = false) ∧ (bench.isle 0).cont.ceCount 0 0 ≤ nth 0 (bench.isle 0).cont.thr 0 ∧
    nth 0 ((bench.onContain 0 fun c => { c with thr := upd (fun _ => 0) c.thr 0 }).isle 0).cont.thr 0 = 0 ∧
    (let c := ((bench.onContain 0 fun c => { c with holdUntil := some 5 }).isle 0).cont
     c.holdUntil = some 5 ∧ bench.pt < 5 ∧ ({ bench with pt := 5 } : State).pt = 5) ∧ 5 < (bench.isle 0).cont.ue.length ∧
    paStack (paOf 0 (64 * 0)) = true ∧ paStack (paOf 0 (64 * 0x3BFFFFFF)) = true ∧ 10 < (bench.isle 0).cont.ce.length ∧ 10 < (bench.isle 0).cont.ue.length := by
  decide +kernel

/-- R429 to R431: a contained freeze stops without records, and the segment starts again. -/
theorem test_containmentSequence :
    sees (fun u => !(u.segD 0 0).stopped && (u.segD 0 0).recs == [] && (u.segD 0 0).attempts == 1)
      (exec .containmentSequence (stopping fun g => { g with stopped := true, recs := [contained] })) = true := by decide +kernel


/-! ## Events of harts -/

/-- The hart with a line of its caches, written and not in memory. -/
def lined : State := hart.onIsle 0 fun i => { i with sk := [⟨0x2000, List.replicate 64 7, true⟩] }

theorem wit_HartMemory : lined.HartReady ∧ (∀ l ∈ (lined.isle 0).sk, l.data.length = 64) ∧
    (∀ len ∈ [1, 2, 4, 8], lined.Readable 0x2000 len 0x2000 ∧ lined.Writable 0x2038 len 0x2038) ∧
    (∀ len ∈ [4, 8], lined.Reaches 0x2000 len 3 15 7 0x2000) ∧ lined.hartPois 0 0x2000 = false ∧ lined.h.resv = none ∧
    (lined.onHart 0 0 fun h => { h with resv := some 0x2000 }).h.resv = some (0x2000 / 64 * 64) ∧
    (match lined.reach 0 lined.h 0x2000 1 15 7 with | .pa a => a == 0x2000 | _ => false) = true ∧
    (lined.isle 0).skFind 0x2000 = some ⟨0x2000, List.replicate 64 7, true⟩ ∧ lined.Clean (cellsAt 0x2000 (List.replicate 64 7)) ∧
    (0x2001 : Nat) % 2 ≠ 0 ∧ lined.h.enclosed 0x3FFF 2 1 = true := by
  unfold State.HartReady State.HasHart State.HasIsle State.Readable State.Writable State.Reaches State.Clean
  decide +kernel

theorem wit_HartMemory_enclosed :
    (let e := { (default : Episode) with wins := [(0x4000, 16, 3)] }
     let s := hart.onHart 0 0 fun h => { h with mode := .u, epi := some e }
     s.HartReady ∧ s.h.enclosed 0x4000 16 1 = true ∧ s.h.enclosed 0x4001 16 1 = false ∧ s.h.enclosed 0x3FFF 2 1 = false ∧ s.h.epi = some e) := by
  unfold State.HartReady State.HasHart State.HasIsle
  decide +kernel

/-- R240: a load sees the line, and CBO.FLUSH writes it to memory. -/
theorem test_hartLoadStore :
    sees (fun u => u.h.reg 5 == 0x0707070707070707) (exec (.hartLoadStore (.load 5 0x2000 8 false)) lined) = true ∧
    sees (fun u => u.num 0x2000 4 == 0x07070707 && (u.isle 0).sk == []) (exec (.hartLoadStore (.cboFlush 0x2000)) lined) = true := by
  decide +kernel

/-- Isle 0 with the handler of tenant 1 installed, its ring at 0x5000 with TAIL at `k`. -/
def handled (k : Nat) (held : List (Rec × Nat × Nat)) (s : State) : State :=
  (mapped s).onHandler 0 1 fun h => { h with en := true, core := 0, data := 0x5000, dlen := 0x2000, tail := k, held := held }

/-- A U-mode hart in the handler context of tenant 1, whose ring holds a record. -/
def trapping : State :=
  handled 1 [] (hart.onHart 0 0 fun h => { h with mode := .u, ie := true, uftvec := 0x100, sftHnd := true })

theorem wit_TrapsAndReturns : (∃ h : Hart, h.mode = .m) ∧ (∃ h : Hart, h.mode ≠ .m ∧ tb h.medeleg 2 = true ∧ tb h.medeleg 3 = false) ∧
    trapping.HasHart ∧ trapping.trapDue = true ∧ trapping.hartUp = true ∧ trapping.futEmptyNext = false ∧ hart.trapDue = false ∧
    (let s := hart.onHart 0 0 fun h => { h with futld := some (5, 0x8000000000) }
     s.HasHart ∧ s.h.futld = some (5, 0x8000000000) ∧ (s.onH fun h => { h with futld := none }).HartReady ∧
     s.Reaches 0x8000000000 8 1 13 5 0x8000000000 ∧ paLagoon 0x8000000000 = true ∧ s.isFull 0x8000000000 = false ∧ s.h.raisesEmpty = false ∧
     ({ s with full := [granule 0x8000000000] } : State).isFull 0x8000000000 = true ∧ s.isPois 0x8000000000 = false) ∧
    11 < (hart.isle 0).cont.ue.length ∧ hart.HartReady ∧ (inMode .u hart).h.csrOk 0x300 false = false ∧ (inMode .u hart).h.mode.code < 0x300 / 2 ^ 8 % 4 ∧
    hart.h.csrOk 0x300 false = true ∧ (hart.csrRead 0x300).isSome = true := by
  refine ⟨⟨{ (default : Hart) with mode := .m }, rfl⟩, ⟨{ (default : Hart) with mode := .u, medeleg := 4 }, by decide, by decide, by decide⟩, ?_⟩
  unfold State.HartReady State.HasHart State.HasIsle State.Reaches
  decide +kernel

/-- R372: the trap saves the pc and returns by UFSTATUS.RET. -/
theorem test_userTrap :
    sees (fun u => u.h.ufepc == 0x1000 && u.h.pc == 0x100 && !u.h.ie && u.h.pie) (exec .userTrap trapping) = true ∧
    sees (fun u => u.h.pc == 0x1000 && u.h.ie) (exec (.ufstatusRet 10) (trapping.onHart 0 0 fun h => { h with ie := false, pie := true, ufepc := 0x1000 })) =
      true := by decide +kernel

/-- An agenda of one turn of isle 0. -/
def turn (a : Act) (s : State) : State := { s with agenda := [⟨⟨0, 0, 0, 0, 0, 0⟩, a⟩] }

/-- A hart's turn at a word of the RISC-V specifications, with x10 = 3 and x11 = 5. -/
def runs (w : Nat) (p : Hart → Bool) : Bool :=
  sees (fun u => p u.h) (step (turn .hart (((hart.setBytes 0x1000 (leBytes 4 w)) |> setX 10 3 |> setX 11 5).onHart 0 0 fun h =>
    { h with fs := 1, f := upd (fun _ => 0xFFFFFFFF3F800000) h.f 0 })))

/-- R364: ADDI x5, x0, -1; MUL x10, x11, x10; SLT x5, x10, x11; C.LI x10, 5; BLT x10, x11, +16; CSRRW x0, mscratch, x10; FADD.S f2, f0, f0;
and an ECALL from M-mode. -/
theorem test_riscv :
    runs 0xFFF00293 (fun h => h.reg 5 == -1 && h.pc == 0x1004) = true ∧ runs 0x02A58533 (fun h => h.reg 10 == 15) = true ∧
    runs 0x00B522B3 (fun h => h.reg 5 == 1) = true ∧ runs 0x4515 (fun h => h.reg 10 == 5 && h.pc == 0x1002) = true ∧
    runs 0x00B54863 (fun h => h.pc == 0x1010) = true ∧ runs 0x34051073 (fun h => h.mscratch == 3) = true ∧
    runs 0x00000153 (fun h => nth 0 h.f 2 == 0xFFFFFFFF40000000) = true ∧ runs 0x73 (fun h => h.mcause == 11 && h.mepc == 0x1000) = true := by
  decide +kernel

theorem wit_HandlerEvents : dock.HasIsle ∧ dock.cur.k < (dock.isle 0).handlers.length ∧ tb (0x10 : BitVec 32) 4 = true ∧ tb (0xF : BitVec 32) 4 = false ∧
    ((dock.isle 0).handler 0).wclen = 0 ∧
    (∀ d ∈ [0x6000, 0x6008],
     let s := (mapped dock).onHandler 0 0 fun h => { h with wclen := 64, wcode := 0x5000, wdata := d, wdlen := 0x2000 }
     ((s.isle 0).handler 0).wclen ≠ 0 ∧ ((s.isle 0).handler 0).badLayout = decide (d = 0x6008)) ∧
    (let s := { handled 62 [(contained, 3, 4)] hart with cur := ⟨0, 1, 0, 0, 0, 0⟩ }
     let h := (s.isle 0).handler 1
     s.HasIsle ∧ 1 < (s.isle 0).handlers.length ∧ h.held = [(contained, 3, 4)] ∧ h.en = true ∧ s.ringRoom 0 1 (contained.blocks 3 4).length = false ∧
     contained.cont = false ∧ contained.kind ≠ 0 ∧ s.ringPa 0 1 = some 0x5000 ∧ paStack 0x5000 = true ∧ h.tail < 63 ∧ (s.isle 0).sk = [] ∧
     s.isPois 0x5000 = false ∧ s.isPois (0x5000 + 0x40 + 64 * h.tail) = false ∧ Memory.wf s.mem = true) ∧
    (let s := { handled 61 [(contained, 3, 4)] hart with cur := ⟨0, 1, 0, 0, 0, 0⟩ }
     s.ringRoom 0 1 (contained.blocks 3 4).length = true ∧ ((s.isle 0).handler 1).held = [(contained, 3, 4)] ∧ s.ringPa 0 1 = some 0x5000 ∧
     (s.isle 0).sk = [] ∧ Memory.wf s.mem = true ∧ s.isPois (0x5000 + 0x40 + 64 * 61) = false) := by
  unfold State.HasIsle
  decide +kernel

/-- R371: the record stands in slot 61 and TAIL is 62. -/
theorem test_handlerRecordWrite :
    sees (fun u => ((u.isle 0).handler 1).tail == 62 && u.num 0x5004 4 == 62 && u.byte (0x5000 + 0x40 + 64 * 61) == nth 0 (contained.bytes 3 4) 0)
      (exec .handlerRecordWrite { handled 61 [(contained, 3, 4)] hart with cur := ⟨0, 1, 0, 0, 0, 0⟩ }) = true := by decide +kernel


/-! ## Trace and dumps, boot, links, the host and attestation -/

/-- Isle 0 coordinates cut 1 of isles 0 and 1 for tenant 0, of which it has the flit. -/
def cutting (f : Dump → Dump) (s : State) : State := s.onIsle 0 fun i => { i with dump := f { i.dump with mask := 3 } }

theorem wit_DebugEvents : dock.HasIsle ∧
    (let s := dock.onIsle 0 fun i => { i with trace := { i.trace with en := true, tsamp := 5 } }
     (s.isle 0).trace.en = true ∧ (s.isle 0).trace.tsamp = 5 ∧ (s.isle 0).trace.lastSample + 5 ≤ ({ s with pt := 5 } : State).pt ∧
     s.pt < (s.isle 0).trace.lastSample + 5 ∧ tb (BitVec.ofNat 7 (s.isle 0).trace.kmask) 6 = false) ∧
    (cutting id dock).cutBusy 3 = false ∧ (cutting (fun d => { d with state := 1, job := some d.asJob }) dock).cutBusy 3 = true ∧ bitN ((cutting id dock).isle 0).dump.mask 1 = true ∧
    (viewed (cutting id dock)).inView 0 1 = true ∧
    (let s := flit false 0 (.cut 0 1 true) bench
     (match s.flitFor 0 0 with | some f => f.body == .cut 0 1 true | none => false) = true ∧ 0 < (s.isle 0).rings.length ∧ (s.seg 0 0).isSome = true ∧
     (s.segD 0 0).tenant = 0 ∧ (s.segD 0 0).cutNo ≠ 1 ∧ (s.segD 0 0).stopped = false ∧ (s.segD 0 0).halt ≠ .saving ∧ (s.segD 0 0).frz = none ∧
     (s.segD 0 0).live = (s.segD 0 0).start ∧ ((s.onCurSeg fun g => { g with stopped := true }).segD 0 0).stopped = true ∧ ((s.onCurSeg fun g => { g with frz := some 0 }).segD 0 0).frz ≠ none) := by
  unfold State.HasIsle
  decide +kernel

theorem wit_DebugEvents_written :
    (let s := cutting (fun d => { d with mask := 1, coord := some (0, 1, 0), state := 1, stack := true, len := 1, base := 0x100000 }) dock
     (s.isle 0).dump.coord = some (0, 1, 0) ∧ 0 < s.isles.length ∧ (s.isle 0).dump.written = false ∧ s.allRecorded 0 1 0 = true ∧
     bitN (s.isle 0).dump.cut_.mask 0 = true ∧ s.pois = [] ∧ (s.isle 0).dump.cut_.stack = true) ∧
    (∀ m ∈ [1, 3], ∀ small ∈ [true, false],
     let s := (cutting (fun d => { d with mask := m, coord := some (0, 1, 0), state := 2, written := true, small := small, job := some ⟨true, false, true, m, 0, 0⟩ }) bench).onCurSeg
       fun g => { g with cutNo := 1, halt := .cut }
     let d := (s.isle 0).dump
     d.busy = true ∧ d.isles.filter (fun x => x == 0 || s.inView 0 x) = [0] ∧ d.written = true ∧ d.isles.length = (if m = 1 then 1 else 2) ∧ d.small = small ∧
     d.cut_.resume = true ∧ (s.segD 0 0).cutNo = 1 ∧ (s.segD 0 0).tenant = 0 ∧ (s.segD 0 0).halt = .cut) := by
  decide +kernel

/-- R451: a second cut of the same isle is refused. -/
theorem test_dumpGo : sees (fun u => (u.isle 0).dump.state == 4) (exec (.dumpGo 1) (cutting (fun d => { d with state := 1, job := some d.asJob }) dock)) = true := by
  decide +kernel

/-- A boot of isles 0 and 1, whose rings have 32 and 23 stripes, with bridge 0. -/
def twoIsles : BootInfo := ⟨true, List.replicate 2 ⟨true, true, [32, 23, 24, 32, 32, 32], [0, 0, 0, 0, 0, 0], []⟩, 3, [7], [0]⟩

/-- R13, R488: a ring of 23 stripes is 0, and the first view holds the isles that passed. -/
theorem test_boot :
    sees (fun u => ((u.isle 0).ring 1).stripes == 0 && ((u.isle 0).ring 2).stripes == 24 && (u.isle 1).pview.members == [(3, 0), (3, 1)] &&
      !(u.isle 2).up && u.bridgeUp 0) (exec (.boot twoIsles) { State.reset with powered := false }) = true := by decide +kernel

theorem wit_SystemEvents : twoIsles.powered = true ∧ dock.powered = true ∧ ({ dock with powered := false } : State).powered = false ∧ dock.HasIsle ∧
    (dock.isle 0).up = true ∧ ({ dock with cur := ⟨1, 0, 0, 0, 0, 0⟩ } : State).HasIsle ∧ (dock.isle 1).up = false ∧ 0 < dock.ports.length ∧
    (dock.port 0).up = false ∧ (({ dock with ports := upd (fun p => { p with up := true }) dock.ports 0 } : State).port 0).up = true ∧ dock.panel = 0 ∧
    ((viewed dock).isle 0).pview.members = [(0, 0), (0, 1)] := by
  unfold State.HasIsle
  decide +kernel

/-- Bridge 0 is up; a host read and a host write of 8 bytes of isle 0, and a read of isle 1, which is held. -/
def hosted (s : State) : State := { s with ports := upd (fun p => { p with up := true, bridge := true }) s.ports 0 }

theorem wit_HostEvents : (hosted dock).bridgeUp 0 = true ∧ dock.bridgeUp 0 = false ∧
    (([0, 1, 2, 3, 4, 5, 6, 7].all fun i => paExists (0x2000 + i) && (dock.isle (paIsle (0x2000 + i))).up) = true) ∧
    (hosted dock).Clean (([0, 1].map fun i => 0x2000 + i).zip [1, 2]) ∧ paExists (2 ^ 40) = true ∧ (dock.isle (paIsle (2 ^ 40))).up = false ∧
    (hosted dock).hostPas 0 0x2000 8 true = none ∧ dock.HasIsle ∧ (dock.isle 0).dmi.length = 128 ∧ 0 < (dock.isle 0).harts.length ∧
    tb (0x80000001 : BitVec 32) 31 = true ∧ tb (0x40000001 : BitVec 32) 30 = true ∧ (dock.isle 0).mr.length = 8 ∧
    ((dock.isle 0).hart 0).mode = .m ∧ (((inMode .u dock).isle 0).hart 0).mode = .u ∧ dock.srcOk .host 0 = true ∧ (dock.isle 0).hb.sem.length = 256 ∧
    (({ dock with cur := ⟨1, 0, 0, 0, 0, 0⟩ } : State).srcOk .host 1 = true) := by
  unfold State.HasIsle State.Clean
  decide +kernel

/-- R483: a host write of panel memory, and a read of an isle held in reset. -/
theorem test_hostAccess :
    sees (fun u => u.num 0x2000 2 == 0x0201) (exec (.hostAccess ⟨0, 0, 2, 0x2000, 2, some [1, 2]⟩) (hosted dock)) = true ∧
    sees (fun u => u.rsp == some .unsupported) (exec (.hostAccess ⟨0, 0, 2, 2 ^ 40, 8, none⟩) (hosted dock)) = true := by decide +kernel

/-- Connection 0 in a state. -/
def connected (c : Spdm) : State := { dock with spdm := upd (fun _ => c) dock.spdm 0, roots := [7] }

theorem wit_AttestationEvents : dock.powered = true ∧ dock.cur.k < 4 ∧ dock.spdm.length = 4 ∧ dock.conn.version = false ∧ dock.conn.caps = false ∧
    dock.conn.algs = false ∧ (connected ⟨true, true, true, []⟩).conn = ⟨true, true, true, []⟩ ∧
    (connected ⟨true, true, true, []⟩).freeSession = some 0 ∧
    (connected ⟨true, true, true, [(0, true, none), (1, true, none), (2, true, none), (3, true, none)]⟩).freeSession = none ∧
    (connected ⟨true, true, true, [(0, false, none)]⟩).conn.session 0 = some (false, none) ∧
    (connected ⟨true, true, true, []⟩).conn.session 0 = none ∧
    (connected ⟨true, true, true, [(0, true, some 7)]⟩).conn.session 0 = some (true, some 7) ∧ 7 ∈ (connected ⟨true, true, true, []⟩).roots ∧
    ({ dock with accReset := [(1, 100, 0)], pt := 99 } : State).pt < 100 ∧ 100 ≤ ({ dock with accReset := [(1, 100, 0)], pt := 100 } : State).pt := by
  decide +kernel

/-- R490: the version comes first. -/
theorem test_getCapabilities : sees (fun u => u.spdmOut == some (.error 4)) (exec .getCapabilities dock) = true := by decide +kernel


/-! ## More states that meet hypotheses, clause by clause -/

/-- A held token whose turn it is; a place of the window that is taken; a null head; a poisoned count of REP and CNTB, and a count of 0. -/
theorem wit_MarkersAndOrder_held :
    (let s := both (fun e => { e with reord := some (tok .data true 0) :: List.replicate 255 none }) bench
     s.view.reordMatch = some (tok .data true 0)) ∧
    (let s := setIn 0 [tok .data true 1] (both (fun e => { e with reord := none :: some (tok .data true 257) :: List.replicate 254 none }) bench)
     s.view.reordMatch = none ∧ nth none s.view.reord 1 ≠ none ∧ s.view.head 0 = some (tok .data true 1)) ∧
    (let s := setIn 0 [tok .null false 0] (both (fun e => { e with reord := List.replicate 256 none }) bench)
     s.view.reordMatch = none ∧ s.view.head 0 = some (tok .null false 0)) ∧
    (let s := both (fun e => { e with v := upd (fun x => { x with pois := true }) e.v 1 }) (setV 1 (fun _ => 9) bench)
     (s.view.src 1).pois = true ∧ (s.view.src 1).null = false ∧ s.view.holdLeft = 0) ∧
    ((setV 1 (fun _ => 0) bench).view.src 1).lanes.get 0 = 0 := by decide +kernel

/-- Heads that REORD raises a fault for. -/
theorem wit_MarkersAndOrder_heads : ([tok .data false 0, tok .eoi false 0].all fun t =>
    (setIn 0 [t] bench).view.reordMatch == none && (setIn 0 [t] bench).view.head 0 == some t) = true := by decide +kernel

/-- The bench segment as a cycle begins, and acknowledgements of the cycle. -/
theorem wit_ViewRules_cycle : bench.seg 0 0 ≠ none ∧ 0 < (bench.isle 0).rings.length ∧ 0 < bench.isles.length ∧
    ({ bench.segD 0 0 with nackP := some 3 } : Seg).nackP = some 3 ∧ (bench.segD 0 0).nackS = none := by decide +kernel

/-- A segment whose scan window shows its matrix queue or a reply that is awaited; one that replays but whose updates are not all applied; one
that has no place for its replay; and a handler context in U-mode. -/
theorem wit_FrozenSegments_more :
    (frozen.segD 0 0).scanOpen 0x405800 = false ∧
    (let s := frozen |> atStripe 0 fun st => { st with wharf := { st.wharf with pend := [⟨0, 0, .vreg 2, true, false, none⟩] } }
     (s.segD 0 0).scanOpen 0x405800 = true ∧ s.scanRing (0x100000000 + 0x405800) = some 0) ∧
    (let s := frozen |> atStripe 0 fun st => { st with wharf := { st.wharf with atoms := [⟨asked (.atom 1) 1, 1, Lanes.zero, 0, 0, 0⟩] } }
     s.cmdStatus 1 = (0, 0) ∧ (s.segD 0 0).settled = false ∧ s.replayReaches 0 (s.segD 0 0) = true) ∧
    (let s := frozen.onSeg 0 0 fun g => { g with image := { g.image with streams := [⟨0, 0, 0, 0, 64⟩] }, ports := [⟨3, 0, 0, false⟩], runs := [⟨0, 0, 1⟩], runsDealt := 1 }
     s.cmdStatus 1 = (0, 0) ∧ s.replayReaches 0 (s.segD 0 0) = false) ∧
    (let s := frozen.onHart 0 0 fun h => { h with mode := .u }
     s.h.mode = .u ∧ s.h.sftHnd = false ∧ (s.onHart 0 0 fun h => { h with sftHnd := true }).h.sftHnd = true) ∧
    (frozen.segD 0 0).live.stripes.all (fun st => st.wharf.fly == [] && st.wharf.atoms == [] && st.wharf.wc == []) = true := by decide +kernel

/-- Every slot of the ferry is in use. -/
def ferryFull : State := copyDesc.onFerry 0 fun f => { f with copies := (List.range 1024).map fun i => (i, copy1) }

theorem lookupN_of_mem {α : Type} (k : Nat) (v : α) : ∀ l : List (Nat × α), (k, v) ∈ l → (lookupN k l).isSome = true
  | [], h => nomatch h
  | (k', v') :: r, h => by
    unfold lookupN
    split
    · rfl
    · rcases List.mem_cons.mp h with e | e
      · cases e; contradiction
      · exact lookupN_of_mem k v r e

/-- A COPYQ whose descriptor names an operation that there is, on a ferry with no slot free. -/
theorem wit_DockLaunchAndCopy_full : (∀ i, i < 1024 → ferryFull.slotFree 0 i = false) ∧ (copyDesc.readCopyq 0 0x4000 0x4000 0).1.op < 5 ∧
    (copyDesc.isle 0).ferry.waiting = [] ∧ copyDesc.slotFree 0 0 = true ∧
    ((copyDesc.nextReads 0 (copyDesc.readCopyq 0 0x4000 0x4000 0).1).all fun x => (copyDesc.copyPa 0 0 x.2 false).all fun a => !copyDesc.hostDown a) = true := by
  refine ⟨fun i hi => ?_, by decide +kernel⟩
  have h : ∀ l, ((copyDesc.onFerry 0 fun f => { f with copies := l }).isle 0).ferry.copies = l := fun _ => rfl
  have h2 := lookupN_of_mem i copy1 ((List.range 1024).map fun i => (i, copy1)) (List.mem_map.mpr ⟨i, List.mem_range.mpr hi, rfl⟩)
  unfold State.slotFree ferryFull
  rw [h]
  cases hl : lookupN i ((List.range 1024).map fun i => (i, copy1)) with
  | none => rw [hl] at h2; cases h2
  | some _ => simp

/-- A card of another tenant, one with a field out of form, a poisoned one, one whose result handle is not good, and one no ring of which exists;
a queue of copies. -/
theorem wit_DockLaunchAndCopy_refused :
    ((carded.setBytes 0x4022 [1]).readCard 0 0x4000).tenant = 1 ∧ ((carded.setBytes 0x4023 [1]).readCard 0 0x4000).formed = false ∧
    (carded.poison 0x4000).vaPois 0 0x4000 64 = true ∧ (carded.isle 0).cardHandles ((carded.setBytes 0x4024 [1]).readCard 0 0x4000) = false ∧
    (carded.isle 0).cardRings ((carded.setBytes 0x4026 [2]).readCard 0 0x4000) = false ∧ dock.vaReadable 0 0x4000 64 = false ∧
    carded.vaPois 0 (carded.readCard 0 0x4000).regs (16 * (carded.readCard 0 0x4000).regn) = false ∧ carded.q.out = none ∧ carded.q.work = 0 := by decide +kernel

/-- A forward of 64 bytes that queue 0 waits for, past its flush or at its end; a region to forward and its target. -/
def forwarding (off : Nat) : EdgeJob := { (default : EdgeJob) with isQueue := true, act := 2, reg := ⟨0x8000, 64, 3, 1, 0⟩, dst := 0x9000, off := off }

def forwardWord (off : Nat) : State := ((recorded 64).onHarbour 0 fun h => { h with edge := [forwarding off] }).onQueue 0 0 fun q => { q with work := 1 }

theorem wit_DockBuffersAndRegions_forward :
    (let s := forwardWord 65536
     s.q.work = 1 ∧ (s.isle 0).hb.edge = [forwarding 65536] ∧ s.targetGone 0 (forwarding 65536) 0 = false ∧ s.slotFree 0 0 = true ∧
     ((s.copyPa 0 0 0x8000 false).all fun a => !s.hostDown a) = true ∧ s.DockReady (word 0x4000)) ∧
    ((forwardWord 131072).isle 0).ferry.copies = [] ∧
    (let s := (recorded 64).setBytes 0x4000 (leBytes 8 0x8000 ++ leBytes 5 64 ++ [3, 0, 1] ++ leBytes 8 0x9000 ++ leBytes 5 64 ++ [3, 0, 0])
     (match s.readRecord 0 (dockVa (word 0x4000)) with
      | .ok r => (match s.readTarget 0 (dockVa (word 0x4000)) r with | .ok t => s.targetEnd 0 r.fwd t == none | .error _ => false) && decide (0 < r.extent) && !bitN r.mode 3
      | .error _ => false) = true) ∧
    (let s := (recorded 64).setBytes 0x400D [11]
     (match s.readRecord 0 (dockVa (word 0x4000)) with | .ok r => bitN r.mode 3 | .error _ => false) = true) := by
  unfold State.DockReady State.HasQueue State.HasIsle
  decide +kernel

/-- A segment that saves, its slot unpoisoned; a saved segment whose context is good; a promotion of which GO kept the range. -/
theorem wit_TaskEvents_more :
    (let s := (placed.onHarbour 0 fun h => { h with ctxSlots := 1 }).onSeg 0 0 fun g => { g with halt := .saving }
     s.poisIn (s.slotPa 0 0) (s.segD 0 0).ctxLen = false ∧ ((s.isle 0).ring 0).saved = []) ∧
    (let x := (placed.segD 0 0, 0)
     let s := (tasked [{ task 1 with st := .running, dealt := true }]).onRing 0 0 fun r => { r with saved := [x] }
     s.ctxBad 0 0 x.1 x.2 = false ∧ (match s.extentsOf x.1.tenant 0 x.1.regions with | .ok _ => true | .error _ => false) = true) ∧
    (nth default ((promoting 1 0x200000).isle 0).hb.promo 0).job = some (0, 0x200000, 0) := by decide +kernel

/-- Task 1 of the scrolling segment is dealt; a record whose spill is whole; caches with room. -/
theorem wit_ScrollEvents_more :
    (scrolling.nextWanted 0 (scrolling.segD 0 0) = true) ∧
    (let s := { mapped (tasked [imaged []]) with cur := ⟨0, 0, 0, 1, 0, 0⟩ }
     (s.heldEnd (imaged []).card.tenant 0 ((imaged []).image.entry + stripeOff 0 + 0x40) 8192).isNone = true ∧
     ((s.isle 0).ring 0).cacheBytes + 8192 ≤ 2 ^ 22) ∧
    (let s := leaving false
     ((s.isle 0).ring 0).cacheBytes + 26624 * (((s.segD 0 0).live.stripe 0).elems.filter fun (e : Elem) => e.on).length ≤ 2 ^ 22) ∧
    (let s := scrolling |> atStripe 2 fun st => { st with stg := true }
     let g := s.segD 0 0
     (g.recordBefore (g.live.stripe 2).vs (g.live.stripe 2).run).isNone = true ∧
     g.live.stripes.all (fun st => st.wharf.fly == [] && st.wharf.atoms == [] && st.wharf.wc == []) = true) := by decide +kernel

/-- The requests that are performed as they issue. -/
theorem wit_WharfEvents_whole :
    (∀ q ∈ [asked .ld 0, asked .ldq 0, asked .srd 0, asked .st 0, asked .swr 0, asked .stf 0], (asking true q).IssuesWhole q) ∧
    (let q := asked .st 1
     (asking false q).IssuesWhole q) := by
  unfold State.IssuesWhole State.Issues
  decide +kernel

/-- A load and a store that issue into flight, and each with its line to be performed. -/
theorem wit_WharfEvents_flight : ∀ op ∈ [ReqOp.ld, ReqOp.st],
    (let q := asked op 0
     let s : State := { asking true q with cur := ⟨0, 0, 0, 0, 0, 1⟩ }
     s.Issues q ∧ s.atOnce 0 q (s.issueLines (s.segD 0 0) 0 q) = false ∧ (s.wharf 0).wc = []) ∧
    (let q := asked op 0
     let fl : Fly := ⟨q, [0x200000000], [0x200000000], [], false⟩
     let s := wharfed true fun w => { w with fly := [fl], pend := [⟨7, 0, .vreg 2, true, false, none⟩] }
     (s.wharf 0).fly = [fl] ∧ fl.issued (s.segD 0 0).wck 0x200000000 = true ∧ s.reqLines (s.segD 0 0) 0 q = [0x200000000] ∧ (s.wharf 0).wc = [] ∧
     s.Clean ((s.storeCells (s.segD 0 0) 0 q).filter fun c => inLine 0x200000000 c.1) ∧
     ((s.storeCells (s.segD 0 0) 0 q).filter fun c => inLine 0x200000000 c.1).length = 64) := by
  unfold State.Issues State.Clean
  decide +kernel

theorem wit_WharfEvents_alone : (updating.wharf 0).fly = [] ∧ Token.bench.kind.isMarker = false := by decide +kernel

/-- A null token at an output port, within its region and past it. -/
theorem wit_PortEvents_null : ∀ k ∈ [0, 2],
    (let s := outPort (tok .null false 0) ⟨0, 0, k, true⟩ 2
     let g := s.segD 0 0
     g.outHead 0 = some ((0, 0, 0), tok .null false 0) ∧ g.clockHeld = false ∧ g.recs = [] ∧ (g.stream 0).stride / 64 = 2) := by decide +kernel

theorem wit_ContainmentEvents_records :
    (let s := stopping fun g => { g with stopped := true, recs := [contained] }
     let g := s.segD 0 0
     s.recordsBad 0 0 (g.rollback ((s.isle 0).ring 0).stripes) = false ∧
     g.live.stripes.all (fun st => st.wharf.fly == [] && st.wharf.atoms == [] && st.wharf.wc == []) = true) := by decide +kernel

theorem wit_HartMemory_more : lined.reachOk 0x2000 1 1 15 7 = .pa 0x2000 ∧ lined.h.dataTrig 1 0x2001 = none ∧ lined.h.dataTrig 2 0x2001 = none ∧
    (∀ len ∈ [4, 8], lined.Reaches 0x2000 len 3 15 7 0x2000) := by
  unfold State.Reaches
  decide +kernel

/-- A machine software interrupt in M-mode, and one that is delegated taken in U-mode. -/
theorem wit_TrapsAndReturns_interrupts :
    (let s := hart.onHart 0 0 fun h => { h with mieR := 0x8, mipR := 0x8, mie := true }
     s.irqDue 0 0 = some 3 ∧ s.h.stepSt = 0 ∧ s.h.mode = .m ∧ s.HartReady) ∧
    (let s := hart.onHart 0 0 fun h => { h with mieR := 0x2, mipR := 0x2, mideleg := 0x1000002, mode := .u }
     s.irqDue 0 0 = some 1 ∧ s.h.stepSt = 0 ∧ s.h.mode = .u ∧ tb s.h.mideleg 1 = true ∧ s.HartReady) := by
  unfold State.HartReady State.HasHart State.HasIsle
  decide +kernel

/-- A freeze and a commit that fall on one cycle; a segment that has begun its cycle; an element that has fired nothing. -/
theorem wit_ContainmentEvents_commit :
    (let g := ((stopping fun g => { g with frz := some 0, sck := 9 }) |> atStripe 0 fun st =>
       { st with arm := some ⟨0, 0, 2, 0⟩, elems := st.elems.map fun (e : Elem) => { e with erun := 1 } }).segD 0 0
     g.frz = some 0 ∧ g.commitAt ≠ none) ∧ ((stopping fun g => { g with frz := some 0, sck := 9 }).segD 0 0).commitAt = none ∧
    ((bench.segD 0 0).live.elem 0 0).cyc.fired = [] ∧ (bench.isle 0).up = true ∧
    (∀ x ∈ [ArrayPlace.vreg 1, .pass 0, .replay 0, .shadow, .config], x.cls < (bench.isle 0).cont.ce.length ∧ x.cls < (bench.isle 0).cont.ue.length) ∧
    paExists 0x2000 = true ∧ paIsle 0x2000 = 0 := by decide +kernel

theorem wit_DebugEvents_begun :
    (let s := flit false 0 (.cut 0 1 true) (bench.onCurSeg fun g => { g with live := { g.live with parkd := [default] } })
     (s.segD 0 0).stopped = false ∧ (s.segD 0 0).halt ≠ .saving ∧ (s.segD 0 0).live ≠ (s.segD 0 0).start) := by decide +kernel

/-- A mailbox with a binding to promote, at each of the instructions that wait for it. -/
theorem wit_MailboxEvents_promote :
    (let s := mailed (fun m => { m with open_ := false, next := some (2, 5) }) (actPort (action 7 0))
     (s.segD 0 0).outHead 0 = some ((0, 0, 0), action 7 0) ∧ ((s.isle 0).mailbox 0).promoDue = true ∧
     ((s.isle 0).mailbox 0).cur = some ((s.segD 0 0).id.toNat, 0)) ∧
    (let s := mailed (fun m => { m with obs := [Token.blank], follow := true, next := some (2, 5) }) (obsPort ⟨0, 0, 0, false⟩)
     (s.segD 0 0).portDest 0 = some (0, 0, 0) ∧ ((s.isle 0).mailbox 0).promoDue = true) ∧
    ((mailed (fun m => { m with open_ := true }) (actPort (action 7 0))).isle 0 |>.mailbox 0).promoDue = false ∧
    ((described.onMbx 0 3 fun m => { m with next := some (2, 5) }).isle 0 |>.mailbox 3).promoDue = true ∧
    ((described.isle 0).mailbox 3).promoDue = false := by decide +kernel

/-- R420: an uncorrectable error in a v-register poisons it, and a corrected one is counted in class 3. -/
theorem test_arrayError :
    ((nth default ((bench.arrayError (.vreg 1) false).curElem.v) 1).pois || (nth default ((bench.arrayError (.vreg 1) false).liveElem.v) 1).pois) = true ∧
    (nth [] ((bench.arrayError (.vreg 1) true).isle 0).cont.ce 3).length = 1 := by decide +kernel

/-- R418: a HALT is noted in its cycle, and ends the run at the cycle's end. -/
theorem test_halt_end :
    sees (fun u => (u.segD 0 0).halting && !(u.segD 0 0).halted && ((u.endHalt 0 0).segD 0 0).halted) (exec (.halt 0x3E) bench) = true := by
  decide +kernel

/-- An isle that boot has tested. -/
theorem wit_SystemEvents_tested : ((dock.onIsle 0 fun i => { i with tested := true }).isle 0).tested = true ∧ (dock.isle 0).tested = false := by decide +kernel

/-- The hart goes; the words at its pc: MBXPUT, a load, ADDI and a compressed NOP, a write of UFSTATUS and of MSCRATCH. -/
theorem wit_Step_hart : hart.HartGoes ∧
    (match hart.stepping.hartFetch 4 with | .ok (w, _) => w == 0x00B5000B | .error _ => false) = true ∧
    (match hart.riscv 0x0005B503 with | .mem _ => true | _ => false) = true ∧ (match hart.riscv 0x13 with | .run _ => true | _ => false) = true ∧
    (match (hart.setBytes 0x1000 [1, 0]).hartFetch 2 with | .ok (w, _) => w % 4 == 1 | .error _ => false) = true ∧
    (match hart.riscv 0x80051073 with | .csr num op _ rd => num == 0x800 && rd == 0 && op != .read && (hart.csrRead num).isSome | _ => false) = true ∧
    (match hart.riscv 0x34051073 with | .csr num op _ rd => num == 0x340 && rd == 0 && op != .read | _ => false) = true := by
  unfold State.HartGoes
  decide +kernel

/-! ## The step -/

theorem wit_StepRunsTheDecodedInstruction :
    bench.mayFire = true ∧ (decodeRule (nth 0 bench.curElem.img.rules 0).toNat).toOption.isSome = true ∧
    (bench.onCurSeg fun g => { g with stopped := true }).mayFire = false ∧ dock.dockRead = .word 0x1100000000000000 0 ∧
    (dock.onQueue 0 0 fun q => { q with head := q.tail }).dockRead = .idle ∧ hart.hartUp = true ∧ hart.h.wdDue = none ∧ hart.trapDue = false ∧
    (match hart.hartFetch 2 with | .ok (w, _) => w % 4 == 3 | .error _ => false) = true ∧
    (match hart.hartFetch 4 with | .ok (w, _) => decodeSkerry w == some (.mbxput 0 10 11) | .error _ => false) = true ∧
    (hart.onHart 0 0 fun h => { h with halted := true }).hartUp = false ∧ encode (.vholdExpire) = none ∧ (encode (.nop 0x3E)).isSome = true ∧
    (match (hart.setBytes 0x1000 [0x13, 0, 0, 0]).hartFetch 4 with | .ok (w, _) => decodeSkerry w == none | .error _ => false) = true ∧
    (turn .fire bench).agenda = [⟨⟨0, 0, 0, 0, 0, 0⟩, .fire⟩] ∧ dock.agenda = [] := by
  decide +kernel

/-- The word of NOP and of DHALT run where they are placed. -/
theorem test_step :
    sees (fun u => u.liveElem.cyc.fired == [0]) (step (State.reset.withFetchWord 32 0xF8000000)) = true ∧
    sees (fun u => ((u.isle 0).queue 0).halt) (step (State.reset.withFetchWord 64 0x1100000000000000)) = true ∧
    (decodeTableWord 64 0x1100000000000000).isSome = true := by decide +kernel

theorem wit_DecodeOfEncode : Instr.wf (.nop 0x3E) = true ∧ encode (.nop 0x3E) = some (32, 0xF8000000) ∧
    Instr.wf (.dhalt ⟨0, 0, false, 0⟩) = true ∧ (encode (.dhalt ⟨0, 0, false, 0⟩)).isSome = true ∧
    Instr.wf (.waitge ⟨15, 0, true, 0⟩ 5) = true ∧ (match encode (.waitge ⟨15, 0, true, 0⟩ 5) with | some x => x.1 == 128 | none => false) = true ∧
    Instr.wf (.mbxput 0 10 11) = true ∧ encode (.mbxput 0 10 11) = some (32, 0x00B5000B) := by decide

/-- The form of memory after reset, and after a step from there. -/
theorem test_memory_form : Memory.wf State.reset.mem = true := by decide

theorem wit_MemoryKeepsItsForm : Memory.wf bench.mem = true ∧ sees (fun u => Memory.wf u.mem) (step bench) = true := by decide +kernel

end Sys2Proof.Tests
end

section
/-! PROOFS. What a turn of the agenda fetches, case by case (R52, R53, R315, R364, R367, logs 1 to 3), and the step that runs it. -/

namespace Sys2Proof.Proofs

open Sys2Proof.Machine

/-! ## A step is what its first turn fetches -/

/-- The outcome of what a turn comes to. -/
def fetchedOutcome : Fetched → Res
  | .run i s => exec i s
  | .done o => o

@[simp] theorem fetchedOutcome_run (i : Instr) (s : State) : fetchedOutcome (.run i s) = exec i s := rfl

@[simp] theorem fetchedOutcome_done (o : Res) : fetchedOutcome (.done o) = o := rfl

theorem step_of_agenda_cons {s : State} {c : Cur} {a : Act} {r : List Turn} (h : s.agenda = ⟨c, a⟩ :: r) :
    step s = fetchedOutcome (State.fetch { s with agenda := r, cur := c } a) := by
  unfold step
  rw [h]
  dsimp only
  cases State.fetch { s with agenda := r, cur := c } a <;> rfl

theorem step_of_agenda_nil {s : State} (h : s.agenda = []) : step s = .next (s.pass 1) := by
  unfold step
  rw [h]

/-! ## Rule slots -/

theorem ruleAt_of_decodeRule {e : Elem} {j : Nat} {i : Instr} (h : decodeRule (nth 0 e.img.rules j).toNat = .ok i) :
    e.ruleAt j = some i := by
  simp only [Elem.ruleAt, h]

theorem fetchRule_of_mayFire {s : State} {i : Instr} (hm : s.mayFire = true)
    (hd : decodeRule (nth 0 s.curElem.img.rules s.cur.j).toNat = .ok i) : s.fetchRule = .run i s := by
  simp only [State.fetchRule, hm, ruleAt_of_decodeRule hd, if_true]

theorem fetchRule_of_not_mayFire {s : State} (hm : s.mayFire = false) : s.fetchRule = .done (.next s) := by
  simp [State.fetchRule, hm]

/-! ## Dock words -/

theorem fetchDock_of_word {s : State} {w v : Nat} (h : s.dockRead = .word w v) : s.fetchDock = .run (decodeDock w v) s := by
  simp only [State.fetchDock, h]

theorem fetchDock_of_idle {s : State} (h : s.dockRead = .idle) : s.fetchDock = .done (.next s) := by
  simp only [State.fetchDock, h]

/-! ## A hart's program -/

theorem hartFirst_of_not_hartUp {s : State} (f : State → Fetched) (h : s.hartUp = false) : s.hartFirst f = .done (.next s) := by
  simp [State.hartFirst, h]

theorem hartFirst_of_hartGoes {s : State} (f : State → Fetched) (h : s.HartGoes) : s.hartFirst f = f s.stepping := by
  obtain ⟨hup, hst, hwd, htrap, -⟩ := h
  have hdue : (s.trapDue && !s.futEmptyNext) = false := by
    rcases htrap with ht | ht <;> simp [ht]
  simp [State.hartFirst, hup, hst, hwd, hdue]

theorem fetchHart_of_not_hartUp {s : State} (h : s.hartUp = false) : s.fetchHart = .done (.next s) :=
  hartFirst_of_not_hartUp _ h

theorem fetchHart_of_hartGoes {s : State} (h : s.HartGoes) : s.fetchHart = s.stepping.fetchPc := by
  rw [State.fetchHart, hartFirst_of_hartGoes _ h]
  obtain ⟨-, -, -, -, htrig⟩ := h
  simp only [htrig]

/-- A word of four bytes that decodes to a custom instruction runs as that instruction (R53, R54). -/
theorem fetchPc_of_decodeSkerry {s t : State} {w : Nat} {i : Instr} (hw : s.FetchesWord w t) (hx : t.cur.x = 0)
    (hd : decodeSkerry w = some i) : s.fetchPc = .run i t := by
  rcases hw with ⟨u, -, -, rfl⟩ | ⟨w2, u2, u, h2, hlow, h4, rfl⟩
  · cases hx
  · simp [State.fetchPc, h2, hlow, h4, hd]

/-- Any other word, and every word of two bytes, is one of the RISC-V specifications (R364). -/
theorem fetchPc_of_riscv {s t : State} {w : Nat} (hw : s.FetchesWord w t) (hd : t.cur.x = 2 ∨ decodeSkerry w = none) :
    s.fetchPc = t.runRiscv w := by
  rcases hw with ⟨u, h2, hlow, rfl⟩ | ⟨w2, u2, u, h2, hlow, h4, rfl⟩
  · simp [State.fetchPc, h2, hlow]
  · rcases hd with hx | hd
    · cases hx
    · simp [State.fetchPc, h2, hlow, h4, hd]

theorem runRiscv_of_mem {s : State} {w : Nat} {op : HartOp} (h : s.riscv w = .mem op) :
    s.runRiscv w = .run (.hartLoadStore op) s := by
  simp only [State.runRiscv, h]

theorem runRiscv_of_run {s t : State} {w : Nat} (h : s.riscv w = .run t) : s.runRiscv w = .done (.next t) := by
  simp only [State.runRiscv, h]

/-- A write of UFSTATUS that returns no old value is the opcode table's instruction. -/
theorem runRiscv_of_ufstatusWrite {s : State} {w num rd old : Nat} {op : CsrOp} {v : W64} (h : s.riscv w = .csr num op v rd)
    (hu : num = 0x800 ∧ rd = 0 ∧ op ≠ .read) (hold : s.csrRead num = some old) :
    s.runRiscv w = .run (.ufstatusRet (op.value (BitVec.ofNat 64 old) v)) s := by
  simp only [State.runRiscv, h, if_pos hu, hold, Option.getD_some]

theorem runRiscv_of_csr {s : State} {w num rd : Nat} {op : CsrOp} {v : W64} (h : s.riscv w = .csr num op v rd)
    (hu : ¬(num = 0x800 ∧ rd = 0 ∧ op ≠ .read)) : s.runRiscv w = .done (.next (s.csrInstr w num op v rd)) := by
  simp only [State.runRiscv, h, if_neg hu]

/-! ## Events -/

theorem fetch_event_of_no_word {s : State} {i : Instr} (henc : encode i = none) (hmem : ∀ op, i ≠ .hartLoadStore op)
    (hret : ∀ v, i ≠ .ufstatusRet v) : s.fetch (.event i) = .run i s := by
  rw [State.fetch, henc]
  · rfl
  · exact hmem
  · exact hret

/-- What has a word, or stands in a hart's program, does not run as an event. -/
theorem fetch_event_of_word {s : State} {i : Instr}
    (h : (encode i).isSome = true ∨ (∃ op, i = .hartLoadStore op) ∨ ∃ v, i = .ufstatusRet v) :
    s.fetch (.event i) = .done (.next s) := by
  rcases h with henc | ⟨op, rfl⟩ | ⟨v, rfl⟩
  · rw [State.fetch, if_pos henc]
    · rintro op rfl
      cases henc
    · rintro v rfl
      cases henc
  · rfl
  · rfl

/-! ## The step -/

/-- A hart that goes and fetches a word runs the custom instruction it decodes to, or else the RISC-V instruction. -/
theorem step_of_hart {s : State} {c : Cur} {r : List Turn} {w : Nat} {t : State} (h : s.agenda = ⟨c, .hart⟩ :: r)
    (hgo : State.HartGoes { s with agenda := r, cur := c })
    (hw : (State.stepping { s with agenda := r, cur := c }).FetchesWord w t) :
    (∀ i, t.cur.x = 0 → decodeSkerry w = some i → step s = exec i t) ∧
    (t.cur.x = 2 ∨ decodeSkerry w = none → step s = fetchedOutcome (t.runRiscv w)) := by
  have hstep : step s = fetchedOutcome (State.stepping { s with agenda := r, cur := c }).fetchPc := by
    rw [step_of_agenda_cons h, State.fetch, fetchHart_of_hartGoes hgo]
  constructor
  · intro i hx hd
    rw [hstep, fetchPc_of_decodeSkerry hw hx hd, fetchedOutcome_run]
  · intro hd
    rw [hstep, fetchPc_of_riscv hw hd]

/-- Settles O1: the step is the outcome of what the first turn fetches, and each clause is one case of the fetch. -/
theorem stepRunsTheDecodedInstruction : Obligations.StepRunsTheDecodedInstruction := by
  intro s c r
  refine ⟨?fire, ?fireIdle, ?dock, ?dockIdle, ?hart, ?hartDown, ?event, ?eventWord, ?clock, ?perform, ?copyRead, ?intr,
    ?array, ?pass, step_of_agenda_nil⟩
  case fire =>
    intro i h hm hd
    rw [step_of_agenda_cons h, State.fetch, fetchRule_of_mayFire hm hd, fetchedOutcome_run]
  case fireIdle =>
    intro h hm
    rw [step_of_agenda_cons h, State.fetch, fetchRule_of_not_mayFire hm, fetchedOutcome_done]
  case dock =>
    intro w v h hw
    rw [step_of_agenda_cons h, State.fetch, fetchDock_of_word hw, fetchedOutcome_run]
  case dockIdle =>
    intro h hi
    rw [step_of_agenda_cons h, State.fetch, fetchDock_of_idle hi, fetchedOutcome_done]
  case hart =>
    intro w t h hgo hw
    obtain ⟨hcustom, hriscv⟩ := step_of_hart h hgo hw
    refine ⟨hcustom, fun hd => ⟨?_, ?_, ?_⟩⟩
    · intro op hop
      rw [hriscv hd, runRiscv_of_mem hop, fetchedOutcome_run]
    · intro u hu
      rw [hriscv hd, runRiscv_of_run hu, fetchedOutcome_done]
    · intro num op v rd hcsr
      constructor
      · intro hu old hold
        rw [hriscv hd, runRiscv_of_ufstatusWrite hcsr hu hold, fetchedOutcome_run]
      · intro hu
        rw [hriscv hd, runRiscv_of_csr hcsr hu, fetchedOutcome_done]
  case hartDown =>
    intro h hd
    rw [step_of_agenda_cons h, State.fetch, fetchHart_of_not_hartUp hd, fetchedOutcome_done]
  case event =>
    intro i h henc hmem hret
    rw [step_of_agenda_cons h, fetch_event_of_no_word henc hmem hret, fetchedOutcome_run]
  case eventWord =>
    intro i h hi
    rw [step_of_agenda_cons h, fetch_event_of_word hi, fetchedOutcome_done]
  case clock => exact fun h => step_of_agenda_cons h
  case perform => exact fun _ h => step_of_agenda_cons h
  case copyRead => exact fun _ h => step_of_agenda_cons h
  case intr => exact fun h => step_of_agenda_cons h
  case array => exact fun _ _ h => step_of_agenda_cons h
  case pass => exact fun _ h => step_of_agenda_cons h

end Sys2Proof.Proofs
end

section
/-! PROOFS. What a vector rule writes once it has fired (R29, R62, R63, R67, R111), one lemma for each form of rule. -/

namespace Sys2Proof.Proofs

open Sys2Proof.Machine Sys2Proof.Laws

/-! ## The firing -/

theorem cur_vecBusy (s : State) (n : Nat) : (s.vecBusy n).cur = s.cur := by
  unfold State.vecBusy
  split <;> rfl

theorem anyPoison_one (a : Val) : anyPoison [a] = a.pois := by
  simp only [anyPoison, List.any_cons, List.any_nil, Bool.or_false]

theorem anyPoison_two (a b : Val) : anyPoison [a, b] = (a.pois || b.pois) := by
  simp only [anyPoison, List.any_cons, List.any_nil, Bool.or_false]

theorem anyPoison_three (a b c : Val) : anyPoison [a, b, c] = (a.pois || b.pois || c.pois) := by
  simp only [anyPoison, List.any_cons, List.any_nil, Bool.or_false, Bool.or_assoc]

/-- R67: a register is never a null. -/
theorem src_vreg_not_null (e : Elem) {d : Nat} (hd : d < 16) : (e.src d).null = false := by
  rw [Elem.src, if_pos hd, VReg.val]
  split <;> rfl

theorem writes_putD_fired {s : State} (h : s.HasElem) (t : BitVec 6) (rds : List Rd) (busy d m : Nat) (vs : List Val) (v : Val)
    {lane : Nat → W} (hl : ∀ k, k < 16 → v.lanes.get k = lane k) (hs : (v.seqv, if v.seqv then v.seq else 0) = outTag vs) :
    Writes s ((s.begin t rds).vecBusy busy) (((s.begin t rds).vecBusy busy).putD d v m) d m vs v.pois lane :=
  writes_putD _ _ _ _ _ _ _ _ (hasElem_vecBusy _ _ (hasElem_begin _ _ _ h))
    ((view_vecBusy _ _ (hasElem_begin _ _ _ h).1).trans (view_begin _ _ _ h.1)) (cur_vecBusy _ _) hl rfl hs

/-- A rule with the operands `vs` whose own effect is to put lanes computed of them to its destination. -/
theorem writes_fireV {s : State} {t : BitVec 6} {rds : List Rd} {busy d m : Nat} {outs : List Nat} {res : List Val → Lanes}
    {vs : List Val} {lane : Nat → W} (h : s.HasElem) (hn : NoNull s (rds.map (·.code)))
    (hvs : (rds.map fun r => s.view.src r.code) = vs) (hl : ∀ k, k < 16 → (res vs).get k = lane k) :
    Writes s ((s.begin t rds).vecBusy busy) (s.fireV busy t rds outs fun vs u => u.putD d (resultOf vs (res vs)) m) d m
      vs (anyPoison vs) lane := by
  rw [fireV_eff _ _ _ _ _ _ hn, hvs]
  exact writes_putD_fired h t rds busy d m vs (resultOf vs (res vs)) hl (outTag_seq vs)

theorem writes_fire {s : State} {t : BitVec 6} {rds : List Rd} {d m : Nat} {outs : List Nat} {res : List Val → Lanes}
    {vs : List Val} {lane : Nat → W} (h : s.HasElem) (hn : NoNull s (rds.map (·.code)))
    (hvs : (rds.map fun r => s.view.src r.code) = vs) (hl : ∀ k, k < 16 → (res vs).get k = lane k) :
    Writes s (s.begin t rds) (s.fire t rds outs fun vs u => u.putD d (resultOf vs (res vs)) m) d m vs (anyPoison vs) lane :=
  writes_fireV (busy := 0) h hn hvs hl

/-! ## The forms of integer rules -/

theorem writes_vecAB {s : State} (t : BitVec 6) (o : FmtABM) (busy : Nat) {f : Lanes → Lanes → Lanes} {lane : Nat → W} (h : s.HasElem)
    (hn : NoNull s [o.a.toNat, o.b.toNat])
    (hl : ∀ k, k < 16 → (f (s.view.src o.a.toNat).lanes (s.view.src o.b.toNat).lanes).get k = lane k) :
    Writes s ((s.begin t [rd o.a o.ka, rd o.b o.kb]).vecBusy busy) (s.vecAB t o busy f) o.d.toNat o.m.toNat
      [s.view.src o.a.toNat, s.view.src o.b.toNat] ((s.view.src o.a.toNat).pois || (s.view.src o.b.toNat).pois) lane := by
  rw [← anyPoison_two]
  exact writes_fireV (res := fun vs => f (nth default vs 0).lanes (nth default vs 1).lanes) h hn rfl hl

theorem writes_vecA {s : State} (t : BitVec 6) (o : FmtAM) (busy : Nat) {f : Lanes → Lanes} {lane : Nat → W} (h : s.HasElem)
    (hn : NoNull s [o.a.toNat]) (hl : ∀ k, k < 16 → (f (s.view.src o.a.toNat).lanes).get k = lane k) :
    Writes s ((s.begin t [rd o.a o.ka]).vecBusy busy) (s.vecA t o busy f) o.d.toNat o.m.toNat
      [s.view.src o.a.toNat] (s.view.src o.a.toNat).pois lane := by
  rw [← anyPoison_one]
  exact writes_fireV (res := fun vs => f (nth default vs 0).lanes) h hn rfl hl

theorem writes_vecI {s : State} (t : BitVec 6) (d a : BitVec 5) (ka : Bool) {f : Lanes → Lanes} {lane : Nat → W} (h : s.HasElem)
    (hn : NoNull s [a.toNat]) (hl : ∀ k, k < 16 → (f (s.view.src a.toNat).lanes).get k = lane k) :
    Writes s (s.begin t [rd a ka]) (s.vecI t d a ka f) d.toNat 0 [s.view.src a.toNat] (s.view.src a.toNat).pois lane := by
  rw [← anyPoison_one]
  exact writes_fire (res := fun vs => f (nth default vs 0).lanes) h hn rfl hl

/-- The destination is a register, which is read too and is never a null. -/
theorem regHolds_vecVAB {s : State} (t : BitVec 6) (o : FmtVBM) {f : W → W → W → W} {lane : Nat → W} (h : s.HasElem)
    (hn : NoNull s [o.a.toNat, o.b.toNat])
    (hl : ∀ k, k < 16 → f ((s.view.src o.a.toNat).lanes.get k) ((s.view.src o.b.toNat).lanes.get k)
      ((s.view.src o.d.toNat).lanes.get k) = lane k) :
    RegHolds s (s.vecVAB t o f) o.d.toNat o.m.toNat [s.view.src o.a.toNat, s.view.src o.b.toNat, s.view.src o.d.toNat]
      ((s.view.src o.a.toNat).pois || (s.view.src o.b.toNat).pois || (s.view.src o.d.toNat).pois) lane := by
  have hnd : NoNull s [o.a.toNat, o.b.toNat, o.d.toNat] := by
    have hd := src_vreg_not_null s.view o.d.isLt
    simp only [NoNull, List.forall_mem_cons] at hn ⊢
    exact ⟨hn.1, hn.2.1, hd, hn.2.2⟩
  rw [← anyPoison_three]
  exact (writes_fire (rds := [rd o.a o.ka, rd o.b o.kb, rdV o.d]) (d := o.d.toNat) (res := fun vs => Lanes.ofFn fun k =>
    f ((nth default vs 0).lanes.get k) ((nth default vs 1).lanes.get k) ((nth default vs 2).lanes.get k)) h hnd rfl
    fun k hk => (lanes_get_ofFn _ _ hk).trans (hl k hk)).1 o.d.isLt

/-- A rule with no operands that puts the word `x` to every lane of a register. -/
theorem regHolds_fire_rep {s : State} (t : BitVec 6) (d : BitVec 4) {x y : W} (h : s.HasElem) (hxy : x = y) :
    RegHolds s (s.fire t [] [] fun _ u => u.putD d.toNat (Val.plain (Lanes.rep x)) 0) d.toNat 0 [] false fun _ => y := by
  rw [fire_eff _ _ _ _ _ (fun _ hc => absurd hc List.not_mem_nil)]
  exact (writes_putD_fired h t [] 0 d.toNat 0 [] (Val.plain (Lanes.rep x)) (fun k hk => (lanes_get_rep x k hk).trans hxy) rfl).1 d.isLt

theorem laneRule_of_laneAB {mk : BitVec 6 → FmtABM → Instr} {busy : Nat} {f g : W → W → W}
    (hx : ∀ t o s, exec (mk t o) s = .next (s.laneAB t o busy g)) (hfg : ∀ a b, g a b = f a b) : LaneRule mk busy f := by
  intro t o s h hn
  exact ⟨_, hx t o s, writes_vecAB t o busy h hn fun k hk => (lanes_get_ofFn _ _ hk).trans (hfg _ _)⟩

end Sys2Proof.Proofs
end

section
/-! PROOFS. The integer rules (R115 to R126): what the model computes in a lane is the number that the spec gives, modulo 2^32. -/

namespace Sys2Proof.Proofs

open Sys2Proof.Machine Sys2Proof.Laws

/-! ## A lane as a number -/

theorem eq_ofNat_of_toNat {x : W} {n : Nat} (h : x.toNat = n) : x = BitVec.ofNat 32 n := by
  rw [← h, BitVec.ofNat_toNat, BitVec.setWidth_eq]

theorem eq_ofInt_of_toInt {x : W} {n : Int} (h : x.toInt = n) : x = BitVec.ofInt 32 n := by
  rw [← h, BitVec.ofInt_toInt]

theorem eq_zero_iff_toNat (x : W) : x = 0 ↔ x.toNat = 0 := BitVec.toNat_inj.symm

/-! ## Sums, differences and products (R115 to R117) -/

theorem add_eq_ofNat (a b : W) : a + b = BitVec.ofNat 32 (a.toNat + b.toNat) :=
  BitVec.eq_of_toNat_eq (by rw [BitVec.toNat_add, BitVec.toNat_ofNat])

theorem sub_eq_ofInt (a b : W) : a - b = BitVec.ofInt 32 (a.toInt - b.toInt) :=
  BitVec.eq_of_toInt_eq (by rw [BitVec.toInt_sub, BitVec.toInt_ofInt])

theorem mul_eq_ofNat (a b : W) : a * b = BitVec.ofNat 32 (a.toNat * b.toNat) :=
  BitVec.eq_of_toNat_eq (by rw [BitVec.toNat_mul, BitVec.toNat_ofNat])

theorem mulAdd_eq_ofNat (a b d : W) : d + a * b = BitVec.ofNat 32 (d.toNat + a.toNat * b.toNat) :=
  BitVec.eq_of_toNat_eq (by rw [BitVec.toNat_add, BitVec.toNat_mul, Nat.add_mod_mod, BitVec.toNat_ofNat])

theorem add_imm8_eq_ofInt (a : W) (i : BitVec 8) : a + imm8 i = BitVec.ofInt 32 (a.toInt + i.toInt) := by
  rw [imm8, BitVec.signExtend, BitVec.ofInt_add, BitVec.ofInt_toInt]

/-! ## Quotients (R118) -/

theorem divuLane_eq (a b : W) : divuLane a b = if b.toNat = 0 then 0xFFFFFFFF else BitVec.ofNat 32 (a.toNat / b.toNat) := by
  simp only [divuLane, eq_zero_iff_toNat, eq_ofNat_of_toNat (BitVec.toNat_udiv : (a / b).toNat = _)]

theorem remuLane_eq (a b : W) : remuLane a b = if b.toNat = 0 then a else BitVec.ofNat 32 (a.toNat % b.toNat) := by
  simp only [remuLane, eq_zero_iff_toNat, eq_ofNat_of_toNat (BitVec.toNat_umod : (a % b).toNat = _)]

/-! ## Bits and shifts (R119, R120) -/

theorem and_eq_ofNat (a b : W) : a &&& b = BitVec.ofNat 32 (a.toNat &&& b.toNat) := eq_ofNat_of_toNat (BitVec.toNat_and ..)

theorem or_eq_ofNat (a b : W) : a ||| b = BitVec.ofNat 32 (a.toNat ||| b.toNat) := eq_ofNat_of_toNat (BitVec.toNat_or ..)

theorem xor_eq_ofNat (a b : W) : a ^^^ b = BitVec.ofNat 32 (a.toNat ^^^ b.toNat) := eq_ofNat_of_toNat (BitVec.toNat_xor ..)

theorem andn_eq_ofNat (a b : W) : a &&& ~~~b = BitVec.ofNat 32 (a.toNat &&& (2 ^ 32 - 1 - b.toNat)) :=
  eq_ofNat_of_toNat (by rw [BitVec.toNat_and, BitVec.toNat_not])

theorem shiftLane_left (a : W) (n : Nat) : shiftLane 0 a n = BitVec.ofNat 32 (a.toNat * 2 ^ (n % 32)) :=
  BitVec.eq_of_toNat_eq (by rw [shiftLane, BitVec.toNat_shiftLeft, Nat.shiftLeft_eq, BitVec.toNat_ofNat])

theorem shiftLane_right (a : W) (n : Nat) : shiftLane 1 a n = BitVec.ofNat 32 (a.toNat / 2 ^ (n % 32)) :=
  eq_ofNat_of_toNat (by rw [shiftLane, BitVec.toNat_ushiftRight, Nat.shiftRight_eq_div_pow])

theorem shiftLane_arith {kind : Nat} (h : 2 ≤ kind) (a : W) (n : Nat) :
    shiftLane kind a n = BitVec.ofInt 32 (a.toInt / 2 ^ (n % 32)) := by
  have hk : shiftLane kind a n = a.sshiftRight (n % 32) := by
    match kind, h with
    | _ + 2, _ => rfl
  exact eq_ofInt_of_toInt (by rw [hk, BitVec.toInt_sshiftRight, Int.shiftRight_eq_div_pow, Int.natCast_pow, Int.cast_ofNat_Int])

/-- A count of SHI is below 32, so it shifts as it stands. -/
theorem shiftLane_shi (k : BitVec 2) (n : BitVec 5) (a : W) : shiftLane k.toNat a n.toNat =
    if k = 0 then BitVec.ofNat 32 (a.toNat * 2 ^ n.toNat)
    else if k = 1 then BitVec.ofNat 32 (a.toNat / 2 ^ n.toNat) else BitVec.ofInt 32 (a.toInt / 2 ^ n.toNat) := by
  have hn : n.toNat % 32 = n.toNat := Nat.mod_eq_of_lt n.isLt
  by_cases h0 : k = 0
  · subst h0
    exact (shiftLane_left a _).trans (by rw [hn, if_pos rfl])
  by_cases h1 : k = 1
  · subst h1
    exact (shiftLane_right a _).trans (by rw [hn, if_neg h0, if_pos rfl])
  · rw [shiftLane_arith (by bv_omega), hn, if_neg h0, if_neg h1]

theorem lui_eq_ofNat (imm : BitVec 14) : imm.setWidth 32 <<< 18 = BitVec.ofNat 32 (imm.toNat * 2 ^ 18) :=
  BitVec.eq_of_toNat_eq (by
    rw [BitVec.toNat_shiftLeft, Nat.shiftLeft_eq, BitVec.toNat_setWidth_of_le (by decide), BitVec.toNat_ofNat])

/-! ## Extremes (R121): of two equal operands both are the extreme -/

theorem sminW_eq (a b : W) : sminW a b = if a.toInt ≤ b.toInt then a else b := by
  simp only [sminW, BitVec.slt_iff_toInt_lt]
  rcases Int.lt_trichotomy a.toInt b.toInt with h | h | h
  · rw [if_pos h, if_pos (Int.le_of_lt h)]
  · rw [BitVec.eq_of_toInt_eq h, ite_self, ite_self]
  · rw [if_neg (Int.not_lt.2 (Int.le_of_lt h)), if_neg (Int.not_le.2 h)]

theorem smaxW_eq (a b : W) : smaxW a b = if b.toInt ≤ a.toInt then a else b := by
  simp only [smaxW, BitVec.slt_iff_toInt_lt, ← Int.not_le, ite_not]

theorem uminW_eq (a b : W) : uminW a b = if a.toNat ≤ b.toNat then a else b := by
  simp only [uminW, BitVec.ult_iff_toNat_lt]
  rcases Nat.lt_trichotomy a.toNat b.toNat with h | h | h
  · rw [if_pos h, if_pos (Nat.le_of_lt h)]
  · rw [BitVec.eq_of_toNat_eq h, ite_self, ite_self]
  · rw [if_neg (Nat.not_lt.2 (Nat.le_of_lt h)), if_neg (Nat.not_le.2 h)]

theorem umaxW_eq (a b : W) : umaxW a b = if b.toNat ≤ a.toNat then a else b := by
  simp only [umaxW, BitVec.ult_iff_toNat_lt, ← Nat.not_le, ite_not]

/-! ## One operand (R122) -/

theorem abs_eq_ofNat_natAbs (x : W) : (if x.slt 0 then -x else x) = BitVec.ofNat 32 x.toInt.natAbs := by
  rw [← BitVec.ofInt_natCast]
  simp only [BitVec.slt_iff_toInt_lt, BitVec.ofNat_eq_ofNat, BitVec.toInt_zero]
  by_cases h : x.toInt < 0
  · have habs : (x.toInt.natAbs : Int) = -x.toInt := by omega
    rw [if_pos h, habs, BitVec.ofInt_neg, BitVec.ofInt_toInt]
  · have habs : (x.toInt.natAbs : Int) = x.toInt := by omega
    rw [if_neg h, habs, BitVec.ofInt_toInt]

theorem foldl_toNat_eq_length_filter (p : Nat → Bool) (l : List Nat) (n : Nat) :
    l.foldl (fun acc i => acc + (p i).toNat) n = n + (l.filter p).length := by
  induction l generalizing n with
  | nil => rfl
  | cons i l ih =>
    rw [List.foldl_cons, ih, List.filter_cons]
    cases p i with
    | false => rfl
    | true =>
      rw [if_pos rfl, List.length_cons, Bool.toNat_true]
      omega

theorem popc32_eq (x : W) : popc32 x = BitVec.ofNat 32 ((List.range 32).filter fun i => tb x i).length := by
  rw [popc32, foldl_toNat_eq_length_filter, Nat.zero_add]

/-! ## Bit fields (R126) -/

theorem bfWidth_eq_fieldWidth (c : Nat) : bfWidth c = fieldWidth c := rfl

theorem sextN_of_lt {w f : Nat} (h : f < 2 ^ w) : sextN w f = if 2 ^ (w - 1) ≤ f then (f : Int) - 2 ^ w else f := by
  have hf : (f : Int) % 2 ^ w = f := Int.emod_eq_of_lt (Int.natCast_nonneg f) (by exact_mod_cast h)
  simp only [sextN, Nat.mod_eq_of_lt h, hf, ← Nat.not_le, ite_not]

theorem bfxLane_eq (a c : W) : bfxLane a c =
    (let w := fieldWidth c.toNat
     let f := a.toNat / 2 ^ (c.toNat % 32) % 2 ^ w
     if w = 0 then 0 else if bitN c.toNat 11 && decide (2 ^ (w - 1) ≤ f) then BitVec.ofInt 32 ((f : Int) - 2 ^ w)
       else BitVec.ofNat 32 f) := by
  simp only [bfxLane, bfWidth_eq_fieldWidth, fld]
  rw [sextN_of_lt (Nat.mod_lt _ (Nat.two_pow_pos _))]
  cases bitN c.toNat 11 with
  | false => rfl
  | true => simp only [if_true, Bool.true_and, decide_eq_true_eq, apply_ite (BitVec.ofInt 32), BitVec.ofInt_natCast]

/-! ## The rules -/

/-- Settles O6: each rule is a rule of two operands lane by lane, and its lane function is the stated number; for ADDS, SUBS, MULH and
MULHU by definition. -/
theorem integerLanes : Obligations.IntegerLanes :=
  ⟨laneRule_of_laneAB (fun _ _ _ => rfl) add_eq_ofNat,
   laneRule_of_laneAB (fun _ _ _ => rfl) sub_eq_ofInt,
   laneRule_of_laneAB (fun _ _ _ => rfl) fun _ _ => rfl,
   laneRule_of_laneAB (fun _ _ _ => rfl) fun _ _ => rfl,
   laneRule_of_laneAB (fun _ _ _ => rfl) mul_eq_ofNat,
   laneRule_of_laneAB (fun _ _ _ => rfl) fun _ _ => rfl,
   laneRule_of_laneAB (fun _ _ _ => rfl) fun _ _ => rfl,
   laneRule_of_laneAB (fun _ _ _ => rfl) and_eq_ofNat,
   laneRule_of_laneAB (fun _ _ _ => rfl) or_eq_ofNat,
   laneRule_of_laneAB (fun _ _ _ => rfl) xor_eq_ofNat,
   laneRule_of_laneAB (fun _ _ _ => rfl) andn_eq_ofNat,
   laneRule_of_laneAB (fun _ _ _ => rfl) fun a b => shiftLane_left a b.toNat,
   laneRule_of_laneAB (fun _ _ _ => rfl) fun a b => shiftLane_right a b.toNat,
   laneRule_of_laneAB (fun _ _ _ => rfl) fun a b => shiftLane_arith (Nat.le_refl 2) a b.toNat,
   laneRule_of_laneAB (fun _ _ _ => rfl) sminW_eq,
   laneRule_of_laneAB (fun _ _ _ => rfl) smaxW_eq,
   laneRule_of_laneAB (fun _ _ _ => rfl) uminW_eq,
   laneRule_of_laneAB (fun _ _ _ => rfl) umaxW_eq,
   laneRule_of_laneAB (fun _ _ _ => rfl) divuLane_eq,
   laneRule_of_laneAB (fun _ _ _ => rfl) remuLane_eq⟩

/-- Settles O7: the form of each rule says what it writes, and its lane function is the stated number. -/
theorem integerFieldsAndUnary : Obligations.IntegerFieldsAndUnary := by
  refine ⟨fun t s h => ⟨fun o hn => ⟨⟨_, rfl, ?mad⟩, ⟨_, rfl, ?bfi⟩⟩, fun o hn => ⟨_, rfl, ?bfx⟩⟩, fun t s h =>
    ⟨fun o hn => ⟨_, rfl, ?addi⟩, fun o hn => ⟨_, rfl, ?shi⟩, fun o hn => ⟨⟨_, rfl, ?abs⟩, ⟨_, rfl, ?clz⟩, ⟨_, rfl, ?popc⟩⟩,
     fun o hn => ⟨_, rfl, ?sel⟩, fun d imm => ⟨⟨_, rfl, ?li⟩, ⟨_, rfl, ?lui⟩⟩⟩⟩
  case mad => exact regHolds_vecVAB t o h hn fun _ _ => mulAdd_eq_ofNat _ _ _
  case bfi => exact regHolds_vecVAB t o h hn fun _ _ => rfl
  case bfx => exact writes_vecAB t o 0 h hn fun k hk => (lanes_get_ofFn _ k hk).trans (bfxLane_eq _ _)
  case addi => exact writes_vecI t o.d o.a o.ka h hn fun k hk => (lanes_get_ofFn _ k hk).trans (add_imm8_eq_ofInt _ _)
  case shi => exact writes_vecI t o.d o.a o.ka h hn fun k hk => (lanes_get_ofFn _ k hk).trans (shiftLane_shi _ _ _)
  case abs => exact writes_vecA t o 0 h hn fun k hk => (lanes_get_ofFn _ k hk).trans (abs_eq_ofNat_natAbs _)
  case clz => exact writes_vecA t o 0 h hn (lanes_get_ofFn _)
  case popc => exact writes_vecA t o 0 h hn fun k hk => (lanes_get_ofFn _ k hk).trans (popc32_eq _)
  case sel => exact writes_vecAB t ⟨o.d, o.a, o.b, o.ka, o.kb, 0⟩ 0 h hn (lanes_get_ofFn _)
  case li => exact regHolds_fire_rep t d h rfl
  case lui => exact regHolds_fire_rep t d h (lui_eq_ofNat imm)

end Sys2Proof.Proofs
end

section
/-! PROOFS. The rules that move lanes or combine them (R127 to R131). -/

namespace Sys2Proof.Proofs

open Sys2Proof.Machine Sys2Proof.Laws

/-! ## Sums of lanes -/

theorem foldl_add_eq_ofNat_sum (g : Nat → W) (l : List Nat) (x : W) :
    l.foldl (fun acc j => acc + g j) x = BitVec.ofNat 32 (x.toNat + (l.map fun j => (g j).toNat).sum) := by
  induction l generalizing x with
  | nil => exact eq_ofNat_of_toNat rfl
  | cons j l ih =>
    rw [List.foldl_cons, ih, List.map_cons, List.sum_cons, ← Nat.add_assoc]
    exact BitVec.eq_of_toNat_eq (by simp only [BitVec.toNat_ofNat, BitVec.toNat_add, Nat.mod_add_mod])

theorem redLanes_add_get (a : Lanes) {k : Nat} (hk : k < 16) :
    (redLanes (fun x y => x + y) a).get k = BitVec.ofNat 32 (laneNums.map fun j => (a.get j).toNat).sum := by
  rw [redLanes, lanes_get_rep _ _ hk, foldl_add_eq_ofNat_sum, ← List.sum_cons]
  rfl

theorem scanLanes_get (a : Lanes) {k : Nat} (hk : k < 16) :
    (scanLanes a).get k = BitVec.ofNat 32 ((List.range (k + 1)).map fun j => (a.get j).toNat).sum := by
  rw [scanLanes, lanes_get_ofFn _ _ hk, foldl_add_eq_ofNat_sum]
  exact congrArg _ (Nat.zero_add _)

/-! ## Extremes of lanes -/

/-- A function that picks the greater of two words under `key`, folded over words, picks the greatest. -/
theorem foldl_mem_and_le {f : W → W → W} {key : W → Int} (hmem : ∀ a b, f a b = a ∨ f a b = b)
    (hle : ∀ a b, key a ≤ key (f a b) ∧ key b ≤ key (f a b)) (l : List W) (x : W) :
    l.foldl f x ∈ x :: l ∧ ∀ y ∈ x :: l, key y ≤ key (l.foldl f x) := by
  induction l generalizing x with
  | nil => exact ⟨List.mem_singleton_self x, fun y hy => List.mem_singleton.1 hy ▸ Int.le_refl _⟩
  | cons z l ih =>
    obtain ⟨hin, hub⟩ := ih (f x z)
    rw [List.foldl_cons]
    simp only [List.forall_mem_cons] at hub ⊢
    obtain ⟨hfirst, hrest⟩ := hub
    refine ⟨?_, Int.le_trans (hle x z).1 hfirst, Int.le_trans (hle x z).2 hfirst, hrest⟩
    rcases List.mem_cons.1 hin with heq | hin
    · rw [heq]
      rcases hmem x z with hx | hz
      · rw [hx]
        exact List.mem_cons_self
      · rw [hz]
        exact List.mem_cons_of_mem _ List.mem_cons_self
    · exact List.mem_cons_of_mem _ (List.mem_cons_of_mem _ hin)

theorem mem_laneNums (j : Nat) : j ∈ laneNums ↔ j < 16 := List.mem_range (n := 16)

/-- R130: such a function's reduction gives every lane the same word, a lane of the operand that is greatest under `key`. -/
theorem redLanes_greatest {f : W → W → W} (key : W → Int) (hmem : ∀ a b, f a b = a ∨ f a b = b)
    (hle : ∀ a b, key a ≤ key (f a b) ∧ key b ≤ key (f a b)) (a : Lanes) : ∃ x,
    (∃ j, j < 16 ∧ x = a.get j) ∧ (∀ j, j < 16 → key (a.get j) ≤ key x) ∧ ∀ k, k < 16 → (redLanes f a).get k = x := by
  obtain ⟨hin, hub⟩ := foldl_mem_and_le hmem hle ((laneNums.drop 1).map a.get) (a.get 0)
  have hall : a.get 0 :: (laneNums.drop 1).map a.get = laneNums.map a.get := rfl
  rw [hall] at hin hub
  obtain ⟨j, hj, hx⟩ := List.mem_map.1 hin
  refine ⟨_, ⟨j, (mem_laneNums j).1 hj, hx.symm⟩, fun i hi => hub _ (List.mem_map_of_mem ((mem_laneNums i).2 hi)), fun k hk => ?_⟩
  rw [redLanes, lanes_get_rep _ _ hk, List.foldl_map]

theorem smaxW_mem (a b : W) : smaxW a b = a ∨ smaxW a b = b := by
  unfold smaxW
  split
  · exact .inr rfl
  · exact .inl rfl

theorem sminW_mem (a b : W) : sminW a b = a ∨ sminW a b = b := by
  unfold sminW
  split
  · exact .inl rfl
  · exact .inr rfl

theorem le_smaxW (a b : W) : a.toInt ≤ (smaxW a b).toInt ∧ b.toInt ≤ (smaxW a b).toInt := by
  rw [smaxW_eq]
  split <;> omega

theorem sminW_le (a b : W) : (sminW a b).toInt ≤ a.toInt ∧ (sminW a b).toInt ≤ b.toInt := by
  rw [sminW_eq]
  split <;> omega

/-! ## The rules -/

/-- Settles O8: BCAST, PERM and SLIDE move lanes as they are defined, and the reductions are folds over the lanes. -/
theorem crossLane : Obligations.CrossLane := by
  refine fun t s h => ⟨fun o hn => ⟨_, rfl, ?bcast⟩, fun o hn => ⟨_, rfl, ?perm⟩, fun o hn => ⟨_, rfl, ?slide⟩,
    fun o hn => ⟨⟨_, rfl, ?redadd⟩, ?redmax, ?redmin, ⟨_, rfl, ?scan⟩⟩⟩
  case bcast => exact writes_vecI t o.d o.a o.ka h hn (lanes_get_rep _)
  case perm => exact writes_vecAB t o 0 h hn (lanes_get_ofFn _)
  case slide => exact writes_vecI t o.d o.a o.ka h hn (lanes_get_ofFn _)
  case redadd => exact writes_vecA t o 1 h hn fun _ hk => redLanes_add_get _ hk
  case redmax =>
    obtain ⟨x, hlane, hmax, hget⟩ := redLanes_greatest BitVec.toInt smaxW_mem le_smaxW (s.view.src o.a.toNat).lanes
    exact ⟨_, x, rfl, hlane, hmax, writes_vecA t o 1 h hn hget⟩
  case redmin =>
    have hle : ∀ a b, -a.toInt ≤ -(sminW a b).toInt ∧ -b.toInt ≤ -(sminW a b).toInt := fun a b =>
      ⟨Int.neg_le_neg (sminW_le a b).1, Int.neg_le_neg (sminW_le a b).2⟩
    obtain ⟨x, hlane, hmin, hget⟩ := redLanes_greatest (fun w => -w.toInt) sminW_mem hle (s.view.src o.a.toNat).lanes
    exact ⟨_, x, rfl, hlane, fun j hj => Int.neg_le_neg_iff.1 (hmin j hj), writes_vecA t o 1 h hn hget⟩
  case scan => exact writes_vecA t o 1 h hn fun _ hk => scanLanes_get _ hk

end Sys2Proof.Proofs
end

section
/-! PROOFS. The floating-point rules (R139 to R147, R151, R157): what a rule writes once it has fired, one lemma for each form. -/

namespace Sys2Proof.Proofs

open Sys2Proof.Machine Sys2Proof.Laws

/-! ## Flags and traps leave what the rest of the firing reads -/

/-- A change of the segment that leaves its live part leaves the element of the step. -/
theorem liveElem_onCurSeg_of_live (s : State) (f : Seg → Seg) (h : s.HasSeg)
    (hf : (f (s.segD s.cur.n s.cur.k)).live = (s.segD s.cur.n s.cur.k).live) : (s.onCurSeg f).liveElem = s.liveElem := by
  show ((s.onCurSeg f).segD s.cur.n s.cur.k).live.elem s.cur.p s.cur.e = s.liveElem
  rw [segD_onCurSeg _ _ h, hf]
  rfl

theorem hasElem_onCurSeg_of_live (s : State) (f : Seg → Seg) (h : s.HasElem)
    (hf : (f (s.segD s.cur.n s.cur.k)).live = (s.segD s.cur.n s.cur.k).live) : (s.onCurSeg f).HasElem := by
  obtain ⟨hseg, hstripe, helem, hlens⟩ := h
  have hlive : ((s.onCurSeg f).segD s.cur.n s.cur.k).live = (s.segD s.cur.n s.cur.k).live := by rw [segD_onCurSeg _ _ hseg, hf]
  refine ⟨hasSeg_onCurSeg _ _ hseg, ?stripe, ?elem, ?lens⟩
  case stripe =>
    show s.cur.p < ((s.onCurSeg f).segD s.cur.n s.cur.k).live.stripes.length
    rwa [hlive]
  case elem =>
    show s.cur.e < (((s.onCurSeg f).segD s.cur.n s.cur.k).live.stripe s.cur.p).elems.length
    rwa [hlive]
  case lens => rwa [liveElem_onCurSeg_of_live _ _ hseg hf]

/-- R398: a detection touches the records and the freeze alone. -/
theorem detect_keeps (g : Seg) (r : Rec) :
    (g.detect r).live = g.live ∧ (g.detect r).start = g.start ∧ (g.detect r).image = g.image := by
  unfold Seg.detect
  split
  · exact ⟨rfl, rfl, rfl⟩
  · split <;> exact ⟨rfl, rfl, rfl⟩

theorem hasElem_raiseFlags (s : State) (fl : Nat) (h : s.HasElem) : (s.raiseFlags fl).HasElem := by
  obtain ⟨-, -, -, hv, hp, hc⟩ := id h
  exact hasElem_onCurElem _ _ h hv hp hc

theorem hasElem_faultRule (s : State) (r : Rec) (h : s.HasElem) : (s.faultRule r).HasElem :=
  hasElem_onCurSeg_of_live _ _ h (detect_keeps _ r).1

theorem view_faultRule (s : State) (r : Rec) (h : s.HasSeg) : (s.faultRule r).view = s.view :=
  view_onCurSeg _ _ h (detect_keeps _ r).2.1 (detect_keeps _ r).2.2

/-- R141, R143: what `arith` can do: nothing, raise flags, or raise flags and then a fault. -/
theorem arith_cases (s : State) (p : Bool) (mask : W16) (fl : Nat → Nat) :
    s.arith p mask fl = s ∨ s.arith p mask fl = s.raiseFlags (orFlags mask fl) ∨
      ∃ r, s.arith p mask fl = (s.raiseFlags (orFlags mask fl)).faultRule r := by
  unfold State.arith
  split
  · exact .inl rfl
  · dsimp only
    split
    · exact .inr (.inl rfl)
    · exact .inr (.inr ⟨_, rfl⟩)

theorem cur_arith (s : State) (p : Bool) (mask : W16) (fl : Nat → Nat) : (s.arith p mask fl).cur = s.cur := by
  obtain h | h | ⟨_, h⟩ := arith_cases s p mask fl <;> rw [h] <;> rfl

theorem hasElem_arith (s : State) (p : Bool) (mask : W16) (fl : Nat → Nat) (h : s.HasElem) : (s.arith p mask fl).HasElem := by
  obtain hr | hr | ⟨_, hr⟩ := arith_cases s p mask fl <;> rw [hr]
  · exact h
  · exact hasElem_raiseFlags _ _ h
  · exact hasElem_faultRule _ _ (hasElem_raiseFlags _ _ h)

theorem view_arith (s : State) (p : Bool) (mask : W16) (fl : Nat → Nat) (h : s.HasElem) : (s.arith p mask fl).view = s.view := by
  have hflags : (s.raiseFlags (orFlags mask fl)).view = s.view := view_onCurElem _ _ h.1
  obtain hr | hr | ⟨_, hr⟩ := arith_cases s p mask fl <;> rw [hr]
  · exact hflags
  · exact (view_faultRule _ _ (hasElem_raiseFlags _ _ h).1).trans hflags

/-! ## The forms of floating-point rules -/

/-- R110, R141, R143: `putF` raises the flags of the lanes it writes, then writes its lanes, poisoned where one of them traps. What
it asks of the element it reads as the cycle began (R4). -/
theorem writes_putF {s pre : State} (d m : Nat) (vs : List Val) (res : Nat → FRes) (h : pre.HasElem) (hv : pre.view = s.view)
    (hc : pre.cur = s.cur) :
    (let fl := fun k => (res k).2
     Writes s (pre.arith (anyPoison vs) (s.writtenLanes d m) fl) (pre.putF d m vs res) d m vs
       (anyPoison vs || s.traps (anyPoison vs) (s.writtenLanes d m) fl) fun k => BitVec.ofNat 32 (res k).1) := by
  have hmask : pre.writtenLanes d m = s.writtenLanes d m := by rw [State.writtenLanes, hv, ← State.writtenLanes]
  have htraps : ∀ p mask fl, pre.traps p mask fl = s.traps p mask fl := fun p mask fl => by rw [State.traps, hv, ← State.traps]
  rw [State.putF, hmask, htraps]
  exact writes_putD _ _ _ _ _ _ _ _ (hasElem_arith _ _ _ _ h) ((view_arith _ _ _ _ h).trans hv) ((cur_arith _ _ _ _).trans hc)
    (fun k hk => lanes_get_ofFn (fun k => BitVec.ofNat 32 (res k).1) k hk) rfl (outTag_seq vs)

/-- A rule whose own effect is to put the results `res` of its operands and to advance the generators does what the statements ask. -/
theorem floatGives_of_fireV {i : Instr} {s : State} {t : BitVec 6} {rds : List Rd} {outs : List Nat} {d m busy : Nat} {rounds : Bool}
    {res : List Val → Nat → FRes} (h : s.HasElem)
    (hx : exec i s = .next (s.fireV busy t rds outs fun vs u => (u.putF d m vs (res vs)).srAdvance rounds)) :
    FloatGives i s t rds d m busy rounds res := by
  intro hn
  rw [fireV_eff _ _ _ _ _ _ hn] at hx
  exact ⟨_, hx, writes_putF d m _ _ (hasElem_vecBusy _ _ (hasElem_begin _ _ _ h))
    ((view_vecBusy _ _ (hasElem_begin _ _ _ h).1).trans (view_begin _ _ _ h.1)) (cur_vecBusy _ _)⟩

theorem float2_of_fpAB {mk : BitVec 6 → FmtABM → Instr} {f : RMode → Nat → Nat → FRes} {busy : Nat} {rounds : Bool}
    (hx : ∀ t o s, exec (mk t o) s = .next (s.fpAB t o busy rounds f)) : Float2 mk f busy rounds :=
  fun t o s h => floatGives_of_fireV h (hx t o s)

theorem float1_of_fpA {mk : BitVec 6 → FmtAM → Instr} {f : RMode → Nat → FRes} {busy : Nat}
    (hx : ∀ t o s, exec (mk t o) s = .next (s.fpA t o busy true f)) : Float1 mk f busy :=
  fun t o s h => floatGives_of_fireV h (hx t o s)

theorem float3_of_fpVAB {mk : BitVec 6 → FmtVBM → Instr} {f : RMode → Nat → Nat → Nat → FRes}
    (hx : ∀ t o s, exec (mk t o) s = .next (s.fpVAB t o f)) : Float3 mk f :=
  fun t o s h => floatGives_of_fireV (outs := []) h (hx t o s)

/-! ## The rules -/

/-- Settles O18: each rule is a floating-point rule of one, two or three operands, and the form says what it does. -/
theorem floatLanes : Obligations.FloatLanes :=
  ⟨⟨float2_of_fpAB fun _ _ _ => rfl, float2_of_fpAB fun _ _ _ => rfl, float2_of_fpAB fun _ _ _ => rfl,
    float2_of_fpAB fun _ _ _ => rfl, float2_of_fpAB fun _ _ _ => rfl, float2_of_fpAB fun _ _ _ => rfl,
    float2_of_fpAB fun _ _ _ => rfl⟩,
   ⟨float1_of_fpA fun _ _ _ => rfl, float1_of_fpA fun _ _ _ => rfl, float1_of_fpA fun _ _ _ => rfl,
    float1_of_fpA fun _ _ _ => rfl, float1_of_fpA fun _ _ _ => rfl, float1_of_fpA fun _ _ _ => rfl,
    float1_of_fpA fun _ _ _ => rfl, float1_of_fpA fun _ _ _ => rfl⟩,
   float3_of_fpVAB fun _ _ _ => rfl, float3_of_fpVAB fun _ _ _ => rfl, float3_of_fpVAB fun _ _ _ => rfl⟩

end Sys2Proof.Proofs
end

section
/-! PROOFS. Flags and traps of the floating-point rules (R141, R143, R146): how flags accumulate, when a trap freezes its segment and
what it records, and what the rules give for special operands. -/

namespace Sys2Proof.Proofs

open Sys2Proof.Machine Sys2Proof.Laws

/-! ## Flags (R141) -/

theorem bitN_eq_testBit (n b : Nat) : bitN n b = n.testBit b := by
  rw [Nat.testBit_eq_decide_div_mod_eq, bitN, Bool.eq_iff_iff, beq_iff_eq, decide_eq_true_iff]

theorem testBit_foldl_or (p : Nat → Bool) (fl : Nat → Nat) (b : Nat) (l : List Nat) (n : Nat) :
    (l.foldl (fun acc k => if p k then acc ||| fl k else acc) n).testBit b =
      (n.testBit b || l.any fun k => p k && (fl k).testBit b) := by
  induction l generalizing n with
  | nil => exact (Bool.or_false _).symm
  | cons k l ih =>
    rw [List.foldl_cons, ih, List.any_cons, ← Bool.or_assoc]
    cases p k with
    | false => simp only [Bool.false_eq_true, if_false, Bool.false_and, Bool.or_false]
    | true => simp only [if_true, Bool.true_and, Nat.testBit_or]

theorem bitN_orFlags (mask : W16) (fl : Nat → Nat) (b : Nat) :
    bitN (orFlags mask fl) b = laneNums.any fun k => tb mask k && bitN (fl k) b := by
  simp only [bitN_eq_testBit, orFlags, testBit_foldl_or, Nat.zero_testBit, Bool.false_or]

theorem fflags_raiseFlags (s : State) (fl : Nat) (h : s.HasElem) :
    (s.raiseFlags fl).liveElem.fflags = s.liveElem.fflags ||| BitVec.ofNat 6 fl := by
  rw [State.raiseFlags, liveElem_onCurElem _ _ h]

theorem liveElem_faultRule (s : State) (r : Rec) (h : s.HasSeg) : (s.faultRule r).liveElem = s.liveElem :=
  liveElem_onCurSeg_of_live _ _ h (detect_keeps _ r).1

/-- A trap raises no flag beyond those of the lanes. -/
theorem fflags_arith (s : State) (mask : W16) (fl : Nat → Nat) (h : s.HasElem) :
    (s.arith false mask fl).liveElem.fflags = s.liveElem.fflags ||| BitVec.ofNat 6 (orFlags mask fl) := by
  rw [← fflags_raiseFlags _ _ h]
  simp only [State.arith, Bool.false_eq_true, if_false]
  split
  · rfl
  · rw [liveElem_faultRule _ _ (hasElem_raiseFlags _ _ h).1]

/-- R141: the flags of written lanes are ORed into FFLAGS. -/
theorem tb_fflags_arith (s : State) (mask : W16) (fl : Nat → Nat) (h : s.HasElem) {b : Nat} (hb : b < 6) :
    tb (s.arith false mask fl).liveElem.fflags b =
      (tb s.liveElem.fflags b || laneNums.any fun k => tb mask k && bitN (fl k) b) := by
  rw [fflags_arith _ _ _ h, ← bitN_orFlags, bitN_eq_testBit]
  simp only [tb, BitVec.getLsbD_or, BitVec.getLsbD_ofNat, hb, decide_true, Bool.true_and]

/-! ## The mask of the lanes that trap (R143) -/

theorem sum_pow_succ (f : Nat → Bool) (n : Nat) :
    (List.range (n + 1)).foldl (fun acc k => acc + if f k then 2 ^ k else 0) 0 =
      (List.range n).foldl (fun acc k => acc + if f k then 2 ^ k else 0) 0 + if f n then 2 ^ n else 0 := by
  rw [List.range_succ, List.foldl_append, List.foldl_cons, List.foldl_nil]

theorem sum_pow_lt (f : Nat → Bool) (n : Nat) :
    (List.range n).foldl (fun acc k => acc + if f k then 2 ^ k else 0) 0 < 2 ^ n := by
  induction n with
  | zero => exact Nat.one_pos
  | succ n ih =>
    rw [sum_pow_succ, Nat.pow_succ]
    split <;> omega

theorem testBit_sum_pow (f : Nat → Bool) {n k : Nat} (hk : k < n) :
    ((List.range n).foldl (fun acc k => acc + if f k then 2 ^ k else 0) 0).testBit k = f k := by
  induction n with
  | zero => exact absurd hk (Nat.not_lt_zero k)
  | succ n ih =>
    have htop := Nat.testBit_lt_two_pow (sum_pow_lt f n)
    rw [sum_pow_succ, Nat.add_comm]
    rcases Nat.lt_succ_iff_lt_or_eq.1 hk with hlt | rfl
    · rw [← ih hlt]
      split
      · exact Nat.testBit_two_pow_add_gt hlt _
      · rw [Nat.zero_add]
    · cases hf : f k with
      | false => rw [if_neg Bool.false_ne_true, Nat.zero_add, htop]
      | true => rw [if_pos rfl, Nat.testBit_two_pow_add_eq, htop, Bool.not_false]

theorem tb_bits16 (f : Nat → Bool) {k : Nat} (hk : k < 16) : tb (bits16 f) k = f k := by
  have hrange : laneNums = List.range 16 := rfl
  rw [tb, bits16, BitVec.getLsbD_ofNat, hrange, testBit_sum_pow f hk, decide_eq_true hk, Bool.true_and]

theorem tb_trapMask (ten : BitVec 6) (mask : W16) (fl : Nat → Nat) {k : Nat} (hk : k < 16) :
    tb (trapMask ten mask fl) k = (tb mask k && fl k &&& ten.toNat != 0) := tb_bits16 _ hk

theorem trapMask_ne_zero {ten : BitVec 6} {mask : W16} {fl : Nat → Nat}
    (ht : ∃ k, k < 16 ∧ tb mask k = true ∧ fl k &&& ten.toNat ≠ 0) : trapMask ten mask fl ≠ 0 := by
  obtain ⟨k, hk, hmask, hfl⟩ := ht
  intro hz
  have hlane := tb_trapMask ten mask fl hk
  rw [hz, hmask, Bool.true_and, bne_iff_ne.2 hfl] at hlane
  simp only [tb, BitVec.ofNat_eq_ofNat, BitVec.getLsbD_zero, Bool.false_eq_true] at hlane

/-! ## Detection (R397, R398) -/

theorem detect_of_recorded {g : Seg} {r : Rec} (hr : g.recs.any (Rec.same r) = true) : g.detect r = g := by
  rw [Seg.detect, if_pos hr, ite_self]

theorem detect_of_new {g : Seg} {r : Rec} (hs : g.stopped = false) (hr : g.recs.any (Rec.same r) = false) :
    g.detect r = { g with recs := g.recs ++ [{ r with at_ := g.sck, seg := g.id.toNat }], frz := some (g.frz.getD g.sck) } := by
  simp only [Seg.detect, hs, hr, Bool.false_eq_true, if_false]

/-- R398: where the records that stand are those of a freeze under way, a detection leaves one under way. -/
theorem frz_detect {g : Seg} (r : Rec) (hs : g.stopped = false) (hg : g.recs ≠ [] → g.frz.isSome = true) :
    (g.detect r).frz.isSome = true := by
  cases hr : g.recs.any (Rec.same r) with
  | false => rw [detect_of_new hs hr]; rfl
  | true =>
    rw [detect_of_recorded hr]
    refine hg fun hnil => ?_
    rw [hnil] at hr
    cases hr

/-! ## Traps (R143) -/

/-- R398: raising flags begins and ends no freeze. -/
theorem segD_raiseFlags_keeps {s : State} (h : s.HasElem) (n : Nat) :
    (let g := (s.raiseFlags n).segD s.cur.n s.cur.k
     g.frz = (s.segD s.cur.n s.cur.k).frz ∧ g.recs = (s.segD s.cur.n s.cur.k).recs ∧ g.stopped = (s.segD s.cur.n s.cur.k).stopped) := by
  have hseg : (s.raiseFlags n).segD s.cur.n s.cur.k = _ := segD_onCurSeg _ _ h.1
  exact hseg ▸ ⟨rfl, rfl, rfl⟩

section
variable {s : State} {mask : W16} {fl : Nat → Nat} (h : s.HasElem)
  (ht : ∃ k, k < 16 ∧ tb mask k = true ∧ fl k &&& s.view.img.cfg.ten.toNat ≠ 0)
  (hs : (s.segD s.cur.n s.cur.k).stopped = false)

include h ht

/-- A lane written with an enabled flag: the segment, with the flags raised, detects a fault with the lanes that raised them. -/
theorem segD_arith_of_trap : ∃ r : Rec, r.kind = 6 ∧ r.slot = s.cur.j ∧ r.lmask = trapMask s.view.img.cfg.ten mask fl ∧
    (s.arith false mask fl).segD s.cur.n s.cur.k = ((s.raiseFlags (orFlags mask fl)).segD s.cur.n s.cur.k).detect r := by
  simp only [State.arith, Bool.false_eq_true, if_false, if_neg (trapMask_ne_zero ht)]
  exact ⟨_, rfl, rfl, rfl, segD_onCurSeg _ _ (hasElem_raiseFlags _ _ h).1⟩

include hs

/-- R143, R398: a trap leaves a freeze under way, provided that the records of the segment are those of one. -/
theorem frz_arith_of_trap (hg : (s.segD s.cur.n s.cur.k).recs ≠ [] → (s.segD s.cur.n s.cur.k).frz.isSome = true) :
    ((s.arith false mask fl).segD s.cur.n s.cur.k).frz.isSome = true := by
  obtain ⟨r, -, -, -, hd⟩ := segD_arith_of_trap h ht
  obtain ⟨hfrz, hrecs, hstop⟩ := segD_raiseFlags_keeps h (orFlags mask fl)
  rw [hd]
  exact frz_detect r (hstop.trans hs) (by rwa [hfrz, hrecs])

/-- R143, R397: the first trap of a freeze records the slot and the lanes that raised an enabled flag. -/
theorem recs_arith_of_trap (hnil : (s.segD s.cur.n s.cur.k).recs = []) :
    ∃ r, r ∈ ((s.arith false mask fl).segD s.cur.n s.cur.k).recs ∧ r.kind = 6 ∧ r.slot = s.cur.j ∧
      ∀ k, k < 16 → tb r.lmask k = (tb mask k && fl k &&& s.view.img.cfg.ten.toNat != 0) := by
  obtain ⟨r, hkind, hslot, hlanes, hd⟩ := segD_arith_of_trap h ht
  obtain ⟨-, hrecs, hstop⟩ := segD_raiseFlags_keeps h (orFlags mask fl)
  rw [hd, detect_of_new (hstop.trans hs) (by rw [hrecs, hnil]; rfl)]
  exact ⟨_, List.mem_append_right _ (List.mem_singleton_self _), hkind, hslot, fun k hk => hlanes ▸ tb_trapMask _ _ _ hk⟩

end

/-! ## Special operands (R146) -/

/-- The rounding mode and the SR number play no part, and no special operand is a subnormal that FTZ would flush. -/
theorem f32_special_operands (rm : RMode) :
    f32Add rm 0x7F800000 0xFF800000 = (0x7FC00000, flNV) ∧ f32Sub rm 0x7F800000 0x7F800000 = (0x7FC00000, flNV) ∧
    f32Mul rm 0x7F800000 0x80000000 = (0x7FC00000, flNV) ∧ f32Fma rm 0x7F800000 0 0x7FC00000 = (0x7FC00000, flNV) ∧
    f32Div rm 0 0 = (0x7FC00000, flNV) ∧ f32Div rm 0x7F800000 0xFF800000 = (0x7FC00000, flNV) ∧
    f32Div rm 0x3F800000 0x80000000 = (0xFF800000, flDZ) ∧
    f32Sqrt rm 0xFF800000 = (0x7FC00000, flNV) ∧ f32Sqrt rm 0x80000000 = (0x80000000, 0) ∧ f32Sqrt rm 0x7F800000 = (0x7F800000, 0) ∧
    f32Rcp rm 0xFF800000 = (0x80000000, 0) ∧ f32Rcp rm 0x80000000 = (0xFF800000, flDZ) ∧ f32Rcp rm 0 = (0x7F800000, flDZ) ∧
    f32Rsq rm 0xFF800000 = (0x7FC00000, flNV) ∧ f32Rsq rm 0x80000000 = (0xFF800000, flDZ) ∧ f32Rsq rm 0x7F800000 = (0, 0) ∧
    f32Exp2 rm 0xFF800000 = (0, 0) ∧ f32Exp2 rm 0 = (0x3F800000, 0) ∧ f32Exp2 rm 0x80000000 = (0x3F800000, 0) ∧
    f32Log2 rm 0xFF800000 = (0x7FC00000, flNV) ∧ f32Log2 rm 0 = (0xFF800000, flDZ) ∧ f32Log2 rm 0x7F800000 = (0x7F800000, 0) ∧
    f32Tanh rm 0xFF800000 = (0xBF800000, 0) ∧ f32Tanh rm 0x80000000 = (0x80000000, 0) ∧
    f32Sigm rm 0xFF800000 = (0, 0) ∧ f32Sigm rm 0 = (0x3F000000, 0) ∧ f32Sigm rm 0x7F800000 = (0x3F800000, 0) := by
  obtain ⟨frm, ftz, rnd⟩ := rm
  cases ftz <;> and_intros <;> rfl

/-! ## A record without a freeze -/

/-- A segment on ring 0 of isle 0 whose element 0 traps on NV. -/
def trapping : State :=
  { State.reset.placeRule 0xF8000000 with cur := ⟨0, 0, 0, 0, 0, 0⟩, agenda := [] }.onCurSeg fun g =>
    { g with start := g.start.onElem 0 0 fun e => { e with img := { e.img with cfg := { e.img.cfg with ten := BitVec.ofNat 6 flNV } } } }

/-- The segment after a trap, its record kept and its freeze struck out. -/
def recordedUnfrozen : State := (trapping.arith false 0xFFFF fun _ => flNV).onCurSeg fun g => { g with frz := none }

theorem hasElem_recordedUnfrozen : recordedUnfrozen.HasElem := by
  unfold State.HasElem State.HasSeg State.HasIsle
  decide

/-- Refutes O21, for its clause on traps alone: it lacks the hypothesis of `frz_arith_of_trap`, that the records of a running segment
are those of a freeze under way. In a segment that runs with a record of the rule's trap and without a freeze, a second trap posts
nothing (R397), and no freeze begins. A detection makes no such segment, since it writes its record and begins the freeze together
(R398); the statement is about every state. Its other clauses hold: `tb_fflags_arith`, `recs_arith_of_trap`, `f32_special_operands`. -/
theorem not_floatFlagsAndSpecials : ¬ Obligations.FloatFlagsAndSpecials := by
  intro ⟨hflags, _⟩
  obtain ⟨-, -, htrap⟩ := hflags recordedUnfrozen 0xFFFF (fun _ => flNV) hasElem_recordedUnfrozen
  obtain ⟨hfrz, -⟩ := htrap ⟨0, by decide⟩ (by decide)
  exact absurd hfrz (by decide)

end Sys2Proof.Proofs
end

section
/-! PROOFS. What the rules of the matrix unit share: lists overwritten in place, a head taken (R181), a token put to an out-channel
(R64), and one tile of the element changed. -/

namespace Sys2Proof.Proofs

open Sys2Proof.Machine Sys2Proof.Laws

/-! ## Lists overwritten in place -/

theorem nth_eq_getD {α : Type} (d : α) (l : List α) (i : Nat) : nth d l i = l.getD i d := by
  induction l generalizing i with
  | nil => rfl
  | cons x xs ih => cases i with
    | zero => rfl
    | succ i => exact ih i

theorem nth_mem {α : Type} (d : α) {l : List α} {i : Nat} (h : i < l.length) : nth d l i ∈ l := by
  rw [nth_eq_getD, List.getD_eq_getElem?_getD, List.getElem?_eq_getElem h]
  exact List.getElem_mem h

theorem nth_replicate {α : Type} (d x : α) (n i : Nat) : nth d (List.replicate n x) i = if i < n then x else d := by
  rw [nth_eq_getD, List.getD_eq_getElem?_getD, List.getElem?_replicate]
  split <;> rfl

theorem nth_replicate_self {α : Type} (d : α) (n i : Nat) : nth d (List.replicate n d) i = d := by
  rw [nth_replicate, ite_self]

theorem nth_map_range {α : Type} (d : α) (f : Nat → α) {n i : Nat} (h : i < n) : nth d ((List.range n).map f) i = f i := by
  rw [nth_eq_getD, List.getD_eq_getElem?_getD, List.getElem?_map, List.getElem?_range h]
  rfl

/-- What a change of one entry leaves of that entry it leaves of every entry. -/
theorem nth_upd_keeps {α β : Type} (g : α → β) {f : α → α} (hf : ∀ x, g (f x) = g x) (d : α) (l : List α) (i j : Nat) :
    g (nth d (upd f l i) j) = g (nth d l j) := by
  by_cases hij : i = j
  · subst hij
    by_cases hi : i < l.length
    · rw [nth_upd_same _ _ _ _ hi, hf]
    · rw [nth_of_length_le _ _ _ (by rw [length_upd]; omega), nth_of_length_le _ _ _ (by omega)]
  · rw [nth_upd_ne _ _ _ _ _ hij]

section
variable {α : Type} {l : List α} {a n i : Nat} (d : α) (f : Nat → α)

theorem length_overwrite (h : a + n ≤ l.length) :
    (l.take a ++ (List.range n).map f ++ l.drop (a + n)).length = l.length := by
  simp only [List.length_append, List.length_take, List.length_map, List.length_range, List.length_drop]
  omega

theorem nth_overwrite_inside (h : a ≤ l.length) (hi : i < n) :
    nth d (l.take a ++ (List.range n).map f ++ l.drop (a + n)) (a + i) = f i := by
  have ha : (l.take a).length = a := List.length_take_of_le h
  have hmid : i < ((List.range n).map f).length := by rwa [List.length_map, List.length_range]
  rw [← nth_map_range d f hi]
  simp only [nth_eq_getD, List.getD_eq_getElem?_getD]
  rw [List.append_assoc, List.getElem?_append_right (by omega), ha, Nat.add_sub_cancel_left, List.getElem?_append_left hmid]

theorem nth_overwrite_outside (h : a ≤ l.length) (hi : i < a ∨ a + n ≤ i) :
    nth d (l.take a ++ (List.range n).map f ++ l.drop (a + n)) i = nth d l i := by
  have ha : (l.take a).length = a := List.length_take_of_le h
  simp only [nth_eq_getD, List.getD_eq_getElem?_getD]
  rcases hi with hi | hi
  · rw [List.append_assoc, List.getElem?_append_left (by omega), List.getElem?_take_of_lt hi]
  · have hlen : (l.take a ++ (List.range n).map f).length = a + n := by
      rw [List.length_append, ha, List.length_map, List.length_range]
    rw [List.getElem?_append_right (by omega), hlen, List.getElem?_drop, Nat.add_sub_cancel' hi]

end

/-! ## A firing that changes the element, and one that does nothing more -/

theorem liveElem_begin {s : State} (t : BitVec 6) (rds : List Rd) (h : s.HasElem) :
    (s.begin t rds).liveElem = s.view.begin s.liveElem s.cur.j t rds := liveElem_onCurElem _ _ h

theorem liveElem_begin_onCurElem {s : State} (t : BitVec 6) (rds : List Rd) (f : Elem → Elem) (h : s.HasElem) :
    ((s.begin t rds).onCurElem f).liveElem = f (s.view.begin s.liveElem s.cur.j t rds) := by
  rw [liveElem_onCurElem _ _ (hasElem_begin _ _ _ h), liveElem_begin _ _ h]

theorem segOnly_begin_onCurElem (s : State) (t : BitVec 6) (rds : List Rd) (f : Elem → Elem) :
    SegOnly s ((s.begin t rds).onCurElem f) :=
  segOnly_trans _ _ _ (segOnly_begin _ _ _) (segOnly_onCurElem _ _)

/-- R112, R163, R188: a firing that changes nothing more of the element than its stage of B tokens. -/
theorem elemKept_of_restaged {s u : State} {t : BitVec 6} {rds : List Rd} {stage : List Staged} {no : Nat}
    (hu : u.liveElem = { s.view.begin s.liveElem s.cur.j t rds with stage := stage, mmaNo := no }) : ElemKept s u := by
  unfold ElemKept
  rw [hu]
  exact ⟨fun _ => rfl, rfl, rfl, rfl, rfl, rfl, rfl, rfl, rfl⟩

theorem elemKept_begin {s : State} (t : BitVec 6) (rds : List Rd) (h : s.HasElem) : ElemKept s (s.begin t rds) :=
  elemKept_of_restaged (liveElem_begin t rds h)

/-! ## A rule of one in-channel (R181) -/

theorem src_rdIn {s : State} {ch : BitVec 2} {h : Token} (keep : Bool) (hh : s.view.head ch.toNat = some h) :
    s.view.src (rdIn ch keep).code = h.val := by
  have hlo : ¬16 + ch.toNat < 16 := by omega
  have hhi : 16 + ch.toNat < 20 := by omega
  simp only [rdIn, Elem.src, if_neg hlo, if_pos hhi, Nat.add_sub_cancel_left, hh]

section
variable {s : State} {ch : BitVec 2} {h : Token} (hh : s.view.head ch.toNat = some h) (t : BitVec 6) (keep : Bool)
  (eff : Val → State → State)

include hh

theorem nullRead_rdIn : s.nullRead [rdIn ch keep] = h.val.null := by
  simp only [State.nullRead, List.any_cons, List.any_nil, Bool.or_false, src_rdIn keep hh]

/-- R181: a data head gives its value to the rule's own effect. -/
theorem takeHead_of_data (hk : h.kind = .data) :
    s.takeHead t ch keep eff = eff ⟨h.lanes, false, h.pois, h.seqv, h.seq⟩ (s.begin t [rdIn ch keep]) := by
  have hval : h.val = ⟨h.lanes, false, h.pois, h.seqv, h.seq⟩ := by
    rw [Token.val, hk]
    rfl
  simp only [State.takeHead, State.fire, nullRead_rdIn hh keep, List.map_cons, List.map_nil, src_rdIn keep hh, hval, hh,
    headMarker, hk]
  rfl

/-- R70, R181: a null or a marker at the head is all that the firing takes. -/
theorem takeHead_of_not_data (hk : h.kind ≠ .data) : s.takeHead t ch keep eff = s.begin t [rdIn ch keep] := by
  simp only [State.takeHead, State.fire, nullRead_rdIn hh keep, hh, headMarker, Token.val]
  cases hkind : h.kind with
  | data => exact absurd hkind hk
  | null => rfl
  | eoi => rfl
  | fin => rfl

end

/-! ## A token put to an out-channel (R64) -/

/-- A change of an element that touches nothing but its queues. -/
def QueuesOnly (f : Elem → Elem) : Prop := ∀ el, ∃ inq oq, f el = { el with inq := inq, oq := oq }

/-- R46, R64, R83: a place put to an out-channel is parked on its arc or enters a queue of one element. -/
theorem put_cases (c st : Core) (p e k : Nat) (x : Slot) :
    (∃ l, c.put st p e k x = { c with parkd := l }) ∨ ∃ q e' f, QueuesOnly f ∧ c.put st p e k x = c.onElem q e' f := by
  unfold Core.put
  dsimp only
  split
  case isFalse => exact .inr ⟨_, _, _, fun el => ⟨_, _, rfl⟩, rfl⟩
  case isTrue =>
    unfold Core.send
    split
    case h_2 => exact .inl ⟨_, rfl⟩
    case h_1 e' _ =>
      split
      case isTrue => exact .inr ⟨_, _, _, fun el => ⟨_, _, rfl⟩, rfl⟩
      case isFalse =>
        split
        case isFalse => exact .inl ⟨_, rfl⟩
        case isTrue =>
          dsimp only
          split
          case h_2 => exact .inl ⟨_, rfl⟩
          case h_1 q _ =>
            split
            · exact .inl ⟨_, rfl⟩
            · exact .inr ⟨_, _, _, fun el => ⟨_, _, rfl⟩, rfl⟩

theorem elem_onElem_keeps {β : Type} (g : Elem → β) {f : Elem → Elem} (hf : ∀ x, g (f x) = g x) (c : Core) (q e' p e : Nat) :
    g ((c.onElem q e' f).elem p e) = g (c.elem p e) :=
  nth_upd_keeps (fun st : Stripe => g (st.elem e)) (f := fun st => st.onElem e' f)
    (fun st => nth_upd_keeps g hf default st.elems e' e) default c.stripes q p

/-- R64: a put leaves of every element all but its queues. -/
theorem elem_put_keeps {β : Type} (g : Elem → β) (hg : ∀ (el : Elem) inq oq, g { el with inq := inq, oq := oq } = g el)
    (c st : Core) (p e k : Nat) (x : Slot) (q e' : Nat) : g ((c.put st p e k x).elem q e') = g (c.elem q e') := by
  obtain ⟨l, hl⟩ | ⟨_, _, f, hf, hput⟩ := put_cases c st p e k x
  · rw [hl]
    rfl
  · rw [hput]
    refine elem_onElem_keeps g (fun el => ?_) _ _ _ _ _
    obtain ⟨inq, oq, hel⟩ := hf el
    rw [hel, hg]

theorem stripes_length_put (c st : Core) (p e k : Nat) (x : Slot) : (c.put st p e k x).stripes.length = c.stripes.length := by
  obtain ⟨l, hl⟩ | ⟨_, _, f, -, hput⟩ := put_cases c st p e k x
  · rw [hl]
  · rw [hput, Core.onElem, Core.onStripe, length_upd]

theorem elems_length_put (c st : Core) (p e k : Nat) (x : Slot) (q : Nat) :
    ((c.put st p e k x).stripe q).elems.length = (c.stripe q).elems.length := by
  obtain ⟨l, hl⟩ | ⟨_, _, f, -, hput⟩ := put_cases c st p e k x
  · rw [hl]
    rfl
  · rw [hput]
    exact nth_upd_keeps (fun st : Stripe => st.elems.length) (fun _ => length_upd _ _ _) _ _ _ _

theorem liveElem_putTok_keeps {β : Type} (g : Elem → β) (hg : ∀ (el : Elem) inq oq, g { el with inq := inq, oq := oq } = g el)
    {s : State} (k : Nat) (kind : Kind) (v : Val) (h : s.HasSeg) : g (s.putTok k kind v).liveElem = g s.liveElem := by
  show g (((s.putTok k kind v).segD s.cur.n s.cur.k).live.elem s.cur.p s.cur.e) = g s.liveElem
  unfold State.putTok
  rw [segD_onCurSeg _ _ h]
  exact elem_put_keeps g hg _ _ _ _ _ _ _ _

theorem hasElem_putTok {s : State} (k : Nat) (kind : Kind) (v : Val) (h : s.HasElem) : (s.putTok k kind v).HasElem := by
  obtain ⟨hseg, hstripe, helem, hv, hp, hc⟩ := h
  refine ⟨hasSeg_onCurSeg _ _ hseg, ?stripe, ?elem, ?v, ?pred, ?ctr⟩
  case stripe =>
    show s.cur.p < ((s.putTok k kind v).segD s.cur.n s.cur.k).live.stripes.length
    unfold State.putTok
    rw [segD_onCurSeg _ _ hseg, Seg.put, Seg.onLive, stripes_length_put]
    exact hstripe
  case elem =>
    show s.cur.e < (((s.putTok k kind v).segD s.cur.n s.cur.k).live.stripe s.cur.p).elems.length
    unfold State.putTok
    rw [segD_onCurSeg _ _ hseg, Seg.put, Seg.onLive, elems_length_put]
    exact helem
  case v => rwa [liveElem_putTok_keeps (·.v.length) (fun _ _ _ => rfl) _ _ _ hseg]
  case pred => rwa [liveElem_putTok_keeps (·.pred.length) (fun _ _ _ => rfl) _ _ _ hseg]
  case ctr => rwa [liveElem_putTok_keeps (·.ctr.length) (fun _ _ _ => rfl) _ _ _ hseg]

/-- R62 to R65: the data token that a rule sends after its firing has begun. -/
theorem tokenSent_putTok {s pre : State} (k : Nat) (vs : List Val) (v : Val) (lane : Nat → W) (hv : pre.view = s.view)
    (hc : pre.cur = s.cur) (hl : ∀ j, j < 16 → v.lanes.get j = lane j) (hs : (v.seqv, if v.seqv then v.seq else 0) = outTag vs) :
    TokenSent s pre (pre.putTok k .data v) k vs v.pois lane := by
  refine ⟨(⟨v.lanes, .data, s.view.outType k, v.pois, v.seqv, if v.seqv then v.seq else 0, 0⟩ : Token).sealed, rfl, hl, rfl, rfl, hs,
    sealed_ok _, ?_⟩
  rw [State.putTok, hc, hv]
  cases v.pois <;> cases v.seqv <;> rfl

/-! ## One tile of the element -/

theorem plane_onPlane_same {el : Elem} {n : Nat} (f : PlaneTile → PlaneTile) (h : n < el.planes.length) :
    (el.onPlane n f).plane n = f (el.plane n) := nth_upd_same _ _ _ _ h

theorem plane_onPlane_ne {n m : Nat} (el : Elem) (f : PlaneTile → PlaneTile) (h : m ≠ n) : (el.onPlane n f).plane m = el.plane m :=
  nth_upd_ne _ _ _ _ _ h.symm

theorem accT_onAcc_same {el : Elem} {n : Nat} (f : AccTile → AccTile) (h : n < el.acc.length) :
    (el.onAcc n f).accT n = f (el.accT n) := nth_upd_same _ _ _ _ h

theorem accT_onAcc_ne {n m : Nat} (el : Elem) (f : AccTile → AccTile) (h : m ≠ n) : (el.onAcc n f).accT m = el.accT m :=
  nth_upd_ne _ _ _ _ _ h.symm

theorem vals_plane_onPlane {f : PlaneTile → PlaneTile} (hf : ∀ p, (f p).vals = p.vals) (el : Elem) (n m : Nat) :
    ((el.onPlane n f).plane m).vals = (el.plane m).vals := nth_upd_keeps PlaneTile.vals hf _ _ _ _

theorem vals_accT_onAcc {f : AccTile → AccTile} (hf : ∀ a, (f a).vals = a.vals) (el : Elem) (n m : Nat) :
    ((el.onAcc n f).accT m).vals = (el.accT m).vals := nth_upd_keeps AccTile.vals hf _ _ _ _

section
variable {s : State} (h : s.HasTiles)

include h

theorem hasTiles_plane_lt (pl : BitVec 4) : pl.toNat < s.liveElem.planes.length := by
  obtain ⟨-, hplanes, -⟩ := h
  rw [hplanes]
  exact pl.isLt

theorem hasTiles_acc_lt (n : BitVec 3) : n.toNat < s.liveElem.acc.length := by
  obtain ⟨-, -, hacc, -⟩ := h
  rw [hacc]
  exact n.isLt

theorem hasTiles_plane_vals (pl : BitVec 4) : (s.liveElem.plane pl.toNat).vals.length = 512 := by
  obtain ⟨-, -, -, hvals, -⟩ := id h
  exact hvals _ (nth_mem _ (hasTiles_plane_lt h pl))

theorem hasTiles_acc_vals (n : BitVec 3) : (s.liveElem.accT n.toNat).vals.length = 256 := by
  obtain ⟨-, -, -, -, hvals⟩ := id h
  exact hvals _ (nth_mem _ (hasTiles_acc_lt h n))

/-- A firing that changes one plane tile. -/
theorem plane_begin_onPlane (t : BitVec 6) (rds : List Rd) (pl : BitVec 4) (f : PlaneTile → PlaneTile) :
    ((s.begin t rds).onCurElem fun lv => lv.onPlane pl.toNat f).liveElem.plane pl.toNat = f (s.liveElem.plane pl.toNat) := by
  rw [liveElem_begin_onCurElem _ _ _ h.1]
  exact plane_onPlane_same f (hasTiles_plane_lt h pl)

end

/-! ## The types of packed values (R134, R176) -/

theorem typeWidth_cases (ty : Nat) : typeWidth ty = 16 ∨ typeWidth ty = 8 ∨ typeWidth ty = 6 ∨ typeWidth ty = 4 ∨ typeWidth ty = 32 := by
  unfold typeWidth
  split
  · exact .inl rfl
  · split
    · exact .inr (.inl rfl)
    · split
      · exact .inr (.inr (.inl rfl))
      · split
        · exact .inr (.inr (.inr (.inl rfl)))
        · exact .inr (.inr (.inr (.inr rfl)))

theorem packedGet_lt (w : Nat) (l : Lanes) (i : Nat) : packedGet w l i < 2 ^ w := Nat.mod_lt _ (Nat.two_pow_pos w)

/-- A value of a type that fills rows of a plane tile has at most sixteen bits. -/
theorem packedGet_lt_of_rows {ty : Nat} (h : 0 < partsPerLane (typeWidth ty) / 2) (l : Lanes) (i : Nat) :
    packedGet (typeWidth ty) l i < 2 ^ 16 := by
  have hw : typeWidth ty ≤ 16 := by
    rcases typeWidth_cases ty with hw | hw | hw | hw | hw <;> rw [hw] at h ⊢ <;> revert h <;> decide
  exact Nat.lt_of_lt_of_le (packedGet_lt _ _ _) (Nat.pow_le_pow_right Nat.two_pos hw)

/-- R176: the tokens of a tile hold its sixteen rows. -/
theorem accRows_mul_accTokens (ty : Nat) : accRows ty * accTokens ty = 16 := by
  rw [accTokens, accRows]
  rcases typeWidth_cases ty with hw | hw | hw | hw | hw <;> rw [hw] <;> rfl

end Sys2Proof.Proofs
end

section
/-! PROOFS. Plane tiles (R161, R181 to R183): what a token fills, and what a clear and a load of scales leave. -/

namespace Sys2Proof.Proofs

open Sys2Proof.Machine Sys2Proof.Laws

/-! ## A token filled into a tile (R161) -/

/-- R161: the row at which a fill begins or goes on. -/
def fillRow (p : PlaneTile) (row : Nat) : Nat := if p.filling then p.fc.toNat else row

/-- R161: the rows that a token of the tile's type fills. -/
def fillRows (p : PlaneTile) : Nat := partsPerLane (typeWidth p.fmt.toNat) / 2

section
variable {p : PlaneTile} {row : Nat} (v : Val)

theorem fill_prow {r : Nat} (hr : r < 16) : tb (p.fill row v).prow r =
    if fillRow p row ≤ r ∧ r < fillRow p row + fillRows p then v.pois else tb p.prow r := tb_bits16 _ hr

theorem fill_fc : (p.fill row v).fc.toNat = (fillRow p row + fillRows p) % 16 := by
  show BitVec.toNat (if fillRow p row + fillRows p = 16 then 0 else BitVec.ofNat 4 (fillRow p row + fillRows p)) = _
  split
  case isTrue hend => rw [hend]; rfl
  case isFalse => exact BitVec.toNat_ofNat _ _

theorem fill_filling : (p.fill row v).filling = decide (fillRow p row + fillRows p ≠ 16) :=
  Bool.eq_iff_iff.2 (bne_iff_ne.trans decide_eq_true_iff.symm)

variable (hvals : p.vals.length = 512) (hf : fillRow p row + fillRows p ≤ 16)

include hvals hf

/-- A fill within the tile writes over the values of its rows. -/
theorem fill_vals : (p.fill row v).vals = p.vals.take (32 * fillRow p row) ++
    (List.range (32 * fillRows p)).map (fun i => BitVec.ofNat 16 (packedGet (typeWidth p.fmt.toNat) v.lanes i)) ++
    p.vals.drop (32 * fillRow p row + 32 * fillRows p) := by
  have hroom : 32 * fillRow p row + 32 * fillRows p ≤ p.vals.length := by omega
  exact List.take_of_length_le (Nat.le_of_eq ((length_overwrite _ hroom).trans hvals))

theorem fill_vals_inside {n : Nat} (hn : n < 32 * fillRows p) :
    (nth 0 (p.fill row v).vals (32 * fillRow p row + n)).toNat = packedGet (typeWidth p.fmt.toNat) v.lanes n := by
  rw [fill_vals v hvals hf, nth_overwrite_inside _ _ (by omega) hn, BitVec.toNat_ofNat,
    Nat.mod_eq_of_lt (packedGet_lt_of_rows (Nat.pos_of_mul_pos_left (Nat.zero_lt_of_lt hn)) _ _)]

theorem fill_vals_outside {n : Nat} (hn : n < 32 * fillRow p row ∨ 32 * (fillRow p row + fillRows p) ≤ n) :
    nth 0 (p.fill row v).vals n = nth 0 p.vals n := by
  rw [fill_vals v hvals hf, nth_overwrite_outside _ _ (by omega) (by omega)]

end

/-! ## Scales (R183) -/

/-- R183: scale `n` of a token is byte `n` of its lanes in order. -/
theorem toNat_nth_scales (l : Lanes) {n : Nat} (hn : n < 16) :
    (nth (0 : Byte) ((List.range 16).map fun i => BitVec.ofNat 8 (packedGet 8 l i)) n).toNat =
      fld (l.get (n / 4)).toNat (8 * (n % 4)) 8 := by
  rw [nth_map_range _ _ hn, BitVec.toNat_ofNat, Nat.mod_eq_of_lt (packedGet_lt _ _ _)]
  rfl

/-- R183: the loaded side of a tile's scales holds the token's, the other and the values are as before. -/
theorem loadScales_spec (q : PlaneTile) (bsc : Bool) (v : Val) :
    (let p := q.loadScales bsc v
     (∀ n, n < 16 → (nth 0 (if bsc then p.bscale else p.ascale) n).toNat = fld (v.lanes.get (n / 4)).toNat (8 * (n % 4)) 8) ∧
     (if bsc then p.ascale = q.ascale ∧ p.apois = q.apois ∧ p.bpois = v.pois
      else p.bscale = q.bscale ∧ p.bpois = q.bpois ∧ p.apois = v.pois) ∧
     p.vals = q.vals) := by
  cases bsc <;> exact ⟨fun n hn => toNat_nth_scales v.lanes hn, ⟨rfl, rfl, rfl⟩, rfl⟩

/-! ## The rules -/

/-- Settles O22: each rule changes its own tile of the live element as `PlaneTile.fill`, `PlaneTile.clear` or `PlaneTile.loadScales`
does, once its firing has begun. -/
theorem planeTiles : Obligations.PlaneTiles := by
  intro t s h
  refine ⟨fun pl ch row sp k hd hh i hi => ?fill, fun pl => ⟨_, rfl, segOnly_begin_onCurElem _ _ _ _, ?clear⟩,
    fun o hd hh => ⟨fun hk => ⟨_, rfl, ?load⟩, fun hk => ⟨_, rfl, ?keep⟩⟩⟩
  case fill =>
    have hx : exec i s = .next (s.takeHead t ch k fun v s => s.onCurElem fun lv => lv.onPlane pl.toNat fun p => p.fill row.toNat v) := by
      simp only [List.mem_cons, List.not_mem_nil, or_false] at hi
      rcases hi with rfl | rfl <;> rfl
    refine ⟨fun hk hf => ⟨_, hx, ?data⟩, fun hk => ⟨_, hx, ?other⟩⟩
    case data =>
      have hvals := hasTiles_plane_vals h pl
      rw [takeHead_of_data hh _ _ _ hk, plane_begin_onPlane h]
      refine ⟨segOnly_begin_onCurElem _ _ _ _, fun _ hn => fill_vals_inside _ hvals hf hn,
        fun _ hn => fill_vals_outside _ hvals hf hn, fun _ hr => fill_prow _ hr, fill_fc _, fill_filling _, fun m hm => ?_⟩
      rw [liveElem_begin_onCurElem _ _ _ h.1]
      exact plane_onPlane_ne _ _ hm
    case other =>
      rw [takeHead_of_not_data hh _ _ _ hk]
      exact ⟨segOnly_begin _ _ _, elemKept_begin _ _ h.1⟩
  case clear =>
    rw [plane_begin_onPlane h]
    exact ⟨nth_replicate_self _ _, rfl, rfl, rfl, rfl, rfl,
      fun n hn => ⟨(nth_replicate _ _ _ _).trans (if_pos hn), (nth_replicate _ _ _ _).trans (if_pos hn)⟩, rfl, rfl⟩
  case load =>
    show SegOnly s (s.takeHead _ _ _ _) ∧ _
    rw [takeHead_of_data hh _ _ _ hk, plane_begin_onPlane h]
    exact ⟨segOnly_begin_onCurElem _ _ _ _, loadScales_spec _ _ _⟩
  case keep =>
    rw [takeHead_of_not_data hh _ _ _ hk]
    exact ⟨segOnly_begin _ _ _, elemKept_begin _ _ h.1⟩

end Sys2Proof.Proofs
end

section
/-! PROOFS. Multiplies (R158, R163, R173, R184, R188): how a multiply enters its queue, and which token of the stage is forwarded. -/

namespace Sys2Proof.Proofs

open Sys2Proof.Machine Sys2Proof.Laws

/-! ## A multiply queued (R163, R173, R184) -/

/-- R163: the group that the next multiply on a plane tile takes. -/
def nextGroup (el : Elem) (pl : Nat) : List Token :=
  (el.unassigned.take (groupLen (el.plane pl).fmt.toNat (el.plane pl).sparse.toNat)).map (·.tok)

/-- R163: a group that holds a null. -/
def hasNull (grp : List Token) : Bool := grp.any fun x => x.kind == .null

theorem hasNull_eq_true_iff (grp : List Token) : hasNull grp = true ↔ ∃ x ∈ grp, x.kind = .null := by
  simp only [hasNull, List.any_eq_true, beq_iff_eq]

theorem hasNull_eq_false_iff (grp : List Token) : hasNull grp = false ↔ ∀ x ∈ grp, x.kind ≠ .null := by
  simp only [hasNull, List.any_eq_false, beq_iff_eq]

/-- R173, R184: what a multiply latches as it fires. -/
def latchedMma (el : Elem) (slot : Nat) (o : FmtMma) (sck : Nat) : Mma :=
  let pt := el.plane o.pl.toNat
  let grp := nextGroup el o.pl.toNat
  { id := el.mmaNo, slot := slot, acc := o.t.toNat, plane := o.pl.toNat, zero := o.zero, sparse := pt.sparse != 0,
    group := grp, ascale := pt.ascale, bscale := pt.bscale, pois := grp.any (·.poison) || pt.apois || pt.bpois, fired := sck,
    dur := matDur pt.fmt.toNat pt.sparse.toNat, start := none, ended := false, ord := el.ord.toNat, a := [],
    fmt := pt.fmt.toNat, sp := pt.sparse.toNat }

theorem latchedMma_group (el : Elem) (slot : Nat) (o : FmtMma) (sck : Nat) :
    (latchedMma el slot o sck).group = nextGroup el o.pl.toNat := rfl

theorem latchedMma_pois (el : Elem) (slot : Nat) (o : FmtMma) (sck : Nat) : (latchedMma el slot o sck).pois =
    ((nextGroup el o.pl.toNat).any (·.poison) || (el.plane o.pl.toNat).apois || (el.plane o.pl.toNat).bpois) := rfl

/-- R163, R184: a group without a null enters the queue, and its tiles wait for it. -/
theorem queueMma_of_no_null {el : Elem} {slot sck : Nat} {o : FmtMma} (hn : hasNull (nextGroup el o.pl.toNat) = false) :
    ∃ stage, el.queueMma slot o sck =
      (({ el with stage := stage, mmaNo := el.mmaNo + 1, mq := el.mq ++ [latchedMma el slot o sck] }.onPlane o.pl.toNat
        fun p => { p with busy := p.busy + 1 }).onAcc o.t.toNat fun a => { a with pend := a.pend + 1 }) :=
  ⟨_, if_neg (Bool.eq_false_iff.1 hn)⟩

/-- R67, R163, R184: what a firing multiply whose group holds no null makes of the live element `lv`. -/
theorem queueMma_begin_of_no_null {st lv : Elem} {j slot sck : Nat} {t : BitVec 6} {o : FmtMma}
    (hn : hasNull (nextGroup lv o.pl.toNat) = false) (hp : o.pl.toNat < lv.planes.length) (ha : o.t.toNat < lv.acc.length) :
    (let u := (st.begin lv j t []).queueMma slot o sck
     u.mq = lv.mq ++ [latchedMma lv slot o sck] ∧ (u.plane o.pl.toNat).busy = (lv.plane o.pl.toNat).busy + 1 ∧
     (u.accT o.t.toNat).pend = (lv.accT o.t.toNat).pend + 1 ∧
     (∀ n, (u.accT n).vals = (lv.accT n).vals ∧ (u.plane n).vals = (lv.plane n).vals) ∧ u.v = lv.v) := by
  obtain ⟨stage, hq⟩ := queueMma_of_no_null (el := st.begin lv j t []) (slot := slot) (sck := sck) hn
  rw [hq]
  exact ⟨rfl, congrArg PlaneTile.busy (plane_onPlane_same _ hp), congrArg AccTile.pend (accT_onAcc_same _ ha),
    fun n => ⟨vals_accT_onAcc (by exact fun _ => rfl) _ _ _, vals_plane_onPlane (by exact fun _ => rfl) _ _ _⟩, rfl⟩

/-- R163: a group with a null leaves nothing but the stage and its numbering changed. -/
theorem queueMma_of_null {el : Elem} {slot sck : Nat} {o : FmtMma} (hn : hasNull (nextGroup el o.pl.toNat) = true) :
    ∃ stage no, el.queueMma slot o sck = { el with stage := stage, mmaNo := no } := ⟨_, _, if_pos hn⟩

/-- R158: the occupancy of a dense multiply. -/
theorem matDur_dense : ∀ x ∈ denseOccupancy, matDur x.1 0 = x.2 := by decide

theorem liveElem_charge (s : State) (n tenant idx amt : Nat) : (s.charge n tenant idx amt).liveElem = s.liveElem := by
  have hrings : ((s.charge n tenant idx amt).isle s.cur.n).rings = (s.isle s.cur.n).rings :=
    nth_upd_keeps Isle.rings (by exact fun _ => rfl) default s.isles n s.cur.n
  show ((nth default ((s.charge n tenant idx amt).isle s.cur.n).rings s.cur.k).seg.getD default).live.elem s.cur.p s.cur.e = s.liveElem
  rw [hrings]
  rfl

section
variable {s : State} (t : BitVec 6) (o : FmtMma)

/-- R184, R492: charging its multiplies, a rule changes its element by `Elem.queueMma` alone. -/
theorem liveElem_fireMma (h : s.HasElem) : (s.fireMma t o).liveElem =
    (s.view.begin s.liveElem s.cur.j t []).queueMma s.cur.j o (s.segD s.cur.n s.cur.k).sck := by
  rw [← liveElem_begin_onCurElem t [] (fun lv => lv.queueMma s.cur.j o (s.segD s.cur.n s.cur.k).sck) h]
  simp only [State.fireMma]
  split
  · rfl
  · exact liveElem_charge _ _ _ _ _

theorem sameMemory_fireMma : SameMemory s (s.fireMma t o) := by
  simp only [State.fireMma]
  split <;> exact ⟨fun _ => rfl, rfl, rfl⟩

/-- R163, R492: a group with a null is not charged. -/
theorem segOnly_fireMma_of_null (hn : hasNull (nextGroup s.liveElem o.pl.toNat) = true) : SegOnly s (s.fireMma t o) := by
  rw [hasNull, nextGroup, List.any_map] at hn
  simp only [State.fireMma]
  rw [if_pos (by exact hn)]
  exact segOnly_begin_onCurElem _ _ _ _

end

/-! ## A token forwarded (R188) -/

theorem forwardStage_append {pre : List Staged} {x : Staged} (post : List Staged) (hpre : ∀ y ∈ pre, y.grp = none ∨ y.fwd = true)
    (hg : x.grp.isSome = true) (hf : x.fwd = false) :
    ∃ stage, forwardStage (pre ++ x :: post) = some (x.tok, stage) := by
  induction pre with
  | nil => exact ⟨_, by rw [List.nil_append, forwardStage, hg, hf]; rfl⟩
  | cons y ys ih =>
    obtain ⟨stage, hst⟩ := ih fun z hz => hpre z (List.mem_cons_of_mem _ hz)
    have hskip : (y.grp.isSome && !y.fwd) = false := by
      rcases hpre y List.mem_cons_self with hy | hy <;> rw [hy]
      · rfl
      · rw [Bool.not_true, Bool.and_false]
    exact ⟨y :: stage, by rw [List.cons_append, forwardStage, hskip, hst]; rfl⟩

/-! ## The rules -/

/-- R188: a forward marks a token of the stage, may release a group, and sends the token. -/
theorem exec_mfwd {s : State} {t : BitVec 6} {ch out : BitVec 2} {tok : Token} {stage : List Staged} (h : s.HasElem)
    (hf : forwardStage s.liveElem.stage = some (tok, stage)) :
    exec (.mfwd t ch out) s = .next (((s.begin t []).onCurElem fun lv => { lv with stage := stage }.releaseStage).onCurSeg fun g =>
      g.put s.cur.p s.cur.e out.toNat (.tok tok)) := by
  have hstage : forwardStage (s.begin t []).liveElem.stage = some (tok, stage) := by
    rw [liveElem_begin _ _ h]
    exact hf
  show execMfwd t ch out s = _
  simp only [execMfwd, hstage]

/-- Settles O23: a firing multiply is `Elem.queueMma` on the live element and a charge; an MFWD forwards the token that `forwardStage`
finds. -/
theorem matrixMultiplies : Obligations.MatrixMultiplies := by
  intro t s h
  obtain ⟨hel, -⟩ := id h
  refine ⟨fun o i hi => ?multiply, fun ch out pre x post hst hpre hg hf => ?forward⟩
  case multiply =>
    have hx : exec i s = .next (s.fireMma t o) := by
      simp only [List.mem_cons, List.not_mem_nil, or_false] at hi
      rcases hi with rfl | rfl <;> rfl
    have hlive := liveElem_fireMma t o hel
    refine ⟨fun hno => ?queued, fun hsome => ?null⟩
    case queued =>
      obtain ⟨hmq, hbusy, hpend, hvals, hv⟩ := queueMma_begin_of_no_null (st := s.view) (j := s.cur.j) (slot := s.cur.j)
        (sck := (s.segD s.cur.n s.cur.k).sck) (t := t) ((hasNull_eq_false_iff (nextGroup s.liveElem o.pl.toNat)).2 hno)
        (hasTiles_plane_lt h o.pl) (hasTiles_acc_lt h o.t)
      rw [← hlive] at hmq hbusy hpend hvals hv
      refine ⟨_, _, hx, hmq, latchedMma_group _ _ _ _, rfl, rfl, rfl, rfl, rfl, latchedMma_pois _ _ _ _, rfl, rfl,
        fun y hy hty hsp => ?_, hbusy, hpend, hvals, fun r => congrArg (fun l => (nth VReg.empty l r).val) hv, sameMemory_fireMma t o⟩
      rw [latchedMma, hty, hsp]
      exact matDur_dense y hy
    case null =>
      have hn := (hasNull_eq_true_iff (nextGroup s.liveElem o.pl.toNat)).2 hsome
      obtain ⟨stage, no, hq⟩ := queueMma_of_null (el := s.view.begin s.liveElem s.cur.j t []) (slot := s.cur.j)
        (sck := (s.segD s.cur.n s.cur.k).sck) hn
      exact ⟨_, hx, segOnly_fireMma_of_null t o hn, elemKept_of_restaged (hlive.trans hq), by rw [hlive, hq]; rfl⟩
  case forward =>
    obtain ⟨stage, hfwd⟩ := forwardStage_append post hpre hg hf
    rw [← hst] at hfwd
    exact ⟨_, exec_mfwd hel hfwd, segOnly_begin_onCurElem _ _ _ _,
      elemKept_of_restaged (liveElem_begin_onCurElem _ _ _ hel)⟩

end Sys2Proof.Proofs
end

section
/-! PROOFS. Accumulator tiles (R176, R185 to R187): what a token read out or written makes of a tile and its cursor. -/

namespace Sys2Proof.Proofs

open Sys2Proof.Machine Sys2Proof.Laws

/-! ## Flags, generators and the tiles -/

theorem acc_arith {s : State} (p : Bool) (mask : W16) (fl : Nat → Nat) (h : s.HasElem) :
    (s.arith p mask fl).liveElem.acc = s.liveElem.acc := by
  have hflags : (s.raiseFlags (orFlags mask fl)).liveElem.acc = s.liveElem.acc := by
    rw [State.raiseFlags, liveElem_onCurElem _ _ h]
  obtain hr | hr | ⟨_, hr⟩ := arith_cases s p mask fl <;> rw [hr]
  · exact hflags
  · rw [liveElem_faultRule _ _ (hasElem_raiseFlags _ _ h).1]
    exact hflags

theorem hasElem_srAdvance {s : State} (b : Bool) (h : s.HasElem) : (s.srAdvance b).HasElem := by
  obtain ⟨-, -, -, hv, hp, hc⟩ := id h
  unfold State.srAdvance
  split
  · exact hasElem_onCurElem _ _ h hv hp hc
  · exact h

theorem acc_srAdvance {s : State} (b : Bool) (h : s.HasElem) : (s.srAdvance b).liveElem.acc = s.liveElem.acc := by
  unfold State.srAdvance
  split
  · rw [liveElem_onCurElem _ _ h]
  · rfl

theorem acc_foldl_srAdvance (b : Bool) (l : List Nat) {s : State} (h : s.HasElem) :
    (l.foldl (fun s _ => s.srAdvance b) s).liveElem.acc = s.liveElem.acc := by
  induction l generalizing s with
  | nil => rfl
  | cons _ l ih => exact (ih (hasElem_srAdvance b h)).trans (acc_srAdvance b h)

theorem acc_begin {s : State} (t : BitVec 6) (rds : List Rd) (h : s.HasElem) : (s.begin t rds).liveElem.acc = s.liveElem.acc := by
  rw [liveElem_begin _ _ h]
  rfl

theorem hasElem_onCurElem_onAcc {s : State} (n : Nat) (f : AccTile → AccTile) (h : s.HasElem) :
    (s.onCurElem fun lv => lv.onAcc n f).HasElem := by
  obtain ⟨-, -, -, hv, hp, hc⟩ := id h
  exact hasElem_onCurElem s (fun lv => lv.onAcc n f) h hv hp hc

theorem accT_of_acc {e e' : Elem} (h : e'.acc = e.acc) (n : Nat) : e'.accT n = e.accT n := by
  rw [Elem.accT, h, Elem.accT]

/-- A change of one tile of an element whose tiles are those of `s`. -/
theorem accT_onCurElem_onAcc {s u : State} (h : s.HasTiles) (hu : u.HasElem) (hacc : u.liveElem.acc = s.liveElem.acc) (n : BitVec 3)
    (f : AccTile → AccTile) : (u.onCurElem fun lv => lv.onAcc n.toNat f).liveElem.accT n.toNat = f (s.liveElem.accT n.toNat) := by
  rw [liveElem_onCurElem _ _ hu, accT_onAcc_same _ (by rw [hacc]; exact hasTiles_acc_lt h n), accT_of_acc hacc]

/-! ## A token read out (R185) -/

/-- R185: the token of a tile that the next read-out sends. -/
def readAt (a : AccTile) : Nat := if a.xfer = 0 then 0 else a.cur.toNat

theorem readStep_eq (a : AccTile) (ty : Nat) (clr : Bool) : a.readStep ty clr =
    if readAt a + 1 = accTokens ty then
      if clr then { a with xfer := 0, cur := 0, vals := List.replicate 256 0, poison := false } else { a with xfer := 0, cur := 0 }
    else { a with xfer := 1, cur := BitVec.ofNat 4 (readAt a + 1) } := rfl

/-- R185: the last token ends the read-out, and CLR clears the tile. -/
theorem readStep_last {a : AccTile} {ty : Nat} (clr : Bool) (hlast : readAt a + 1 = accTokens ty) :
    (a.readStep ty clr).xfer = 0 ∧ (a.readStep ty clr).cur = 0 ∧
    (clr = true → (∀ n, nth (0 : W) (a.readStep ty clr).vals n = 0) ∧ (a.readStep ty clr).poison = false) ∧
    (clr = false → (a.readStep ty clr).vals = a.vals ∧ (a.readStep ty clr).poison = a.poison) := by
  rw [readStep_eq, if_pos hlast]
  cases clr with
  | true => exact ⟨rfl, rfl, fun _ => ⟨nth_replicate_self _ _, rfl⟩, fun hclr => absurd hclr (by decide)⟩
  | false => exact ⟨rfl, rfl, fun hclr => absurd hclr (by decide), fun _ => ⟨rfl, rfl⟩⟩

/-- R185: any token before the last steps the cursor. -/
theorem readStep_next {a : AccTile} {ty : Nat} (clr : Bool) (hnext : readAt a + 1 < accTokens ty) :
    (a.readStep ty clr).xfer = 1 ∧ (a.readStep ty clr).cur.toNat = readAt a + 1 ∧ (a.readStep ty clr).vals = a.vals := by
  have hle : accTokens ty ≤ 16 := Nat.div_le_self _ _
  rw [readStep_eq, if_neg (Nat.ne_of_lt hnext)]
  exact ⟨rfl, (BitVec.toNat_ofNat _ _).trans (Nat.mod_eq_of_lt (by omega)), rfl⟩

/-- R185: FP32 values leave a tile as they are. -/
theorem accOut_fp32 (c : Cfg) (sr : List W) (tile : AccTile) (sat : Bool) (tokNo : Nat) {v : Nat} (hv : v < 16) :
    accOut c sr tile 1 sat tokNo v = ((nth (0 : W) tile.vals (16 * tokNo + v)).toNat, 0) := by
  have hrows : accRows 1 = 1 := rfl
  rw [accOut, if_pos rfl, hrows, Nat.div_eq_of_lt hv, Nat.mod_eq_of_lt hv, Nat.one_mul, Nat.add_zero]

section
variable (s : State) (t : BitVec 6) (o : FmtAccrd)

/-- R185: the conversion of packed value `v` of the token to be sent. -/
def accrdOut (v : Nat) : FRes :=
  accOut s.view.img.cfg s.view.sr (s.view.accT o.t.toNat) o.ty.toNat o.sat (readAt (s.view.accT o.t.toNat)) v

/-- R141: the flags of the values in lane `k` of the token. -/
def accrdFlags (k : Nat) : Nat :=
  (List.range (accRows o.ty.toNat)).foldl (fun acc p => acc ||| (accrdOut s o (accRows o.ty.toNat * k + p)).2) 0

/-- R185: what an ACCRD sends. -/
def accrdVal : Val :=
  ⟨packLanes (typeWidth o.ty.toNat) fun v => (accrdOut s o v).1, false,
    (s.view.accT o.t.toNat).poison || s.traps (s.view.accT o.t.toNat).poison 0xFFFF (accrdFlags s o), false, 0⟩

/-- R141, R185: the state as an ACCRD sends its token. -/
def accrdRaised : State :=
  (s.begin (if (s.view.accT o.t.toNat).xfer = 1 then 0x3E else t) []).arith (s.view.accT o.t.toNat).poison 0xFFFF (accrdFlags s o)

/-- R185: the state after an ACCRD: a token sent, the tile stepped, and the generators advanced for the rows of the token. -/
def accrdDone : State :=
  (List.range (accRows o.ty.toNat)).foldl (fun s _ => s.srAdvance (o.ty.toNat != 1))
    (((accrdRaised s t o).putTok o.ch.toNat .data (accrdVal s o)).onCurElem fun lv =>
      lv.onAcc o.t.toNat fun a => a.readStep o.ty.toNat o.clr)

theorem exec_accrd : exec (.accrd t o) s = .next (accrdDone s t o) := rfl

variable {s} (h : s.HasTiles)

include h

theorem hasElem_accrdRaised : (accrdRaised s t o).HasElem := hasElem_arith _ _ _ _ (hasElem_begin _ _ _ h.1)

theorem acc_accrdRaised : (accrdRaised s t o).liveElem.acc = s.liveElem.acc :=
  (acc_arith _ _ _ (hasElem_begin _ _ _ h.1)).trans (acc_begin _ _ h.1)

theorem tokenSent_accrd : TokenSent s (accrdRaised s t o) ((accrdRaised s t o).putTok o.ch.toNat .data (accrdVal s o)) o.ch.toNat []
    (accrdVal s o).pois fun k => (accrdVal s o).lanes.get k :=
  tokenSent_putTok _ _ _ _ ((view_arith _ _ _ _ (hasElem_begin _ _ _ h.1)).trans (view_begin _ _ _ h.1.1)) (cur_arith _ _ _ _)
    (fun _ _ => rfl) rfl

/-- R185: an ACCRD steps the live tile. -/
theorem accT_accrd : (accrdDone s t o).liveElem.accT o.t.toNat = (s.liveElem.accT o.t.toNat).readStep o.ty.toNat o.clr := by
  have hraised := hasElem_accrdRaised t o h
  have hsent := hasElem_putTok o.ch.toNat .data (accrdVal s o) hraised
  have hacc := (liveElem_putTok_keeps Elem.acc (fun _ _ _ => rfl) o.ch.toNat .data (accrdVal s o) hraised.1).trans (acc_accrdRaised t o h)
  exact (accT_of_acc (acc_foldl_srAdvance _ _ (hasElem_onCurElem_onAcc _ _ hsent)) _).trans (accT_onCurElem_onAcc h hsent hacc o.t _)

end

/-! ## A token written (R186) -/

theorem packedGet_32 (l : Lanes) (i : Nat) : packedGet 32 l i = (l.get i).toNat := by
  have hparts : partsPerLane 32 = 1 := rfl
  rw [packedGet, hparts, Nat.div_one, Nat.mod_one, fld, Nat.mul_zero, Nat.pow_zero, Nat.div_one]
  exact Nat.mod_eq_of_lt (l.get i).isLt

section
variable {a : AccTile} {ty : Nat} (vals : Nat → Nat) (pois : Bool) (hvals : a.vals.length = 256) (hcur : a.cur.toNat < accTokens ty)

include hvals hcur

/-- R176: the token at the cursor lies within the tile. -/
theorem writeStep_room : 16 * accRows ty * a.cur.toNat + 16 * accRows ty ≤ a.vals.length := by
  calc 16 * accRows ty * a.cur.toNat + 16 * accRows ty = 16 * accRows ty * (a.cur.toNat + 1) := (Nat.mul_succ _ _).symm
    _ ≤ 16 * accRows ty * accTokens ty := Nat.mul_le_mul_left _ hcur
    _ = a.vals.length := by rw [Nat.mul_assoc, accRows_mul_accTokens, hvals]

theorem writeStep_vals_inside {i : Nat} (hi : i < 16 * accRows ty) :
    nth (0 : W) (a.writeStep ty vals pois).vals (16 * accRows ty * a.cur.toNat + i) = BitVec.ofNat 32 (vals i) :=
  nth_overwrite_inside _ _ (by have := writeStep_room hvals hcur; omega) hi

theorem writeStep_vals_outside {i : Nat}
    (hi : i < 16 * accRows ty * a.cur.toNat ∨ 16 * accRows ty * a.cur.toNat + 16 * accRows ty ≤ i) :
    nth (0 : W) (a.writeStep ty vals pois).vals i = nth 0 a.vals i :=
  nth_overwrite_outside _ _ (by have := writeStep_room hvals hcur; omega) hi

end

theorem writeStep_last {a : AccTile} {ty : Nat} (vals : Nat → Nat) (pois : Bool) (hlast : a.cur.toNat + 1 = accTokens ty) :
    (a.writeStep ty vals pois).xfer = 0 ∧ (a.writeStep ty vals pois).cur = 0 :=
  ⟨if_pos (beq_iff_eq.2 hlast), if_pos (beq_iff_eq.2 hlast)⟩

theorem writeStep_next {a : AccTile} {ty : Nat} (vals : Nat → Nat) (pois : Bool) (hnext : a.cur.toNat + 1 < accTokens ty) :
    (a.writeStep ty vals pois).xfer = 2 ∧ (a.writeStep ty vals pois).cur = a.cur + 1 := by
  have hne : ¬(a.cur.toNat + 1 == accTokens ty) = true := fun hb => Nat.ne_of_lt hnext (beq_iff_eq.1 hb)
  have hcur : (a.writeStep ty vals pois).cur = BitVec.ofNat 4 (a.cur.toNat + 1) := if_neg hne
  exact ⟨if_neg hne, by rw [hcur, BitVec.ofNat_add, BitVec.ofNat_toNat, BitVec.setWidth_eq]; rfl⟩

/-! ## The rules -/

/-- Settles O24: an ACCRD steps its tile by `AccTile.readStep`, an ACCWR by `AccTile.writeStep`. -/
theorem accumulatorTiles : Obligations.AccumulatorTiles := by
  intro t s h
  refine ⟨fun o => ?read, fun o hd hh => ⟨fun hk hcur => ⟨_, rfl, ?write⟩, fun hk => ⟨_, rfl, ?keep⟩⟩,
    fun n => ⟨_, rfl, segOnly_begin_onCurElem _ _ _ _, ?clear⟩⟩
  case read =>
    refine ⟨_, _, exec_accrd s t o, tokenSent_accrd t o h, fun hty v hv => ?_, ?_⟩
    · rw [hty]
      exact accOut_fp32 _ _ _ _ _ hv
    · rw [accT_accrd t o h]
      exact ⟨readStep_last o.clr, readStep_next o.clr⟩
  case write =>
    have hvals := hasTiles_acc_vals h o.t
    have hbegun := hasElem_begin s t [rdIn o.ch o.k] h.1
    rw [takeHead_of_data hh _ _ _ hk, accT_onCurElem_onAcc h (hasElem_arith _ _ _ _ hbegun)
      ((acc_arith _ _ _ hbegun).trans (acc_begin _ _ h.1))]
    refine ⟨segOnly_trans _ _ _ (segOnly_begin _ _ _) (segOnly_trans _ _ _ (segOnly_arith _ _ _ _) (segOnly_onCurElem _ _)),
      fun hty v hv => ?fp32, fun v hv => writeStep_vals_outside _ _ hvals hcur hv, writeStep_last _ _, writeStep_next _ _⟩
    rw [hty] at hcur ⊢
    refine (writeStep_vals_inside _ _ hvals hcur hv).trans ?_
    simp only [if_true, packedGet_32, BitVec.ofNat_toNat, BitVec.setWidth_eq]
  case keep =>
    rw [takeHead_of_not_data hh _ _ _ hk]
    exact ⟨segOnly_begin _ _ _, elemKept_begin _ _ h.1⟩
  case clear =>
    rw [accT_onCurElem_onAcc h (hasElem_begin _ _ _ h.1) (acc_begin _ _ h.1)]
    refine ⟨nth_replicate_self _ _, rfl, rfl, rfl, fun m hm => ?_⟩
    rw [liveElem_begin_onCurElem _ _ _ h.1]
    exact accT_onAcc_ne _ _ hm

end Sys2Proof.Proofs
end
